-- ==== Sys2Proof/Word.lean ====
section
/-! DEFINITION. The word types of the Goreth package and their plainest names (spec/00_scope.md R1, R3, spec/01_machine.md R16). -/

namespace Sys2Proof

/-- One byte. -/
abbrev Byte := BitVec 8

/-- One 32-bit lane, or one 32-bit syllable of a bundle (R156). -/
abbrev Lane := BitVec 32

/-- One scalar register or descriptor word (R31). -/
abbrev Word := BitVec 64

/-- One line: 64 lanes of 32 bits, lane `l` at bits [32l+31 : 32l] (R16, R26). -/
abbrev Line := BitVec 2048

/-- One bundle: 16 syllables of 32 bits, syllable `k` at bits [32k+31 : 32k] (R156). -/
abbrev Bundle := BitVec 512

/-- A sparse store: key and value pairs, keys strictly rising, no value zero; a key not listed reads zero. -/
abbrev Store (w : Nat) := List (Nat × BitVec w)

end Sys2Proof
end

