-- ==== Sys2Proof/Syntax.lean ====
section
/-! DEFINITION. The instructions and events of the Goreth package: one constructor for each row of
spec/opcode_table.json, with the row's fields in the row's order (an event row has no fields in the table; its
arguments are what the event names: a coach, a queue, a port, an item, a written value). -/

namespace Sys2Proof

/-- The classes of syllables: the seven opcode classes of R190, the header and the network syllable. -/
inductive Cls where
  | header | network | scalar | vector | special | matrix | async | read | write
  deriving DecidableEq, Repr

/-- The slots of a bundle (R156), the extension syllables apart. -/
inductive Slot where
  | h | n | s0 | s1 | va | vb | vc | f | mx | ax | m0 | m1
  deriving DecidableEq, Repr

/-- The syllable number of a slot (R156). -/
def Slot.syl : Slot → Nat
  | .h => 0 | .n => 1 | .s0 => 2 | .s1 => 3 | .va => 4 | .vb => 5 | .vc => 6 | .f => 7 | .mx => 8 | .ax => 9
  | .m0 => 10 | .m1 => 11

/-- The opcode class of a slot (R190). -/
def Slot.cls : Slot → Cls
  | .h => .header | .n => .network | .s0 => .scalar | .s1 => .scalar | .va => .vector | .vb => .vector
  | .vc => .vector | .f => .special | .mx => .matrix | .ax => .async | .m0 => .read | .m1 => .write

/-- The fields of a host RDMA request (R359, R360): host port, queue pair, whether its packets carry an ECN mark, remote key
and virtual address. -/
structure RdmaReq where
  port : BitVec 2
  qp   : BitVec 10
  ecn  : Bool
  rkey : BitVec 32
  va   : BitVec 64
  deriving DecidableEq, Repr

/-- One line of a PUT on its way to a destination bank (R154, R310, R311): the sender's package, context's coach, item, the
line's number there, its job, whether it stays on the package, the destination and the data. -/
structure PutLine where
  spkg   : BitVec 10
  scoach : BitVec 3
  item   : Nat
  key    : Nat
  job    : BitVec 8
  here   : Bool
  coach  : BitVec 3
  bank   : BitVec 6
  line   : BitVec 14
  data   : Line
  deriving DecidableEq, Repr

/-- One piece of a remote DCOPY at the peer (R154, R308): `write` false asks for `words` words from `dva`, true
writes `data`. `key` names the piece at the sender. `short` says that the whole copy moves at most 192 bytes (R354). -/
structure RemoteReq where
  spkg   : BitVec 10
  scoach : BitVec 3
  item   : Nat
  key    : Nat
  job    : BitVec 8
  write  : Bool
  short  : Bool
  dva    : BitVec 56
  words  : Nat
  data   : List (BitVec 32)
  deriving DecidableEq, Repr

/-- A management datagram without its UDP wrapping (R378): SEQ, OP, OFFSET, payload and TAG. -/
structure Datagram where
  seq     : BitVec 64
  op      : BitVec 8
  offset  : BitVec 64
  payload : List (BitVec 8)
  tag     : BitVec 256
  deriving DecidableEq, Repr

/-- Every row of the opcode table. An event of one coach that names no other argument acts on the coach of the frame
(State.cur); the constructors without arguments stand last (the compiler numbers at most 245 constructors with
arguments). -/
inductive Instr where
  /-- RSOLVE_ACCEPT (R248). -/
  | rsolveAccept (c : BitVec 3) (id : Nat)
  /-- RSOLVE_SWITCH (R248). -/
  | rsolveSwitch (c : BitVec 3) (id : Nat)
  /-- ITEM_POST (R139). -/
  | itemPost (c : BitVec 3) (id : Nat)
  /-- PUT_ACKNOWLEDGEMENT (R154): `id` names the item and which of its lines. -/
  | putAcknowledgement (c : BitVec 3) (id : Nat × Nat) (status : BitVec 8)
  /-- FENCE_SC_TICK (R148). -/
  | fenceScTick (c : BitVec 3) (id : Nat)
  /-- VIEW_MERGE_TIMEOUT (R149). -/
  | viewMergeTimeout (id : Nat)
  /-- TRAP_ENTRY (R327). -/
  | trapEntry (c : BitVec 3) (cause : BitVec 8) (member : BitVec 2) (arg : BitVec 64)
  /-- FATAL_CONTEXT_ERROR (R334). -/
  | fatalContextError (c : BitVec 3) (cause : BitVec 8)
  /-- PREEMPT_REQUEST (R68). -/
  | preemptRequest (c : BitVec 3) (cancel : Bool)
  /-- SLICE_EXPIRY (R68). -/
  | sliceExpiry (c : BitVec 3) (ctx : BitVec 12) (stamp : Nat)
  /-- PDEAD_EXPIRY (R69). -/
  | pdeadExpiry (c : BitVec 3) (ctx : BitVec 12) (stamp : Nat)
  /-- HUSK_RESUME (R338). -/
  | huskResume (c : BitVec 3) (ctx : BitVec 12)
  /-- LAUNCH_DISPATCH_BEGIN (R115). -/
  | launchDispatchBegin (q : BitVec 6) (slot : BitVec 32)
  /-- THRASH_HOLD_EXPIRY (R116). -/
  | thrashHoldExpiry (page : Nat)
  /-- PAGE_EXPANSION (R126). -/
  | pageExpansion (page : Nat)
  /-- UNIT_RETIRE (R52). -/
  | unitRetire (c : BitVec 3) (status : BitVec 8)
  /-- LAUNCH_COMPLETE (R52). -/
  | launchComplete (q : BitVec 6) (slot : BitVec 32)
  /-- QTAIL_WRITE (R61). -/
  | qtailWrite (q : BitVec 6) (v : BitVec 64)
  /-- CANCEL_WRITE (R72). -/
  | cancelWrite (v : BitVec 64)
  /-- SCTL_WRITE (R77). -/
  | sctlWrite (v : BitVec 64)
  /-- LSEED_WRITE (R64). -/
  | lseedWrite (v : BitVec 64)
  /-- NMODE_WRITE (R41). -/
  | nmodeWrite (v : BitVec 64)
  /-- FBFLUSH_WRITE (R112). -/
  | fbflushWrite (v : BitVec 64)
  /-- FBDENY_WRITE (R111). -/
  | fbdenyWrite (v : BitVec 64)
  /-- REFRESH_HEARTBEAT (R128). -/
  | refreshHeartbeat (k : BitVec 3)
  /-- REFRESH_TAKEOVER (R128). -/
  | refreshTakeover (k : BitVec 3)
  /-- STKREF_REL_WRITE (R128). -/
  | stkrefRelWrite (k : BitVec 3) (v : BitVec 64)
  /-- POD_BEAT_TAKE (R356). -/
  | podBeatTake (received : Bool) (bnum : BitVec 16)
  /-- RDMA_WRITE_DVA (R360). -/
  | rdmaWriteDva (r : RdmaReq) (data : List (BitVec 8))
  /-- RDMA_WRITE_BANK_LINE (R360). -/
  | rdmaWriteBankLine (r : RdmaReq) (data : List (BitVec 8))
  /-- RDMA_WRITE_MAILBOX (R360). -/
  | rdmaWriteMailbox (r : RdmaReq) (data : List (BitVec 8))
  /-- RDMA_WRITE_REGISTER (R360). -/
  | rdmaWriteRegister (r : RdmaReq) (data : List (BitVec 8))
  /-- RDMA_READ_DVA (R153). -/
  | rdmaReadDva (r : RdmaReq) (len : BitVec 32)
  /-- RDMA_READ_REGISTER (R360). -/
  | rdmaReadRegister (r : RdmaReq) (len : BitVec 32)
  /-- RDMA_FETCH_ADD (R152). -/
  | rdmaFetchAdd (r : RdmaReq) (v : BitVec 64)
  /-- RDMA_COMPARE_SWAP (R152). -/
  | rdmaCompareSwap (r : RdmaReq) (cmp : BitVec 64) (v : BitVec 64)
  /-- RDMA_UNSUPPORTED_REQUEST (R359). -/
  | rdmaUnsupportedRequest (r : RdmaReq)
  /-- PUT_ARRIVAL (R311). -/
  | putArrival (m : PutLine)
  /-- REMOTE_DCOPY_REQUEST (R154). -/
  | remoteDcopyRequest (m : RemoteReq)
  /-- FLIT_RECEIVE (R343). -/
  | flitReceive (p : BitVec 3) (l : BitVec 3) (bits : BitVec 2048)
  /-- LINK_NAK_RECEIVE (R344). -/
  | linkNakReceive (p : BitVec 3) (l : BitVec 3) (n : BitVec 16)
  /-- LANESET_RELOCK_TIMEOUT (R344). -/
  | lanesetRelockTimeout (p : BitVec 3) (l : BitVec 3) (stamp : Nat)
  /-- REMAP_RECEIVE (R346). -/
  | remapReceive (p : BitVec 3) (l : BitVec 3) (pos : BitVec 6) (spare : BitVec 7) (n : BitVec 16)
  /-- REMAP_SWITCH (R346). -/
  | remapSwitch (p : BitVec 3) (l : BitVec 3) (pos : BitVec 6) (spare : BitVec 7)
  /-- PCTL_QREQ (R352). -/
  | pctlQreq (p : BitVec 3)
  /-- PCTL_DOWNREQ (R352). -/
  | pctlDownreq (p : BitVec 3)
  /-- PCTL_QCLR (R352). -/
  | pctlQclr (p : BitVec 3)
  /-- PCTL_RELOCK (R352). -/
  | pctlRelock (p : BitVec 3)
  /-- LIGHT_TEST (R352). -/
  | lightTest (p : BitVec 3)
  /-- PORT_RELOCK_TIMEOUT (R352). -/
  | portRelockTimeout (p : BitVec 3) (stamp : Nat)
  /-- QUIESCE_TIMEOUT (R352). -/
  | quiesceTimeout (p : BitVec 3) (stamp : Nat)
  /-- DRAIN_MARKER_RECEIVE (R352). -/
  | drainMarkerReceive (p : BitVec 3) (l : BitVec 3)
  /-- LANESET_LOCK (R353). -/
  | lanesetLock (p : BitVec 3) (l : BitVec 3) (pkg : BitVec 10) (port : BitVec 3)
  /-- PEER_STATE_REPORT (R352). -/
  | peerStateReport (p : BitVec 3) (st : BitVec 3)
  /-- SLOT_BOUNDARY (R351). -/
  | slotBoundary (p : BitVec 3)
  /-- CALENDAR_SWITCH (R350). -/
  | calendarSwitch (p : BitVec 3)
  /-- CSW_WRITE (R350). -/
  | cswWrite (p : BitVec 3) (v : BitVec 64)
  /-- SHADOW_CALENDAR_WRITE (R350). -/
  | shadowCalendarWrite (p : BitVec 3) (off : BitVec 12) (v : BitVec 64)
  /-- SNAP_TAKE (R348). -/
  | snapTake (p : BitVec 3)
  /-- FRMAP_WRITE (R346). -/
  | frmapWrite (p : BitVec 3) (v : BitVec 64)
  /-- ROUTE_TABLE_WRITE (R354). -/
  | routeTableWrite (n : BitVec 10) (v : BitVec 64)
  /-- HOLD_TIMEOUT (R355). -/
  | holdTimeout (c : BitVec 3) (id : Nat) (stamp : Nat)
  /-- RC_COUNTER_READ (R371). -/
  | rcCounterRead (off : BitVec 20)
  /-- REGISTER_WRITE (R6). -/
  | registerWrite (off : BitVec 20) (v : BitVec 64)
  /-- MGMT_READ (R378). -/
  | mgmtRead (m : Datagram)
  /-- MGMT_WRITE (R378). -/
  | mgmtWrite (m : Datagram)
  /-- MGMT_WARM (R378). -/
  | mgmtWarm (m : Datagram)
  /-- MGMT_COLD (R378). -/
  | mgmtCold (m : Datagram)
  /-- MGMT_ATTEST (R377). -/
  | mgmtAttest (m : Datagram)
  /-- MGMT_FLASH (R378). -/
  | mgmtFlash (m : Datagram)
  /-- MGMT_SVN (R378). -/
  | mgmtSvn (m : Datagram)
  /-- MGMT_KEY (R378). -/
  | mgmtKey (m : Datagram)
  /-- MGMT_UNKNOWN_OP (R378). -/
  | mgmtUnknownOp (m : Datagram)
  /-- THERMAL_GATE_BEGIN (R382). -/
  | thermalGateBegin (die : BitVec 5)
  /-- THERMAL_GATE_END (R382). -/
  | thermalGateEnd (die : BitVec 5)
  /-- POWER_CAP_ENGAGE (R381). -/
  | powerCapEngage (meas : BitVec 12)
  /-- POWER_CAP_RELEASE (R381). -/
  | powerCapRelease (meas : BitVec 12)
  /-- PCAP_WRITE (R381). -/
  | pcapWrite (v : BitVec 64)
  /-- ISLAND_STATE_REQUEST (R380). -/
  | islandStateRequest (i : BitVec 5) (st : BitVec 2)
  /-- NETWORK_SYLLABLE (R163). -/
  | networkSyllable (r : BitVec 9) (w : BitVec 9) (s : BitVec 3) (t : BitVec 3) (p : BitVec 4) (a : BitVec 1) (e : BitVec 1)
  /-- TREE (R169). -/
  | tree (h : BitVec 4) (w : BitVec 1) (t : BitVec 4) (x : BitVec 5)
  /-- JUMP (R209). -/
  | jump (h : BitVec 4) (w : BitVec 1) (t : BitVec 4) (x : BitVec 5) (i : BitVec 14)
  /-- CALL (R210). -/
  | call (h : BitVec 4) (w : BitVec 1) (t : BitVec 4) (x : BitVec 5) (i : BitVec 14)
  /-- RET (R210). -/
  | ret (h : BitVec 4) (w : BitVec 1) (t : BitVec 4) (x : BitVec 5)
  /-- LOOP (R172). -/
  | loop (h : BitVec 4) (w : BitVec 1) (t : BitVec 4) (x : BitVec 5) (l : BitVec 3) (n : BitVec 5) (g : BitVec 5) (y : BitVec 1)
  /-- TRAP (R213). -/
  | trap (h : BitVec 4) (w : BitVec 1) (t : BitVec 4) (x : BitVec 5) (c : BitVec 14)
  /-- YIELD (R215). -/
  | yield (h : BitVec 4) (w : BitVec 1) (t : BitVec 4) (x : BitVec 5)
  /-- EXIT (R216). -/
  | exit (h : BitVec 4) (w : BitVec 1) (t : BitVec 4) (x : BitVec 5)
  /-- RTT (R332). -/
  | rtt (h : BitVec 4) (w : BitVec 1) (t : BitVec 4) (x : BitVec 5)
  /-- BSEL (R220). -/
  | bsel (h : BitVec 4) (w : BitVec 1) (t : BitVec 4) (x : BitVec 5) (k : BitVec 4) (s : BitVec 5)
  /-- BRK (R214). -/
  | brk (h : BitVec 4) (w : BitVec 1) (t : BitVec 4) (x : BitVec 5) (c : BitVec 14)
  /-- ADD (R223). -/
  | add (d : BitVec 5) (a : BitVec 5) (b : BitVec 5)
  /-- SUB (R223). -/
  | sub (d : BitVec 5) (a : BitVec 5) (b : BitVec 5)
  /-- AND (R223). -/
  | and (d : BitVec 5) (a : BitVec 5) (b : BitVec 5)
  /-- OR (R223). -/
  | or (d : BitVec 5) (a : BitVec 5) (b : BitVec 5)
  /-- XOR (R223). -/
  | xor (d : BitVec 5) (a : BitVec 5) (b : BitVec 5)
  /-- ANDN (R223). -/
  | andn (d : BitVec 5) (a : BitVec 5) (b : BitVec 5)
  /-- SHL (R223). -/
  | shl (d : BitVec 5) (a : BitVec 5) (b : BitVec 5)
  /-- SHR (R223). -/
  | shr (d : BitVec 5) (a : BitVec 5) (b : BitVec 5)
  /-- SAR (R223). -/
  | sar (d : BitVec 5) (a : BitVec 5) (b : BitVec 5)
  /-- MIN (R223). -/
  | min (d : BitVec 5) (a : BitVec 5) (b : BitVec 5)
  /-- MAX (R223). -/
  | max (d : BitVec 5) (a : BitVec 5) (b : BitVec 5)
  /-- MINU (R223). -/
  | minu (d : BitVec 5) (a : BitVec 5) (b : BitVec 5)
  /-- MAXU (R223). -/
  | maxu (d : BitVec 5) (a : BitVec 5) (b : BitVec 5)
  /-- CLZ (R224). -/
  | clz (d : BitVec 5) (a : BitVec 5)
  /-- POPC (R224). -/
  | popc (d : BitVec 5) (a : BitVec 5)
  /-- MUL (R225). -/
  | mul (d : BitVec 5) (a : BitVec 5) (b : BitVec 5)
  /-- MULH (R225). -/
  | mulh (d : BitVec 5) (a : BitVec 5) (b : BitVec 5)
  /-- MULHU (R225). -/
  | mulhu (d : BitVec 5) (a : BitVec 5) (b : BitVec 5)
  /-- SEL (R226). -/
  | sel (d : BitVec 5) (a : BitVec 5) (b : BitVec 5) (c : BitVec 4)
  /-- ADDI (R223). -/
  | addi (d : BitVec 5) (a : BitVec 5) (i : BitVec 16)
  /-- ANDI (R223). -/
  | andi (d : BitVec 5) (a : BitVec 5) (i : BitVec 16)
  /-- ORI (R223). -/
  | ori (d : BitVec 5) (a : BitVec 5) (i : BitVec 16)
  /-- XORI (R223). -/
  | xori (d : BitVec 5) (a : BitVec 5) (i : BitVec 16)
  /-- SHLI (R223). -/
  | shli (d : BitVec 5) (a : BitVec 5) (i : BitVec 6)
  /-- SHRI (R223). -/
  | shri (d : BitVec 5) (a : BitVec 5) (i : BitVec 6)
  /-- SARI (R223). -/
  | sari (d : BitVec 5) (a : BitVec 5) (i : BitVec 6)
  /-- LIW (R227). -/
  | liw (d : BitVec 5) (e : BitVec 2)
  /-- LID (R227). -/
  | lid (d : BitVec 5) (e : BitVec 1)
  /-- CMP (R228). -/
  | cmp (c : BitVec 4) (a : BitVec 5) (k : BitVec 3) (b : BitVec 5)
  /-- CMPI (R228). -/
  | cmpi (c : BitVec 4) (a : BitVec 5) (k : BitVec 3) (i : BitVec 13)
  /-- CSET (R229). -/
  | cset (d : BitVec 4) (a : BitVec 4) (b : BitVec 4) (l : BitVec 4)
  /-- LD (R230). -/
  | ld (d : BitVec 5) (a : BitVec 5) (z : BitVec 2) (s : BitVec 1) (o : BitVec 13)
  /-- ST (R230). -/
  | st (s : BitVec 5) (a : BitVec 5) (z : BitVec 2) (o : BitVec 13)
  /-- MBR (R231). -/
  | mbr (d : BitVec 5) (m : BitVec 4)
  /-- MBW (R231). -/
  | mbw (s : BitVec 5) (m : BitVec 4)
  /-- SRR (R233). -/
  | srr (d : BitVec 5) (n : BitVec 12)
  /-- SRW (R233). -/
  | srw (s : BitVec 5) (n : BitVec 12)
  /-- SRSET (R233). -/
  | srset (s : BitVec 5) (n : BitVec 12)
  /-- SRCLR (R233). -/
  | srclr (s : BitVec 5) (n : BitVec 12)
  /-- MVX (R235). -/
  | mvx (d : BitVec 5) (c : BitVec 2) (v : BitVec 5) (l : BitVec 6)
  /-- MXV (R235). -/
  | mxv (s : BitVec 5) (c : BitVec 2) (v : BitVec 5) (l : BitVec 6)
  /-- AGB (R236). -/
  | agb (g : BitVec 6) (a : BitVec 5)
  /-- AGL (R236). -/
  | agl (g : BitVec 6) (l : BitVec 3) (b : BitVec 5) (s : BitVec 5)
  /-- AGP (R237). -/
  | agp (g : BitVec 6) (a : BitVec 5)
  /-- AGR (R236). -/
  | agr (g : BitVec 6)
  /-- VADD (R256). -/
  | vadd (w : BitVec 2) (d : BitVec 5) (a : BitVec 5) (b : BitVec 5) (k : BitVec 3) (r : BitVec 3) (f : BitVec 3)
  /-- VSUB (R256). -/
  | vsub (w : BitVec 2) (d : BitVec 5) (a : BitVec 5) (b : BitVec 5) (k : BitVec 3) (r : BitVec 3) (f : BitVec 3)
  /-- VMUL (R256). -/
  | vmul (w : BitVec 2) (d : BitVec 5) (a : BitVec 5) (b : BitVec 5) (k : BitVec 3) (r : BitVec 3) (f : BitVec 3)
  /-- VMAX (R256). -/
  | vmax (w : BitVec 2) (d : BitVec 5) (a : BitVec 5) (b : BitVec 5) (k : BitVec 3) (f : BitVec 3)
  /-- VMIN (R256). -/
  | vmin (w : BitVec 2) (d : BitVec 5) (a : BitVec 5) (b : BitVec 5) (k : BitVec 3) (f : BitVec 3)
  /-- VABS (R256). -/
  | vabs (w : BitVec 2) (d : BitVec 5) (a : BitVec 5) (k : BitVec 3) (f : BitVec 3)
  /-- VNEG (R256). -/
  | vneg (w : BitVec 2) (d : BitVec 5) (a : BitVec 5) (k : BitVec 3) (f : BitVec 3)
  /-- VFCMP (R258). -/
  | vfcmp (w : BitVec 2) (d : BitVec 3) (a : BitVec 5) (b : BitVec 5) (k : BitVec 3) (c : BitVec 3) (f : BitVec 3)
  /-- VIADD (R259). -/
  | viadd (w : BitVec 2) (d : BitVec 5) (a : BitVec 5) (b : BitVec 5) (k : BitVec 3) (s : BitVec 1) (f : BitVec 3)
  /-- VISUB (R259). -/
  | visub (w : BitVec 2) (d : BitVec 5) (a : BitVec 5) (b : BitVec 5) (k : BitVec 3) (s : BitVec 1) (f : BitVec 3)
  /-- VIMUL (R259). -/
  | vimul (w : BitVec 2) (d : BitVec 5) (a : BitVec 5) (b : BitVec 5) (k : BitVec 3) (s : BitVec 1) (f : BitVec 3)
  /-- VIMULH (R259). -/
  | vimulh (w : BitVec 2) (d : BitVec 5) (a : BitVec 5) (b : BitVec 5) (k : BitVec 3) (f : BitVec 3)
  /-- VIMAX (R259). -/
  | vimax (w : BitVec 2) (d : BitVec 5) (a : BitVec 5) (b : BitVec 5) (k : BitVec 3) (f : BitVec 3)
  /-- VIMIN (R259). -/
  | vimin (w : BitVec 2) (d : BitVec 5) (a : BitVec 5) (b : BitVec 5) (k : BitVec 3) (f : BitVec 3)
  /-- VSHL (R260). -/
  | vshl (w : BitVec 2) (d : BitVec 5) (a : BitVec 5) (b : BitVec 5) (k : BitVec 3) (s : BitVec 1) (f : BitVec 3)
  /-- VSHR (R260). -/
  | vshr (w : BitVec 2) (d : BitVec 5) (a : BitVec 5) (b : BitVec 5) (k : BitVec 3) (f : BitVec 3)
  /-- VSAR (R260). -/
  | vsar (w : BitVec 2) (d : BitVec 5) (a : BitVec 5) (b : BitVec 5) (k : BitVec 3) (f : BitVec 3)
  /-- VICMP (R261). -/
  | vicmp (w : BitVec 2) (d : BitVec 3) (a : BitVec 5) (b : BitVec 5) (k : BitVec 3) (c : BitVec 3) (f : BitVec 3)
  /-- VIABS (R259). -/
  | viabs (w : BitVec 2) (d : BitVec 5) (a : BitVec 5) (k : BitVec 3) (s : BitVec 1) (f : BitVec 3)
  /-- VAND (R262). -/
  | vand (w : BitVec 2) (d : BitVec 5) (a : BitVec 5) (b : BitVec 5) (k : BitVec 3)
  /-- VOR (R262). -/
  | vor (w : BitVec 2) (d : BitVec 5) (a : BitVec 5) (b : BitVec 5) (k : BitVec 3)
  /-- VXOR (R262). -/
  | vxor (w : BitVec 2) (d : BitVec 5) (a : BitVec 5) (b : BitVec 5) (k : BitVec 3)
  /-- VANDN (R262). -/
  | vandn (w : BitVec 2) (d : BitVec 5) (a : BitVec 5) (b : BitVec 5) (k : BitVec 3)
  /-- VSEL (R262). -/
  | vsel (w : BitVec 2) (d : BitVec 5) (a : BitVec 5) (b : BitVec 5) (k : BitVec 3)
  /-- VMOV (R262). -/
  | vmov (w : BitVec 2) (d : BitVec 5) (a : BitVec 5) (k : BitVec 3)
  /-- VLI (R263). -/
  | vli (w : BitVec 2) (d : BitVec 5) (k : BitVec 3) (e : BitVec 2)
  /-- VKOP (R264). -/
  | vkop (w : BitVec 2) (d : BitVec 3) (a : BitVec 3) (b : BitVec 3) (l : BitVec 4)
  /-- VPOPC (R265). -/
  | vpopc (w : BitVec 2) (d : BitVec 5) (a : BitVec 5) (k : BitVec 3) (f : BitVec 3)
  /-- VCLZ (R265). -/
  | vclz (w : BitVec 2) (d : BitVec 5) (a : BitVec 5) (k : BitVec 3) (f : BitVec 3)
  /-- VLCNT (R265). -/
  | vlcnt (w : BitVec 2) (d : BitVec 5) (k : BitVec 3)
  /-- VCVT (R266). -/
  | vcvt (w : BitVec 2) (d : BitVec 5) (a : BitVec 5) (t : BitVec 4) (s : BitVec 4) (r : BitVec 3) (u : BitVec 1) (p : BitVec 2)
  /-- VMXP (R269). -/
  | vmxp (w : BitVec 2) (d : BitVec 5) (a : BitVec 5) (t : BitVec 4) (s : BitVec 4) (r : BitVec 3) (p : BitVec 2)
  /-- VMXS (R269). -/
  | vmxs (w : BitVec 2) (d : BitVec 5) (a : BitVec 5) (t : BitVec 4) (s : BitVec 4)
  /-- VMXU (R269). -/
  | vmxu (w : BitVec 2) (d : BitVec 5) (a : BitVec 5) (t : BitVec 4) (s : BitVec 4) (r : BitVec 3) (u : BitVec 1) (p : BitVec 2)
  /-- VFMA (R257). -/
  | vfma (f : BitVec 3) (w : BitVec 2) (d : BitVec 5) (a : BitVec 5) (b : BitVec 5) (c : BitVec 5) (r : BitVec 3) (u : BitVec 1)
  /-- VEXP2 (R98). -/
  | vexp2 (d : BitVec 3) (a : BitVec 3)
  /-- VLOG2 (R98). -/
  | vlog2 (d : BitVec 3) (a : BitVec 3)
  /-- VRCPE (R98). -/
  | vrcpe (d : BitVec 3) (a : BitVec 3)
  /-- VRSQE (R98). -/
  | vrsqe (d : BitVec 3) (a : BitVec 3)
  /-- VRCPS (R100). -/
  | vrcps (d : BitVec 3) (a : BitVec 3) (b : BitVec 3) (r : BitVec 3)
  /-- VRSQS (R100). -/
  | vrsqs (d : BitVec 3) (a : BitVec 3) (b : BitVec 3) (r : BitVec 3)
  /-- VSQRT (R98). -/
  | vsqrt (d : BitVec 3) (a : BitVec 3) (r : BitVec 3)
  /-- FTBL (R274). -/
  | ftbl (d : BitVec 3) (a : BitVec 3) (r : BitVec 3) (f : BitVec 4) (t : BitVec 6)
  /-- FTLD (R273). -/
  | ftld (a : BitVec 3) (t : BitVec 6) (p : BitVec 4)
  /-- FMOV (R271). -/
  | fmov (d : BitVec 3) (a : BitVec 3)
  /-- PSUM (R276). -/
  | psum (f : BitVec 4) (r : BitVec 3) (c : BitVec 1) (d : BitVec 3)
  /-- PMAX (R276). -/
  | pmax (f : BitVec 4) (c : BitVec 1) (d : BitVec 3)
  /-- PMIN (R276). -/
  | pmin (f : BitVec 4) (c : BitVec 1) (d : BitVec 3)
  /-- PSUMS (R277). -/
  | psums (f : BitVec 4) (r : BitVec 3) (c : BitVec 1) (s : BitVec 3) (d : BitVec 3)
  /-- PMAXS (R277). -/
  | pmaxs (f : BitVec 4) (c : BitVec 1) (s : BitVec 3) (d : BitVec 3)
  /-- PMINS (R277). -/
  | pmins (f : BitVec 4) (c : BitVec 1) (s : BitVec 3) (d : BitVec 3)
  /-- CMPCT (R279). -/
  | cmpct (c : BitVec 1) (d : BitVec 3)
  /-- MFIRE (R283). -/
  | mfire (b : BitVec 8) (z : BitVec 1)
  /-- MTILE (R289). -/
  | mtile (d : BitVec 5) (t : BitVec 4) (c : BitVec 1)
  /-- MFMT (R281). -/
  | mfmt (a : BitVec 4) (b : BitVec 4) (m : BitVec 1)
  /-- MGEOM (R285). -/
  | mgeom (a : BitVec 5)
  /-- MCLR (R286). -/
  | mclr (b : BitVec 8) (n : BitVec 8)
  /-- MDRN (R287). -/
  | mdrn (b : BitVec 8) (g : BitVec 3) (c : BitVec 1)
  /-- MPRE (R288). -/
  | mpre (b : BitVec 8) (g : BitVec 3)
  /-- DCOPY_LIN (R305). -/
  | dcopyLin (d : BitVec 5) (t : BitVec 4) (a : BitVec 1) (r : BitVec 1) (s : BitVec 4) (i : BitVec 2)
  /-- DCOPY_STR (R305). -/
  | dcopyStr (d : BitVec 5) (t : BitVec 4) (a : BitVec 1) (r : BitVec 1) (s : BitVec 4) (i : BitVec 2)
  /-- DCOPY_NEST (R305). -/
  | dcopyNest (d : BitVec 5) (t : BitVec 4) (a : BitVec 1) (r : BitVec 1) (s : BitVec 4) (i : BitVec 2)
  /-- DCOPY_PAD (R306). -/
  | dcopyPad (d : BitVec 5) (t : BitVec 4) (a : BitVec 1) (r : BitVec 1) (s : BitVec 4) (i : BitVec 2)
  /-- DCOPY_VIEW (R307). -/
  | dcopyView (d : BitVec 5) (t : BitVec 4) (a : BitVec 1) (r : BitVec 1) (s : BitVec 4) (i : BitVec 2)
  /-- DCOPY_REM (R308). -/
  | dcopyRem (d : BitVec 5) (t : BitVec 4) (a : BitVec 1) (r : BitVec 1) (s : BitVec 4) (i : BitVec 2)
  /-- DCOPY_HOST (R308). -/
  | dcopyHost (d : BitVec 5) (t : BitVec 4) (a : BitVec 1) (r : BitVec 1) (s : BitVec 4) (i : BitVec 2)
  /-- PUT (R310). -/
  | put (d : BitVec 5) (t : BitVec 4) (a : BitVec 1) (r : BitVec 1) (s : BitVec 4)
  /-- HGATH (R312). -/
  | hgath (d : BitVec 5) (t : BitVec 4) (a : BitVec 1) (r : BitVec 1) (s : BitVec 4) (m : BitVec 2)
  /-- HRED_SUM (R313). -/
  | hredSum (d : BitVec 5) (t : BitVec 4) (a : BitVec 1) (r : BitVec 1) (s : BitVec 4) (u : BitVec 3) (f : BitVec 4)
  /-- HRED_MAX (R313). -/
  | hredMax (d : BitVec 5) (t : BitVec 4) (a : BitVec 1) (r : BitVec 1) (s : BitVec 4) (u : BitVec 3) (f : BitVec 4)
  /-- HRED_MIN (R313). -/
  | hredMin (d : BitVec 5) (t : BitVec 4) (a : BitVec 1) (r : BitVec 1) (s : BitVec 4) (u : BitVec 3) (f : BitVec 4)
  /-- HCVT (R314). -/
  | hcvt (d : BitVec 5) (t : BitVec 4) (a : BitVec 1) (r : BitVec 1) (s : BitVec 4)
  /-- HATOM_ADD (R315). -/
  | hatomAdd (d : BitVec 5) (t : BitVec 4) (a : BitVec 1) (r : BitVec 1) (s : BitVec 4) (w : BitVec 1)
  /-- HATOM_MAX (R315). -/
  | hatomMax (d : BitVec 5) (t : BitVec 4) (a : BitVec 1) (r : BitVec 1) (s : BitVec 4) (w : BitVec 1)
  /-- HATOM_MIN (R315). -/
  | hatomMin (d : BitVec 5) (t : BitVec 4) (a : BitVec 1) (r : BitVec 1) (s : BitVec 4) (w : BitVec 1)
  /-- HATOM_XCHG (R315). -/
  | hatomXchg (d : BitVec 5) (t : BitVec 4) (a : BitVec 1) (r : BitVec 1) (s : BitVec 4) (w : BitVec 1)
  /-- HATOM_CAS (R315). -/
  | hatomCas (d : BitVec 5) (t : BitVec 4) (a : BitVec 1) (r : BitVec 1) (s : BitVec 4) (w : BitVec 1)
  /-- HATOM_ADD_FP32 (R315). -/
  | hatomAddFp32 (d : BitVec 5) (t : BitVec 4) (a : BitVec 1) (r : BitVec 1) (s : BitVec 4)
  /-- HATOM_MAX_FP32 (R315). -/
  | hatomMaxFp32 (d : BitVec 5) (t : BitVec 4) (a : BitVec 1) (r : BitVec 1) (s : BitVec 4)
  /-- HATOM_MIN_FP32 (R315). -/
  | hatomMinFp32 (d : BitVec 5) (t : BitVec 4) (a : BitVec 1) (r : BitVec 1) (s : BitVec 4)
  /-- PROBE_UNPIN (R316). -/
  | probeUnpin (d : BitVec 5) (t : BitVec 4) (a : BitVec 1) (r : BitVec 1) (s : BitVec 4)
  /-- PROBE_R (R110). -/
  | probeR (d : BitVec 5) (t : BitVec 4) (a : BitVec 1) (r : BitVec 1) (s : BitVec 4)
  /-- PROBE_W (R110). -/
  | probeW (d : BitVec 5) (t : BitVec 4) (a : BitVec 1) (r : BitVec 1) (s : BitVec 4)
  /-- PROBE_RW (R110). -/
  | probeRw (d : BitVec 5) (t : BitVec 4) (a : BitVec 1) (r : BitVec 1) (s : BitVec 4)
  /-- FENCE (R145). -/
  | fence (t : BitVec 4) (s : BitVec 4)
  /-- FENCE_SC (R148). -/
  | fenceSc (t : BitVec 4) (s : BitVec 4)
  /-- VSYNC (R151). -/
  | vsync (t : BitVec 4)
  /-- TADV (R318). -/
  | tadv (d : BitVec 5) (t : BitVec 4)
  /-- TSET_SET (R318). -/
  | tsetSet (d : BitVec 5) (t : BitVec 4)
  /-- TSET_SETERR (R318). -/
  | tsetSeterr (d : BitVec 5) (t : BitVec 4)
  /-- TSET_CLRERR (R318). -/
  | tsetClrerr (d : BitVec 5) (t : BitVec 4)
  /-- ENQ (R319). -/
  | enq (d : BitVec 5) (t : BitVec 4) (a : BitVec 1) (r : BitVec 1) (s : BitVec 4)
  /-- CLOAD (R320). -/
  | cload (d : BitVec 5) (t : BitVec 4) (a : BitVec 1) (r : BitVec 1) (s : BitVec 4)
  /-- RSOLVE (R245). -/
  | rsolve (d : BitVec 5) (t : BitVec 4) (a : BitVec 1) (r : BitVec 1) (s : BitVec 4) (k : BitVec 1) (m : BitVec 2)
  /-- RD (R249). -/
  | rd (b : BitVec 6) (x : BitVec 5)
  /-- RDC (R249). -/
  | rdc (b : BitVec 6) (x : BitVec 5)
  /-- RDI (R249). -/
  | rdi (b : BitVec 6) (x : BitVec 5)
  /-- WAITF (R250). -/
  | waitf (b : BitVec 6) (x : BitVec 5) (n : BitVec 5)
  /-- RLOAD (R243). -/
  | rload (r : BitVec 9) (k : BitVec 1) (b : BitVec 6) (x : BitVec 5)
  /-- WR (R249). -/
  | wr (b : BitVec 6) (x : BitVec 5)
  /-- WRM (R249). -/
  | wrm (b : BitVec 6) (x : BitVec 5) (m : BitVec 5)
  /-- WRF (R251). -/
  | wrf (b : BitVec 6) (x : BitVec 5) (n : BitVec 5)
  /-- RSAVE (R243). -/
  | rsave (r : BitVec 9) (k : BitVec 1) (b : BitVec 6) (x : BitVec 5)
  /-- PAGE_MIGRATION_COMPLETE (R385). -/
  | pageMigrationComplete (page : Nat)
  /-- OTHER_HOST_TIER_WRITE (R126). -/
  | otherHostTierWrite (addr : BitVec 43) (v : BitVec 32)
  /-- CNP_RECEIVE (R359). -/
  | cnpReceive (port : BitVec 2) (qp : BitVec 10)
  /-- PFC_PAUSE_RECEIVE (R359). -/
  | pfcPauseReceive (port : BitVec 2) (prio : BitVec 1) (pause : Bool)
  /-- BUNDLE_ISSUE (R159). -/
  | bundleIssue
  /-- RESULT_LANDING (R160). -/
  | resultLanding
  /-- HITCH_LANE_ARRIVAL (R13). -/
  | hitchLaneArrival
  /-- ENGINE_LINE_WRITE (R17). -/
  | engineLineWrite
  /-- MTILE_FIRING (R292). -/
  | mtileFiring
  /-- ROUTE_LOAD_SWITCH (R243). -/
  | routeLoadSwitch
  /-- SOFT_YIELD (R335). -/
  | softYield
  /-- HUSK_SAVE (R336). -/
  | huskSave
  /-- STALL_WATCHDOG_EXPIRY (R70). -/
  | stallWatchdogExpiry
  /-- LOTTERY_DRAW (R65). -/
  | lotteryDraw
  /-- MODE_CHANGE_COMPLETE (R41). -/
  | modeChangeComplete
  /-- PACKAGE_BEAT (R147). -/
  | packageBeat
  /-- POD_BEAT_LOST (R356). -/
  | podBeatLost
  /-- CORRECTION_WINDOW_END (R346). -/
  | correctionWindowEnd
  /-- AGEING_REFRESH (R349). -/
  | ageingRefresh
  /-- FEVTF_READ (R357). -/
  | fevtfRead
  /-- FEVTM_READ (R357). -/
  | fevtmRead
  /-- HEVT0_READ (R370). -/
  | hevt0Read
  /-- COLD_RESET (R365). -/
  | coldReset
  /-- WARM_RESET (R365). -/
  | warmReset
  /-- SRSTAT_WARM_WRITE (R365). -/
  | srstatWarmWrite
  /-- SRSTAT_CLR_WRITE (R369). -/
  | srstatClrWrite
  /-- THERMAL_SHUTDOWN (R382). -/
  | thermalShutdown
  /-- POWER_LOSS (R368). -/
  | powerLoss
  /-- EFF_HOURLY_SAMPLE (R349). -/
  | effHourlySample
  deriving DecidableEq, Repr

end Sys2Proof
end

