-- ==== Sys2Proof/WellFormed.lean ====
section
/-! DEFINITION. Which field values of an instruction the encoding admits by itself (spec/12_opcode_map.md R191 to
R206, and the rules those rows name). Conditions that depend on the window, the reservation or other syllables of the
bundle are checked when the bundle is decoded for issue. -/

namespace Sys2Proof

/-- Elements per 32-bit lane of a format code (R78); 0 for a reserved code. -/
def fmtElems (f : Nat) : Nat :=
  match f with
  | 0 => 1 | 1 => 2 | 2 => 2 | 3 => 4 | 4 => 4 | 5 => 4 | 6 => 4 | 7 => 8 | 8 => 4
  | 9 => 1 | 10 => 2 | 11 => 4 | 12 => 4 | 13 => 8
  | _ => 0

/-- The ratio of elements per lane of two formats (R266). -/
def fmtRatio (t s : Nat) : Nat := max (fmtElems t) (fmtElems s) / min (fmtElems t) (fmtElems s)

/-- The header's wait fields are zero when the bundle does not wait (R161). -/
def hdrOk (w : BitVec 1) (t : BitVec 4) (x : BitVec 5) : Bool := w == 1 || (t == 0 && x == 0)

/-- A vector width code (R192). -/
def widthOk (w : BitVec 2) : Bool := w.toNat ≤ 2

/-- A vector destination: register 28 or 29 is illegal (R26). -/
def vdOk (d : BitVec 5) : Bool := d.toNat ≠ 28 && d.toNat ≠ 29

/-- A vector source: register 30 is illegal (R26). -/
def vsOk (a : BitVec 5) : Bool := a.toNat ≠ 30

/-- An integer format field IF (R192). -/
def ifOk (f : BitVec 3) : Bool := 1 ≤ f.toNat && f.toNat ≤ 5

/-- A scan format (R199). -/
def scanFmtOk (f : BitVec 4) : Bool := f == 0 || f == 1 || f == 2 || f == 9 || f == 10

/-- The system registers a bundle may write (R232). -/
def srWritable (n : BitVec 12) : Bool :=
  n == 0x010 || n == 0x011 || n == 0x020 || n == 0x021 || n == 0x022 || n == 0x023 || n == 0x024 || n == 0x025 ||
  n == 0x026 || n == 0x028 || n == 0x029 || n == 0x02A || n == 0x02B || n == 0x040 || n == 0x043

/-- The system registers a bundle may read (R232). -/
def srReadable (n : BitVec 12) : Bool :=
  srWritable n || n.toNat ≤ 6 || n == 0x018 || n == 0x019 || n == 0x01A || n == 0x01B || n == 0x030 || n == 0x031 ||
  n == 0x041 || n == 0x042

/-- The conversions VCVT accepts (R266). -/
def cvtOk (t s : BitVec 4) (r : BitVec 3) (u : BitVec 1) (p : BitVec 2) : Bool :=
  let tf := t.toNat; let sf := s.toNat
  let near := fmtRatio tf sf ≤ 4 && p.toNat < fmtRatio tf sf && r.toNat ≤ 5
  if sf ≤ 7 && tf ≤ 7 then
    if sf == tf then (sf == 5 || sf == 6) && (p == 1 || p == 2) && u == 0 && r == 0 else near
  else if sf ≤ 7 && 9 ≤ tf && tf ≤ 13 then near && u == 0
  else if 9 ≤ sf && sf ≤ 13 && tf ≤ 7 then near
  else if 9 ≤ sf && sf ≤ 13 && 9 ≤ tf && tf ≤ 13 then sf != tf && near
  else sf == 8 && tf ≤ 1 && near && u == 0

/-- The packings VMXP accepts (R269). -/
def mxpOk (t s : BitVec 4) (r : BitVec 3) (p : BitVec 2) : Bool :=
  s.toNat ≤ 2 && 3 ≤ t.toNat && t.toNat ≤ 7 && fmtRatio t.toNat s.toNat ≤ 4 &&
  p.toNat < fmtRatio t.toNat s.toNat && r.toNat ≤ 5

/-- The unpackings VMXU accepts (R269). -/
def mxuOk (t s : BitVec 4) (r : BitVec 3) (p : BitVec 2) : Bool := mxpOk s t r p

/-- The pairs of formats and the MX bit MFMT accepts (R202). -/
def mfmtOk (a b : BitVec 4) (m : BitVec 1) : Bool :=
  ((a == 3 || a == 4) && (b == 3 || b == 4)) || (a == 7 && b == 7) || (a == 11 && b == 11) ||
  (((a == 1 && b == 1) || (a == 2 && b == 2)) && m == 0)

/-- The scope field of a command: a scope code, zero when neither acquire nor release is set (R133, R203). -/
def scopeOk (a r : BitVec 1) (s : BitVec 4) : Bool := s.toNat ≤ 8 && (a == 1 || r == 1 || s == 0)

/-- The formats HRED accepts (R313). -/
def hredFmtOk (f : BitVec 4) : Bool := f == 0 || f == 1 || f == 2 || f == 9 || f == 10 || f == 11

/-- The rounding modes an HRED sum accepts: zero for an integer format, 0 to 4 otherwise (R313). -/
def hredRmOk (f : BitVec 4) (u : BitVec 3) : Bool := u.toNat ≤ 4 && (f.toNat ≤ 2 || u == 0)

/-- An instruction whose own fields the encoding admits. An event row has no encoding and no reserved value. -/
def Instr.wf : Instr → Bool
  | .bundleIssue => true
  | .resultLanding => true
  | .hitchLaneArrival => true
  | .engineLineWrite => true
  | .mtileFiring => true
  | .routeLoadSwitch => true
  | .rsolveAccept _ _ => true
  | .rsolveSwitch _ _ => true
  | .itemPost _ _ => true
  | .putAcknowledgement _ _ _ => true
  | .fenceScTick _ _ => true
  | .viewMergeTimeout _ => true
  | .trapEntry _ _ _ _ => true
  | .fatalContextError _ _ => true
  | .preemptRequest _ _ => true
  | .sliceExpiry _ _ _ => true
  | .pdeadExpiry _ _ _ => true
  | .softYield => true
  | .huskSave => true
  | .huskResume _ _ => true
  | .stallWatchdogExpiry => true
  | .lotteryDraw => true
  | .launchDispatchBegin _ _ => true
  | .thrashHoldExpiry _ => true
  | .pageExpansion _ => true
  | .unitRetire _ _ => true
  | .launchComplete _ _ => true
  | .qtailWrite _ _ => true
  | .cancelWrite _ => true
  | .sctlWrite _ => true
  | .lseedWrite _ => true
  | .nmodeWrite _ => true
  | .modeChangeComplete => true
  | .fbflushWrite _ => true
  | .fbdenyWrite _ => true
  | .refreshHeartbeat _ => true
  | .refreshTakeover _ => true
  | .stkrefRelWrite _ _ => true
  | .packageBeat => true
  | .podBeatTake _ _ => true
  | .podBeatLost => true
  | .rdmaWriteDva _ _ => true
  | .rdmaWriteBankLine _ _ => true
  | .rdmaWriteMailbox _ _ => true
  | .rdmaWriteRegister _ _ => true
  | .rdmaReadDva _ _ => true
  | .rdmaReadRegister _ _ => true
  | .rdmaFetchAdd _ _ => true
  | .rdmaCompareSwap _ _ _ => true
  | .rdmaUnsupportedRequest _ => true
  | .putArrival _ => true
  | .remoteDcopyRequest _ => true
  | .flitReceive _ _ _ => true
  | .linkNakReceive _ _ _ => true
  | .lanesetRelockTimeout _ _ _ => true
  | .correctionWindowEnd => true
  | .remapReceive _ _ _ _ _ => true
  | .remapSwitch _ _ _ _ => true
  | .ageingRefresh => true
  | .pctlQreq _ => true
  | .pctlDownreq _ => true
  | .pctlQclr _ => true
  | .pctlRelock _ => true
  | .lightTest _ => true
  | .portRelockTimeout _ _ => true
  | .quiesceTimeout _ _ => true
  | .drainMarkerReceive _ _ => true
  | .lanesetLock _ _ _ _ => true
  | .peerStateReport _ _ => true
  | .slotBoundary _ => true
  | .calendarSwitch _ => true
  | .cswWrite _ _ => true
  | .shadowCalendarWrite _ _ _ => true
  | .snapTake _ => true
  | .frmapWrite _ _ => true
  | .routeTableWrite _ _ => true
  | .holdTimeout _ _ _ => true
  | .fevtfRead => true
  | .fevtmRead => true
  | .hevt0Read => true
  | .rcCounterRead _ => true
  | .registerWrite _ _ => true
  | .mgmtRead _ => true
  | .mgmtWrite _ => true
  | .mgmtWarm _ => true
  | .mgmtCold _ => true
  | .mgmtAttest _ => true
  | .mgmtFlash _ => true
  | .mgmtSvn _ => true
  | .mgmtKey _ => true
  | .mgmtUnknownOp _ => true
  | .coldReset => true
  | .warmReset => true
  | .srstatWarmWrite => true
  | .srstatClrWrite => true
  | .thermalGateBegin _ => true
  | .thermalGateEnd _ => true
  | .thermalShutdown => true
  | .powerCapEngage _ => true
  | .powerCapRelease _ => true
  | .pcapWrite _ => true
  | .islandStateRequest _ _ => true
  | .networkSyllable _ _ s t p _ _ => s.toNat ≤ 6 && t.toNat ≤ 6 && p.toNat ≤ 12
  | .tree _ w t x => hdrOk w t x
  | .jump _ w t x _ => hdrOk w t x
  | .call _ w t x _ => hdrOk w t x
  | .ret _ w t x => hdrOk w t x
  | .loop _ w t x l _ _ _ => hdrOk w t x && l.toNat ≤ 5
  | .trap _ w t x _ => hdrOk w t x
  | .yield _ w t x => hdrOk w t x
  | .exit _ w t x => hdrOk w t x
  | .rtt _ w t x => hdrOk w t x
  | .bsel _ w t x _ _ => hdrOk w t x
  | .brk _ w t x _ => hdrOk w t x
  | .add _ _ _ => true
  | .sub _ _ _ => true
  | .and _ _ _ => true
  | .or _ _ _ => true
  | .xor _ _ _ => true
  | .andn _ _ _ => true
  | .shl _ _ _ => true
  | .shr _ _ _ => true
  | .sar _ _ _ => true
  | .min _ _ _ => true
  | .max _ _ _ => true
  | .minu _ _ _ => true
  | .maxu _ _ _ => true
  | .clz _ _ => true
  | .popc _ _ => true
  | .mul _ _ _ => true
  | .mulh _ _ _ => true
  | .mulhu _ _ _ => true
  | .sel _ _ _ _ => true
  | .addi _ _ _ => true
  | .andi _ _ _ => true
  | .ori _ _ _ => true
  | .xori _ _ _ => true
  | .shli _ _ _ => true
  | .shri _ _ _ => true
  | .sari _ _ _ => true
  | .liw _ _ => true
  | .lid _ _ => true
  | .cmp _ _ _ _ => true
  | .cmpi _ _ _ _ => true
  | .cset _ _ _ _ => true
  | .ld _ _ z s _ => !(s == 1 && z == 3)
  | .st _ _ _ _ => true
  | .mbr _ _ => true
  | .mbw _ _ => true
  | .srr _ n => srReadable n
  | .srw _ n => srWritable n
  | .srset _ n => srWritable n
  | .srclr _ n => srWritable n
  | .mvx _ c v _ => c.toNat ≤ 2 && v.toNat ≠ 30
  | .mxv _ c v _ => c.toNat ≤ 2 && v.toNat ≠ 28 && v.toNat ≠ 29
  | .agb _ _ => true
  | .agl _ l _ _ => l.toNat ≤ 5
  | .agp _ _ => true
  | .agr _ => true
  | .vadd w d a b _ r _ => widthOk w && vdOk d && vsOk a && vsOk b && r.toNat ≤ 5
  | .vsub w d a b _ r _ => widthOk w && vdOk d && vsOk a && vsOk b && r.toNat ≤ 5
  | .vmul w d a b _ r _ => widthOk w && vdOk d && vsOk a && vsOk b && r.toNat ≤ 5
  | .vmax w d a b _ _ => widthOk w && vdOk d && vsOk a && vsOk b
  | .vmin w d a b _ _ => widthOk w && vdOk d && vsOk a && vsOk b
  | .vabs w d a _ _ => widthOk w && vdOk d && vsOk a
  | .vneg w d a _ _ => widthOk w && vdOk d && vsOk a
  | .vfcmp w _ a b _ _ _ => widthOk w && vsOk a && vsOk b
  | .viadd w d a b _ _ f => widthOk w && vdOk d && vsOk a && vsOk b && ifOk f
  | .visub w d a b _ _ f => widthOk w && vdOk d && vsOk a && vsOk b && ifOk f
  | .vimul w d a b _ _ f => widthOk w && vdOk d && vsOk a && vsOk b && ifOk f
  | .vimulh w d a b _ f => widthOk w && vdOk d && vsOk a && vsOk b && ifOk f
  | .vimax w d a b _ f => widthOk w && vdOk d && vsOk a && vsOk b && ifOk f
  | .vimin w d a b _ f => widthOk w && vdOk d && vsOk a && vsOk b && ifOk f
  | .vshl w d a b _ _ f => widthOk w && vdOk d && vsOk a && vsOk b && ifOk f
  | .vshr w d a b _ f => widthOk w && vdOk d && vsOk a && vsOk b && ifOk f
  | .vsar w d a b _ f => widthOk w && vdOk d && vsOk a && vsOk b && ifOk f
  | .vicmp w _ a b _ c f => widthOk w && vsOk a && vsOk b && ifOk f && c.toNat ≤ 5
  | .viabs w d a _ _ f => widthOk w && vdOk d && vsOk a && ifOk f
  | .vand w d a b _ => widthOk w && vdOk d && vsOk a && vsOk b
  | .vor w d a b _ => widthOk w && vdOk d && vsOk a && vsOk b
  | .vxor w d a b _ => widthOk w && vdOk d && vsOk a && vsOk b
  | .vandn w d a b _ => widthOk w && vdOk d && vsOk a && vsOk b
  | .vsel w d a b _ => widthOk w && vdOk d && vsOk a && vsOk b
  | .vmov w d a _ => widthOk w && vdOk d && vsOk a
  | .vli w d _ _ => widthOk w && vdOk d
  | .vkop w _ _ _ _ => widthOk w
  | .vpopc w d a _ f => widthOk w && vdOk d && vsOk a && ifOk f
  | .vclz w d a _ f => widthOk w && vdOk d && vsOk a && ifOk f
  | .vlcnt w d _ => widthOk w && vdOk d
  | .vcvt w d a t s r u p => widthOk w && vdOk d && vsOk a && cvtOk t s r u p
  | .vmxp w d a t s r p => widthOk w && vdOk d && vsOk a && mxpOk t s r p
  | .vmxs w d a t s => widthOk w && vdOk d && vsOk a && s.toNat ≤ 2 && 3 ≤ t.toNat && t.toNat ≤ 7
  | .vmxu w d a t s r _ p => widthOk w && vdOk d && d.toNat ≠ 30 && vsOk a && mxuOk t s r p
  | .vfma _ w d a b c r _ => widthOk w && vdOk d && vsOk a && vsOk b && vsOk c && r.toNat ≤ 5
  | .vexp2 _ _ => true
  | .vlog2 _ _ => true
  | .vrcpe _ _ => true
  | .vrsqe _ _ => true
  | .vrcps _ _ _ r => r.toNat ≤ 4
  | .vrsqs _ _ _ r => r.toNat ≤ 4
  | .vsqrt _ _ r => r.toNat ≤ 4
  | .ftbl _ _ r f _ => r.toNat ≤ 4 && f.toNat ≤ 2
  | .ftld _ _ _ => true
  | .fmov _ _ => true
  | .psum f r _ _ => scanFmtOk f && r.toNat ≤ 4
  | .pmax f _ _ => scanFmtOk f
  | .pmin f _ _ => scanFmtOk f
  | .psums f r _ s _ => scanFmtOk f && r.toNat ≤ 4 && s.toNat ≠ 0
  | .pmaxs f _ s _ => scanFmtOk f && s.toNat ≠ 0
  | .pmins f _ s _ => scanFmtOk f && s.toNat ≠ 0
  | .cmpct _ _ => true
  | .mfire _ _ => true
  | .mtile _ _ _ => true
  | .mfmt a b m => mfmtOk a b m
  | .mgeom _ => true
  | .mclr b n => b.toNat + n.toNat ≤ 255
  | .mdrn _ _ _ => true
  | .mpre _ _ => true
  | .dcopyLin _ _ a r s i => scopeOk a r s && i.toNat ≤ 2
  | .dcopyStr _ _ a r s i => scopeOk a r s && i.toNat ≤ 2
  | .dcopyNest _ _ a r s i => scopeOk a r s && i.toNat ≤ 2
  | .dcopyPad _ _ a r s i => scopeOk a r s && (i == 0 || i == 2)
  | .dcopyView _ _ a r s i => scopeOk a r s && i.toNat ≤ 1
  | .dcopyRem _ _ a r s i => scopeOk a r s && i.toNat ≤ 1
  | .dcopyHost _ _ a r s i => scopeOk a r s && i.toNat ≤ 1
  | .put _ _ a r s => scopeOk a r s
  | .hgath _ _ a r s _ => scopeOk a r s
  | .hredSum _ _ a r s u f => scopeOk a r s && hredFmtOk f && hredRmOk f u
  | .hredMax _ _ a r s u f => scopeOk a r s && hredFmtOk f && u == 0
  | .hredMin _ _ a r s u f => scopeOk a r s && hredFmtOk f && u == 0
  | .hcvt _ _ a r s => scopeOk a r s
  | .hatomAdd _ _ a r s _ => scopeOk a r s
  | .hatomMax _ _ a r s _ => scopeOk a r s
  | .hatomMin _ _ a r s _ => scopeOk a r s
  | .hatomXchg _ _ a r s _ => scopeOk a r s
  | .hatomCas _ _ a r s _ => scopeOk a r s
  | .hatomAddFp32 _ _ a r s => scopeOk a r s
  | .hatomMaxFp32 _ _ a r s => scopeOk a r s
  | .hatomMinFp32 _ _ a r s => scopeOk a r s
  | .probeUnpin _ _ a r s => scopeOk a r s
  | .probeR _ _ a r s => scopeOk a r s
  | .probeW _ _ a r s => scopeOk a r s
  | .probeRw _ _ a r s => scopeOk a r s
  | .fence _ s => s.toNat ≤ 8
  | .fenceSc _ s => s.toNat ≤ 8
  | .vsync _ => true
  | .tadv _ _ => true
  | .tsetSet _ _ => true
  | .tsetSeterr _ _ => true
  | .tsetClrerr _ _ => true
  | .enq _ _ a r s => scopeOk a r s
  | .cload _ _ a r s => scopeOk a r s
  | .rsolve _ _ a r s _ _ => scopeOk a r s
  | .rd b _ => b.toNat < 48
  | .rdc b _ => b.toNat < 48
  | .rdi b _ => b.toNat < 48
  | .waitf b _ _ => b.toNat < 48
  | .rload r _ b _ => b.toNat < 48 && r.toNat ≠ 0
  | .wr b _ => b.toNat < 48
  | .wrm b _ _ => b.toNat < 48
  | .wrf b _ _ => b.toNat < 48
  | .rsave r _ b _ => b.toNat < 48 && r.toNat ≠ 0
  | .powerLoss => true
  | .pageMigrationComplete _ => true
  | .effHourlySample => true
  | .otherHostTierWrite _ _ => true
  | .cnpReceive _ _ => true
  | .pfcPauseReceive _ _ _ => true

end Sys2Proof
end

