-- ==== Sys2Proof/Config.lean ====
section
/-! DEFINITION. What a package fixes and what the spec leaves open: constants and free values without a body
(notes/assumptions 6, 11, 12, 14, 15, 18), and the fixed figures of the machine (spec/01_machine.md R43). -/

namespace Sys2Proof

/-- What a bulk, short, identity or link-control flit carries. The spec gives the payloads' contents and not their
layout (R341, R342, R344, R346, R353), so the layout is Config's (log 11). -/
inductive LinkMsg where
  /-- half of a line of a PUT (R310): lanes 0 to 31, or 32 to 63 when `upper` -/
  | putLine (upper : Bool) (m : PutLine)
  /-- one piece of a remote DCOPY (R154) -/
  | remote (m : RemoteReq)
  /-- an acknowledgement of a piece, with its name at the sender, its status code and the DVA at which it failed (R154, R299,
  R354) -/
  | ack (dpkg : BitVec 10) (coach : BitVec 3) (item : Nat) (key : Nat) (status : BitVec 8) (dva : BitVec 56)
  /-- data returned to a remote DCOPY of direction in (R302) -/
  | reply (dpkg : BitVec 10) (coach : BitVec 3) (item : Nat) (key : Nat) (data : List (BitVec 32))
  /-- a link-control NAK naming a SEQ (R344) -/
  | nak (seq : BitVec 16)
  /-- a link-control REMAP (R346) -/
  | remap (pos : BitVec 6) (spare : BitVec 7) (seq : BitVec 16)
  /-- a drain marker (R351, R352) -/
  | marker
  /-- an identity flit (R353) -/
  | identity (pkg : BitVec 10) (port : BitVec 3) (cgen : BitVec 16)
  /-- a report of the sender's port state (R352) -/
  | state (st : BitVec 3)
  /-- relay credits that the next hop advertises beside those that stand (R354) -/
  | credit (n : Nat)
  /-- relay credits that the next hop advertises in place of any that stand, at a lock (R354) -/
  | credits (n : Nat)
  /-- received power of the channels, measured for the peer that drives them (R349) -/
  | power (l : List (BitVec 16))
  /-- what a bulk or short flit that this package relays carries, as it came: TYPE, payload and PLEN (R354) -/
  | raw (ty : BitVec 4) (pay : BitVec 1792) (plen : BitVec 8)
  /-- nothing (an idle flit, R342) -/
  | idle
  deriving DecidableEq, Repr, Inhabited

/-- A free choice (log 6): which member of a set of allowed results, orders or times is taken. -/
opaque Config.pick : Nat → Nat

/-- The moment, by the counter of free values, from which a context's reads of the bits at `bit` through a view geometry, or of the
storage image, return write `n` of the view log or a later one (R137, R150, log 9), where nothing fixes it earlier. -/
opaque Config.viewSeen : (n bit : Nat) → (ctx : BitVec 12) → (geom : Option (BitVec 256)) → Nat

/-- The result of an estimate instruction before the bound is checked (R98, log 12). -/
opaque Config.estimate : Nat → BitVec 32

/-- Whether an attempt of a boot step ends OK (R366, log 14), and its failure detail otherwise. -/
opaque Config.stepOk : Nat → Bool
opaque Config.stepCode : Nat → BitVec 32

/-- A word of the compressed image of a page (R126, log 15), of which the spec says no more. -/
opaque Config.compressedWord : Nat → Nat → BitVec 32

/-- The value of a word that a move could neither read nor write without error (R372, log 66). -/
opaque Config.lostWord : Nat → BitVec 32

/-- Sectors of 4 KiB that a page's contents compress into (R125, log 15). -/
opaque Config.sectors : List (Nat × BitVec 8) → Nat

/-- A measured quantity: drive current, received power (R349, log 18). -/
opaque Config.measure : Nat → BitVec 16

/-- PRXP / IDRV of a channel at manufacture, in units of 2^-16 (R349, log 18): 544·port + channel. -/
opaque Config.mfgIndex : Nat → Nat

/-- What the spec leaves to a stack and its training (R129, log 14): a stack's identity at a start, the results of a full training,
and the check code over both. -/
opaque Config.stackIdent : Nat → Nat → BitVec 64
opaque Config.trainLanes : Nat → List (BitVec 64)
opaque Config.trainCheck : BitVec 64 → List (BitVec 64) → BitVec 64

/-- The PFC priority of a package's RoCEv2 traffic, one of two (R359, log 17). -/
opaque Config.rocePriority : BitVec 1

/-- SHAKE256 with 64 bytes of output (R374, R376; an external standard, log 11). -/
opaque Config.shake256 : List (BitVec 8) → List (BitVec 8)

/-- KMAC256 under a key with the customisation string "GMGT" (R378; an external standard, log 11). -/
opaque Config.kmac256 : BitVec 256 → List (BitVec 8) → BitVec 256

/-- SLH-DSA-SHAKE-256s: verification under a public key, and the root's signature (R374 to R377, log 11). -/
opaque Config.slhVerify : List (BitVec 8) → List (BitVec 8) → List (BitVec 8) → Bool
opaque Config.slhSign : List (BitVec 8) → List (BitVec 8)

/-- The fuses (R374, R375): digest of the release key, lowest security version, identity public key. -/
opaque Config.releaseDigest : List (BitVec 8)
opaque Config.fusedSvn : BitVec 32
opaque Config.identityKey : Nat → BitVec 64

/-- The factory contents of the flash image area (R376, log 14): slot·2^40 + offset. -/
opaque Config.factoryFlash : Nat → BitVec 8

/-- The certificate of the identity key in module flash (R375). -/
opaque Config.certificate : List (BitVec 8)

/-- The layout of flit payloads (log 11): TYPE and payload to message, and back. -/
opaque Config.parsePayload : BitVec 4 → BitVec 1792 → LinkMsg
opaque Config.buildPayload : LinkMsg → BitVec 1792

/-- The length of a flit payload, minus 1 (R342). -/
opaque Config.payloadLen : LinkMsg → BitVec 8

/-- Bytes in one stack (64 GiB, R11, R103). -/
def Config.stackBytes : Nat := 68719476736

/-- Ticks of the model's clock: one ic is 5 ticks of 1/9 ns (R4, log 3). -/
def Config.icTicks : Nat := 5

/-- Ticks of a nanosecond and of a microsecond. -/
def Config.nsTicks : Nat := 9
def Config.usTicks : Nat := 9000

end Sys2Proof
end

