-- ==== Sys2Proof/Decode.lean ====
section
/-! DEFINITION. The decoder of syllables and its encoder (spec/11_bundle.md R156 to R163, spec/12_opcode_map.md R190 to
R206). A syllable is read by the class of its slot (R190); every word no row admits is rejected, with the reason. -/

namespace Sys2Proof

/-- The `n` bits of a syllable from bit `lo` up. -/
def fld (w : Lane) (lo n : Nat) : BitVec n := w.extractLsb' lo n

/-- The `n` bits of a syllable from bit `lo` up hold the value `v`. -/
def fx (w : Lane) (lo n v : Nat) : Bool := w.extractLsb' lo n == BitVec.ofNat n v

/-- Why a syllable is illegal (R158, R191). -/
inductive Illegal where
  /-- a reserved major opcode, or reserved bits set: no row matches -/
  | noRow
  /-- a field holds a value outside its list -/
  | reservedValue
  /-- bits set in a no-operation (major opcode 0, or a header without a control operation) -/
  | dirtyNop
  deriving DecidableEq, Repr

/-- The header syllable with a control operation (R161, R162). A word that no row of the class matches is no instruction. -/
def decodeHeader (w : Lane) : Option Instr :=
  if fx w 28 4 1 && fx w 0 14 0 then some (.tree (fld w 24 4) (fld w 23 1) (fld w 19 4) (fld w 14 5))
  else if fx w 28 4 2 then some (.jump (fld w 24 4) (fld w 23 1) (fld w 19 4) (fld w 14 5) (fld w 0 14))
  else if fx w 28 4 3 then some (.call (fld w 24 4) (fld w 23 1) (fld w 19 4) (fld w 14 5) (fld w 0 14))
  else if fx w 28 4 4 && fx w 0 14 0 then some (.ret (fld w 24 4) (fld w 23 1) (fld w 19 4) (fld w 14 5))
  else if fx w 28 4 5 then some (.loop (fld w 24 4) (fld w 23 1) (fld w 19 4) (fld w 14 5) (fld w 11 3) (fld w 6 5) (fld w 1 5) (fld w 0 1))
  else if fx w 28 4 6 then some (.trap (fld w 24 4) (fld w 23 1) (fld w 19 4) (fld w 14 5) (fld w 0 14))
  else if fx w 28 4 7 && fx w 0 14 0 then some (.yield (fld w 24 4) (fld w 23 1) (fld w 19 4) (fld w 14 5))
  else if fx w 28 4 8 && fx w 0 14 0 then some (.exit (fld w 24 4) (fld w 23 1) (fld w 19 4) (fld w 14 5))
  else if fx w 28 4 9 && fx w 0 14 0 then some (.rtt (fld w 24 4) (fld w 23 1) (fld w 19 4) (fld w 14 5))
  else if fx w 28 4 10 && fx w 9 5 0 then some (.bsel (fld w 24 4) (fld w 23 1) (fld w 19 4) (fld w 14 5) (fld w 5 4) (fld w 0 5))
  else if fx w 28 4 11 then some (.brk (fld w 24 4) (fld w 23 1) (fld w 19 4) (fld w 14 5) (fld w 0 14))
  else none

/-- The network syllable (R163). A word that no row of the class matches is no instruction. -/
def decodeNetwork (w : Lane) : Option Instr :=
  if fx w 2 2 0 then some (.networkSyllable (fld w 23 9) (fld w 14 9) (fld w 11 3) (fld w 8 3) (fld w 4 4) (fld w 1 1) (fld w 0 1))
  else none

/-- The scalar class (R194, R195). A word that no row of the class matches is no instruction. -/
def decodeScalar (w : Lane) : Option Instr :=
  if fx w 26 6 1 && fx w 0 11 0 then some (.add (fld w 21 5) (fld w 16 5) (fld w 11 5))
  else if fx w 26 6 2 && fx w 0 11 0 then some (.sub (fld w 21 5) (fld w 16 5) (fld w 11 5))
  else if fx w 26 6 3 && fx w 0 11 0 then some (.and (fld w 21 5) (fld w 16 5) (fld w 11 5))
  else if fx w 26 6 4 && fx w 0 11 0 then some (.or (fld w 21 5) (fld w 16 5) (fld w 11 5))
  else if fx w 26 6 5 && fx w 0 11 0 then some (.xor (fld w 21 5) (fld w 16 5) (fld w 11 5))
  else if fx w 26 6 6 && fx w 0 11 0 then some (.andn (fld w 21 5) (fld w 16 5) (fld w 11 5))
  else if fx w 26 6 7 && fx w 0 11 0 then some (.shl (fld w 21 5) (fld w 16 5) (fld w 11 5))
  else if fx w 26 6 8 && fx w 0 11 0 then some (.shr (fld w 21 5) (fld w 16 5) (fld w 11 5))
  else if fx w 26 6 9 && fx w 0 11 0 then some (.sar (fld w 21 5) (fld w 16 5) (fld w 11 5))
  else if fx w 26 6 10 && fx w 0 11 0 then some (.min (fld w 21 5) (fld w 16 5) (fld w 11 5))
  else if fx w 26 6 11 && fx w 0 11 0 then some (.max (fld w 21 5) (fld w 16 5) (fld w 11 5))
  else if fx w 26 6 12 && fx w 0 11 0 then some (.minu (fld w 21 5) (fld w 16 5) (fld w 11 5))
  else if fx w 26 6 13 && fx w 0 11 0 then some (.maxu (fld w 21 5) (fld w 16 5) (fld w 11 5))
  else if fx w 26 6 14 && fx w 0 16 0 then some (.clz (fld w 21 5) (fld w 16 5))
  else if fx w 26 6 15 && fx w 0 16 0 then some (.popc (fld w 21 5) (fld w 16 5))
  else if fx w 26 6 16 && fx w 0 11 0 then some (.mul (fld w 21 5) (fld w 16 5) (fld w 11 5))
  else if fx w 26 6 17 && fx w 0 11 0 then some (.mulh (fld w 21 5) (fld w 16 5) (fld w 11 5))
  else if fx w 26 6 18 && fx w 0 11 0 then some (.mulhu (fld w 21 5) (fld w 16 5) (fld w 11 5))
  else if fx w 26 6 19 && fx w 0 7 0 then some (.sel (fld w 21 5) (fld w 16 5) (fld w 11 5) (fld w 7 4))
  else if fx w 26 6 24 then some (.addi (fld w 21 5) (fld w 16 5) (fld w 0 16))
  else if fx w 26 6 25 then some (.andi (fld w 21 5) (fld w 16 5) (fld w 0 16))
  else if fx w 26 6 26 then some (.ori (fld w 21 5) (fld w 16 5) (fld w 0 16))
  else if fx w 26 6 27 then some (.xori (fld w 21 5) (fld w 16 5) (fld w 0 16))
  else if fx w 26 6 28 && fx w 6 10 0 then some (.shli (fld w 21 5) (fld w 16 5) (fld w 0 6))
  else if fx w 26 6 29 && fx w 6 10 0 then some (.shri (fld w 21 5) (fld w 16 5) (fld w 0 6))
  else if fx w 26 6 30 && fx w 6 10 0 then some (.sari (fld w 21 5) (fld w 16 5) (fld w 0 6))
  else if fx w 26 6 32 && fx w 2 19 0 then some (.liw (fld w 21 5) (fld w 0 2))
  else if fx w 26 6 33 && fx w 2 19 0 && fx w 0 1 0 then some (.lid (fld w 21 5) (fld w 1 1))
  else if fx w 26 6 34 && fx w 16 1 0 && fx w 0 8 0 then some (.cmp (fld w 22 4) (fld w 17 5) (fld w 13 3) (fld w 8 5))
  else if fx w 26 6 35 && fx w 16 1 0 then some (.cmpi (fld w 22 4) (fld w 17 5) (fld w 13 3) (fld w 0 13))
  else if fx w 26 6 36 && fx w 0 10 0 then some (.cset (fld w 22 4) (fld w 18 4) (fld w 14 4) (fld w 10 4))
  else if fx w 26 6 40 then some (.ld (fld w 21 5) (fld w 16 5) (fld w 14 2) (fld w 13 1) (fld w 0 13))
  else if fx w 26 6 41 && fx w 13 1 0 then some (.st (fld w 21 5) (fld w 16 5) (fld w 14 2) (fld w 0 13))
  else if fx w 26 6 42 && fx w 0 17 0 then some (.mbr (fld w 21 5) (fld w 17 4))
  else if fx w 26 6 43 && fx w 0 17 0 then some (.mbw (fld w 21 5) (fld w 17 4))
  else if fx w 26 6 44 && fx w 0 9 0 then some (.srr (fld w 21 5) (fld w 9 12))
  else if fx w 26 6 45 && fx w 0 9 0 then some (.srw (fld w 21 5) (fld w 9 12))
  else if fx w 26 6 46 && fx w 0 9 0 then some (.srset (fld w 21 5) (fld w 9 12))
  else if fx w 26 6 47 && fx w 0 9 0 then some (.srclr (fld w 21 5) (fld w 9 12))
  else if fx w 26 6 48 && fx w 0 8 0 then some (.mvx (fld w 21 5) (fld w 19 2) (fld w 14 5) (fld w 8 6))
  else if fx w 26 6 49 && fx w 0 8 0 then some (.mxv (fld w 21 5) (fld w 19 2) (fld w 14 5) (fld w 8 6))
  else if fx w 26 6 50 && fx w 0 15 0 then some (.agb (fld w 20 6) (fld w 15 5))
  else if fx w 26 6 51 && fx w 0 7 0 then some (.agl (fld w 20 6) (fld w 17 3) (fld w 12 5) (fld w 7 5))
  else if fx w 26 6 52 && fx w 0 15 0 then some (.agp (fld w 20 6) (fld w 15 5))
  else if fx w 26 6 53 && fx w 0 20 0 then some (.agr (fld w 20 6))
  else none

/-- The vector class (R197, R198). A word that no row of the class matches is no instruction. -/
def decodeVector (w : Lane) : Option Instr :=
  if fx w 26 6 1 then some (.vadd (fld w 24 2) (fld w 19 5) (fld w 14 5) (fld w 9 5) (fld w 6 3) (fld w 3 3) (fld w 0 3))
  else if fx w 26 6 2 then some (.vsub (fld w 24 2) (fld w 19 5) (fld w 14 5) (fld w 9 5) (fld w 6 3) (fld w 3 3) (fld w 0 3))
  else if fx w 26 6 3 then some (.vmul (fld w 24 2) (fld w 19 5) (fld w 14 5) (fld w 9 5) (fld w 6 3) (fld w 3 3) (fld w 0 3))
  else if fx w 26 6 4 && fx w 3 3 0 then some (.vmax (fld w 24 2) (fld w 19 5) (fld w 14 5) (fld w 9 5) (fld w 6 3) (fld w 0 3))
  else if fx w 26 6 5 && fx w 3 3 0 then some (.vmin (fld w 24 2) (fld w 19 5) (fld w 14 5) (fld w 9 5) (fld w 6 3) (fld w 0 3))
  else if fx w 26 6 6 && fx w 9 5 0 && fx w 3 3 0 then some (.vabs (fld w 24 2) (fld w 19 5) (fld w 14 5) (fld w 6 3) (fld w 0 3))
  else if fx w 26 6 7 && fx w 9 5 0 && fx w 3 3 0 then some (.vneg (fld w 24 2) (fld w 19 5) (fld w 14 5) (fld w 6 3) (fld w 0 3))
  else if fx w 26 6 8 && fx w 22 2 0 then some (.vfcmp (fld w 24 2) (fld w 19 3) (fld w 14 5) (fld w 9 5) (fld w 6 3) (fld w 3 3) (fld w 0 3))
  else if fx w 26 6 16 && fx w 4 2 0 then some (.viadd (fld w 24 2) (fld w 19 5) (fld w 14 5) (fld w 9 5) (fld w 6 3) (fld w 3 1) (fld w 0 3))
  else if fx w 26 6 17 && fx w 4 2 0 then some (.visub (fld w 24 2) (fld w 19 5) (fld w 14 5) (fld w 9 5) (fld w 6 3) (fld w 3 1) (fld w 0 3))
  else if fx w 26 6 18 && fx w 4 2 0 then some (.vimul (fld w 24 2) (fld w 19 5) (fld w 14 5) (fld w 9 5) (fld w 6 3) (fld w 3 1) (fld w 0 3))
  else if fx w 26 6 19 && fx w 3 3 0 then some (.vimulh (fld w 24 2) (fld w 19 5) (fld w 14 5) (fld w 9 5) (fld w 6 3) (fld w 0 3))
  else if fx w 26 6 20 && fx w 3 3 0 then some (.vimax (fld w 24 2) (fld w 19 5) (fld w 14 5) (fld w 9 5) (fld w 6 3) (fld w 0 3))
  else if fx w 26 6 21 && fx w 3 3 0 then some (.vimin (fld w 24 2) (fld w 19 5) (fld w 14 5) (fld w 9 5) (fld w 6 3) (fld w 0 3))
  else if fx w 26 6 22 && fx w 4 2 0 then some (.vshl (fld w 24 2) (fld w 19 5) (fld w 14 5) (fld w 9 5) (fld w 6 3) (fld w 3 1) (fld w 0 3))
  else if fx w 26 6 23 && fx w 3 3 0 then some (.vshr (fld w 24 2) (fld w 19 5) (fld w 14 5) (fld w 9 5) (fld w 6 3) (fld w 0 3))
  else if fx w 26 6 24 && fx w 3 3 0 then some (.vsar (fld w 24 2) (fld w 19 5) (fld w 14 5) (fld w 9 5) (fld w 6 3) (fld w 0 3))
  else if fx w 26 6 25 && fx w 22 2 0 then some (.vicmp (fld w 24 2) (fld w 19 3) (fld w 14 5) (fld w 9 5) (fld w 6 3) (fld w 3 3) (fld w 0 3))
  else if fx w 26 6 26 && fx w 9 5 0 && fx w 4 2 0 then some (.viabs (fld w 24 2) (fld w 19 5) (fld w 14 5) (fld w 6 3) (fld w 3 1) (fld w 0 3))
  else if fx w 26 6 32 && fx w 0 6 0 then some (.vand (fld w 24 2) (fld w 19 5) (fld w 14 5) (fld w 9 5) (fld w 6 3))
  else if fx w 26 6 33 && fx w 0 6 0 then some (.vor (fld w 24 2) (fld w 19 5) (fld w 14 5) (fld w 9 5) (fld w 6 3))
  else if fx w 26 6 34 && fx w 0 6 0 then some (.vxor (fld w 24 2) (fld w 19 5) (fld w 14 5) (fld w 9 5) (fld w 6 3))
  else if fx w 26 6 35 && fx w 0 6 0 then some (.vandn (fld w 24 2) (fld w 19 5) (fld w 14 5) (fld w 9 5) (fld w 6 3))
  else if fx w 26 6 36 && fx w 0 6 0 then some (.vsel (fld w 24 2) (fld w 19 5) (fld w 14 5) (fld w 9 5) (fld w 6 3))
  else if fx w 26 6 37 && fx w 9 5 0 && fx w 0 6 0 then some (.vmov (fld w 24 2) (fld w 19 5) (fld w 14 5) (fld w 6 3))
  else if fx w 26 6 38 && fx w 9 10 0 && fx w 2 4 0 then some (.vli (fld w 24 2) (fld w 19 5) (fld w 6 3) (fld w 0 2))
  else if fx w 26 6 39 && fx w 22 2 0 && fx w 17 2 0 && fx w 12 2 0 && fx w 4 5 0 then some (.vkop (fld w 24 2) (fld w 19 3) (fld w 14 3) (fld w 9 3) (fld w 0 4))
  else if fx w 26 6 40 && fx w 9 5 0 && fx w 3 3 0 then some (.vpopc (fld w 24 2) (fld w 19 5) (fld w 14 5) (fld w 6 3) (fld w 0 3))
  else if fx w 26 6 41 && fx w 9 5 0 && fx w 3 3 0 then some (.vclz (fld w 24 2) (fld w 19 5) (fld w 14 5) (fld w 6 3) (fld w 0 3))
  else if fx w 26 6 42 && fx w 9 10 0 && fx w 0 6 0 then some (.vlcnt (fld w 24 2) (fld w 19 5) (fld w 6 3))
  else if fx w 26 6 43 then some (.vcvt (fld w 24 2) (fld w 19 5) (fld w 14 5) (fld w 10 4) (fld w 6 4) (fld w 3 3) (fld w 2 1) (fld w 0 2))
  else if fx w 26 6 44 && fx w 2 1 0 then some (.vmxp (fld w 24 2) (fld w 19 5) (fld w 14 5) (fld w 10 4) (fld w 6 4) (fld w 3 3) (fld w 0 2))
  else if fx w 26 6 45 && fx w 0 6 0 then some (.vmxs (fld w 24 2) (fld w 19 5) (fld w 14 5) (fld w 10 4) (fld w 6 4))
  else if fx w 26 6 46 then some (.vmxu (fld w 24 2) (fld w 19 5) (fld w 14 5) (fld w 10 4) (fld w 6 4) (fld w 3 3) (fld w 2 1) (fld w 0 2))
  else if fx w 29 3 6 then some (.vfma (fld w 26 3) (fld w 24 2) (fld w 19 5) (fld w 14 5) (fld w 9 5) (fld w 4 5) (fld w 1 3) (fld w 0 1))
  else none

/-- The special-function class (R199, R200). A word that no row of the class matches is no instruction. -/
def decodeSpecial (w : Lane) : Option Instr :=
  if fx w 26 6 1 && fx w 0 20 0 then some (.vexp2 (fld w 23 3) (fld w 20 3))
  else if fx w 26 6 2 && fx w 0 20 0 then some (.vlog2 (fld w 23 3) (fld w 20 3))
  else if fx w 26 6 3 && fx w 0 20 0 then some (.vrcpe (fld w 23 3) (fld w 20 3))
  else if fx w 26 6 4 && fx w 0 20 0 then some (.vrsqe (fld w 23 3) (fld w 20 3))
  else if fx w 26 6 5 && fx w 0 14 0 then some (.vrcps (fld w 23 3) (fld w 20 3) (fld w 17 3) (fld w 14 3))
  else if fx w 26 6 6 && fx w 0 14 0 then some (.vrsqs (fld w 23 3) (fld w 20 3) (fld w 17 3) (fld w 14 3))
  else if fx w 26 6 7 && fx w 17 3 0 && fx w 0 14 0 then some (.vsqrt (fld w 23 3) (fld w 20 3) (fld w 14 3))
  else if fx w 26 6 8 && fx w 17 3 0 && fx w 0 4 0 then some (.ftbl (fld w 23 3) (fld w 20 3) (fld w 14 3) (fld w 10 4) (fld w 4 6))
  else if fx w 23 9 72 && fx w 10 10 0 then some (.ftld (fld w 20 3) (fld w 4 6) (fld w 0 4))
  else if fx w 26 6 10 && fx w 0 20 0 then some (.fmov (fld w 23 3) (fld w 20 3))
  else if fx w 26 6 16 && fx w 15 3 0 && fx w 0 12 0 then some (.psum (fld w 22 4) (fld w 19 3) (fld w 18 1) (fld w 12 3))
  else if fx w 26 6 17 && fx w 19 3 0 && fx w 15 3 0 && fx w 0 12 0 then some (.pmax (fld w 22 4) (fld w 18 1) (fld w 12 3))
  else if fx w 26 6 18 && fx w 19 3 0 && fx w 15 3 0 && fx w 0 12 0 then some (.pmin (fld w 22 4) (fld w 18 1) (fld w 12 3))
  else if fx w 26 6 19 && fx w 0 12 0 then some (.psums (fld w 22 4) (fld w 19 3) (fld w 18 1) (fld w 15 3) (fld w 12 3))
  else if fx w 26 6 20 && fx w 19 3 0 && fx w 0 12 0 then some (.pmaxs (fld w 22 4) (fld w 18 1) (fld w 15 3) (fld w 12 3))
  else if fx w 26 6 21 && fx w 19 3 0 && fx w 0 12 0 then some (.pmins (fld w 22 4) (fld w 18 1) (fld w 15 3) (fld w 12 3))
  else if fx w 19 13 2888 && fx w 15 3 0 && fx w 0 12 0 then some (.cmpct (fld w 18 1) (fld w 12 3))
  else none

/-- The matrix class (R201). A word that no row of the class matches is no instruction. -/
def decodeMatrix (w : Lane) : Option Instr :=
  if fx w 26 6 1 && fx w 0 17 0 then some (.mfire (fld w 18 8) (fld w 17 1))
  else if fx w 26 6 2 && fx w 0 16 0 then some (.mtile (fld w 21 5) (fld w 17 4) (fld w 16 1))
  else if fx w 26 6 3 && fx w 0 17 0 then some (.mfmt (fld w 22 4) (fld w 18 4) (fld w 17 1))
  else if fx w 26 6 4 && fx w 0 21 0 then some (.mgeom (fld w 21 5))
  else if fx w 26 6 5 && fx w 0 10 0 then some (.mclr (fld w 18 8) (fld w 10 8))
  else if fx w 26 6 6 && fx w 0 14 0 then some (.mdrn (fld w 18 8) (fld w 15 3) (fld w 14 1))
  else if fx w 26 6 7 && fx w 0 15 0 then some (.mpre (fld w 18 8) (fld w 15 3))
  else none

/-- The async class (R203 to R205). A word that no row of the class matches is no instruction. -/
def decodeAsync (w : Lane) : Option Instr :=
  if fx w 26 6 1 && fx w 5 6 0 && fx w 0 3 0 then some (.dcopyLin (fld w 21 5) (fld w 17 4) (fld w 16 1) (fld w 15 1) (fld w 11 4) (fld w 3 2))
  else if fx w 26 6 1 && fx w 5 6 0 && fx w 0 3 1 then some (.dcopyStr (fld w 21 5) (fld w 17 4) (fld w 16 1) (fld w 15 1) (fld w 11 4) (fld w 3 2))
  else if fx w 26 6 1 && fx w 5 6 0 && fx w 0 3 2 then some (.dcopyNest (fld w 21 5) (fld w 17 4) (fld w 16 1) (fld w 15 1) (fld w 11 4) (fld w 3 2))
  else if fx w 26 6 1 && fx w 5 6 0 && fx w 0 3 3 then some (.dcopyPad (fld w 21 5) (fld w 17 4) (fld w 16 1) (fld w 15 1) (fld w 11 4) (fld w 3 2))
  else if fx w 26 6 1 && fx w 5 6 0 && fx w 0 3 4 then some (.dcopyView (fld w 21 5) (fld w 17 4) (fld w 16 1) (fld w 15 1) (fld w 11 4) (fld w 3 2))
  else if fx w 26 6 1 && fx w 5 6 0 && fx w 0 3 5 then some (.dcopyRem (fld w 21 5) (fld w 17 4) (fld w 16 1) (fld w 15 1) (fld w 11 4) (fld w 3 2))
  else if fx w 26 6 1 && fx w 5 6 0 && fx w 0 3 6 then some (.dcopyHost (fld w 21 5) (fld w 17 4) (fld w 16 1) (fld w 15 1) (fld w 11 4) (fld w 3 2))
  else if fx w 26 6 2 && fx w 0 11 0 then some (.put (fld w 21 5) (fld w 17 4) (fld w 16 1) (fld w 15 1) (fld w 11 4))
  else if fx w 26 6 3 && fx w 2 9 0 then some (.hgath (fld w 21 5) (fld w 17 4) (fld w 16 1) (fld w 15 1) (fld w 11 4) (fld w 0 2))
  else if fx w 26 6 4 && fx w 9 2 0 && fx w 0 2 0 then some (.hredSum (fld w 21 5) (fld w 17 4) (fld w 16 1) (fld w 15 1) (fld w 11 4) (fld w 6 3) (fld w 2 4))
  else if fx w 26 6 4 && fx w 9 2 0 && fx w 0 2 1 then some (.hredMax (fld w 21 5) (fld w 17 4) (fld w 16 1) (fld w 15 1) (fld w 11 4) (fld w 6 3) (fld w 2 4))
  else if fx w 26 6 4 && fx w 9 2 0 && fx w 0 2 2 then some (.hredMin (fld w 21 5) (fld w 17 4) (fld w 16 1) (fld w 15 1) (fld w 11 4) (fld w 6 3) (fld w 2 4))
  else if fx w 26 6 5 && fx w 0 11 0 then some (.hcvt (fld w 21 5) (fld w 17 4) (fld w 16 1) (fld w 15 1) (fld w 11 4))
  else if fx w 26 6 6 && fx w 1 10 0 then some (.hatomAdd (fld w 21 5) (fld w 17 4) (fld w 16 1) (fld w 15 1) (fld w 11 4) (fld w 0 1))
  else if fx w 26 6 6 && fx w 1 10 1 then some (.hatomMax (fld w 21 5) (fld w 17 4) (fld w 16 1) (fld w 15 1) (fld w 11 4) (fld w 0 1))
  else if fx w 26 6 6 && fx w 1 10 2 then some (.hatomMin (fld w 21 5) (fld w 17 4) (fld w 16 1) (fld w 15 1) (fld w 11 4) (fld w 0 1))
  else if fx w 26 6 6 && fx w 1 10 3 then some (.hatomXchg (fld w 21 5) (fld w 17 4) (fld w 16 1) (fld w 15 1) (fld w 11 4) (fld w 0 1))
  else if fx w 26 6 6 && fx w 1 10 4 then some (.hatomCas (fld w 21 5) (fld w 17 4) (fld w 16 1) (fld w 15 1) (fld w 11 4) (fld w 0 1))
  else if fx w 26 6 6 && fx w 0 11 10 then some (.hatomAddFp32 (fld w 21 5) (fld w 17 4) (fld w 16 1) (fld w 15 1) (fld w 11 4))
  else if fx w 26 6 6 && fx w 0 11 11 then some (.hatomMaxFp32 (fld w 21 5) (fld w 17 4) (fld w 16 1) (fld w 15 1) (fld w 11 4))
  else if fx w 26 6 6 && fx w 0 11 12 then some (.hatomMinFp32 (fld w 21 5) (fld w 17 4) (fld w 16 1) (fld w 15 1) (fld w 11 4))
  else if fx w 26 6 7 && fx w 0 11 0 then some (.probeUnpin (fld w 21 5) (fld w 17 4) (fld w 16 1) (fld w 15 1) (fld w 11 4))
  else if fx w 26 6 7 && fx w 0 11 1 then some (.probeR (fld w 21 5) (fld w 17 4) (fld w 16 1) (fld w 15 1) (fld w 11 4))
  else if fx w 26 6 7 && fx w 0 11 2 then some (.probeW (fld w 21 5) (fld w 17 4) (fld w 16 1) (fld w 15 1) (fld w 11 4))
  else if fx w 26 6 7 && fx w 0 11 3 then some (.probeRw (fld w 21 5) (fld w 17 4) (fld w 16 1) (fld w 15 1) (fld w 11 4))
  else if fx w 21 11 256 && fx w 15 2 0 && fx w 0 11 0 then some (.fence (fld w 17 4) (fld w 11 4))
  else if fx w 21 11 288 && fx w 15 2 0 && fx w 0 11 0 then some (.fenceSc (fld w 17 4) (fld w 11 4))
  else if fx w 21 11 320 && fx w 0 17 0 then some (.vsync (fld w 17 4))
  else if fx w 26 6 11 && fx w 0 17 0 then some (.tadv (fld w 21 5) (fld w 17 4))
  else if fx w 26 6 12 && fx w 0 17 0 then some (.tsetSet (fld w 21 5) (fld w 17 4))
  else if fx w 26 6 12 && fx w 0 17 1 then some (.tsetSeterr (fld w 21 5) (fld w 17 4))
  else if fx w 26 6 12 && fx w 0 17 2 then some (.tsetClrerr (fld w 21 5) (fld w 17 4))
  else if fx w 26 6 13 && fx w 0 11 0 then some (.enq (fld w 21 5) (fld w 17 4) (fld w 16 1) (fld w 15 1) (fld w 11 4))
  else if fx w 26 6 14 && fx w 0 11 0 then some (.cload (fld w 21 5) (fld w 17 4) (fld w 16 1) (fld w 15 1) (fld w 11 4))
  else if fx w 26 6 15 && fx w 3 8 0 then some (.rsolve (fld w 21 5) (fld w 17 4) (fld w 16 1) (fld w 15 1) (fld w 11 4) (fld w 2 1) (fld w 0 2))
  else none

/-- The read-side class (R206). A word that no row of the class matches is no instruction. -/
def decodeRead (w : Lane) : Option Instr :=
  if fx w 26 6 1 && fx w 0 15 0 then some (.rd (fld w 20 6) (fld w 15 5))
  else if fx w 26 6 2 && fx w 0 15 0 then some (.rdc (fld w 20 6) (fld w 15 5))
  else if fx w 26 6 3 && fx w 0 15 0 then some (.rdi (fld w 20 6) (fld w 15 5))
  else if fx w 26 6 4 && fx w 0 10 0 then some (.waitf (fld w 20 6) (fld w 15 5) (fld w 10 5))
  else if fx w 26 6 5 && fx w 0 5 0 then some (.rload (fld w 17 9) (fld w 16 1) (fld w 10 6) (fld w 5 5))
  else none

/-- The write-side class (R206). A word that no row of the class matches is no instruction. -/
def decodeWrite (w : Lane) : Option Instr :=
  if fx w 26 6 1 && fx w 0 15 0 then some (.wr (fld w 20 6) (fld w 15 5))
  else if fx w 26 6 2 && fx w 0 10 0 then some (.wrm (fld w 20 6) (fld w 15 5) (fld w 10 5))
  else if fx w 26 6 3 && fx w 0 10 0 then some (.wrf (fld w 20 6) (fld w 15 5) (fld w 10 5))
  else if fx w 26 6 4 && fx w 0 5 0 then some (.rsave (fld w 17 9) (fld w 16 1) (fld w 10 6) (fld w 5 5))
  else none

/-- The row of its class that a syllable matches. -/
def decodeRow (k : Cls) (w : Lane) : Option Instr :=
  match k with
  | .header => decodeHeader w
  | .network => decodeNetwork w
  | .scalar => decodeScalar w
  | .vector => decodeVector w
  | .special => decodeSpecial w
  | .matrix => decodeMatrix w
  | .async => decodeAsync w
  | .read => decodeRead w
  | .write => decodeWrite w

/-- The instruction a syllable of a class encodes, when its fields are admitted (R191). -/
def decodeCls (k : Cls) (w : Lane) : Option Instr :=
  match decodeRow k w with
  | some i => if i.wf then some i else none
  | none => none

/-- A syllable in its slot: no operation, an instruction, or the reason it is illegal (R157, R158, R161). -/
def decodeSlot (sl : Slot) (w : Lane) : Except Illegal (Option Instr) :=
  if w = 0 then .ok none
  else if sl = .h && fx w 28 4 0 then
    if fx w 0 14 0 && hdrOk (fld w 23 1) (fld w 19 4) (fld w 14 5) then .ok none else .error .dirtyNop
  else if sl.cls ≠ .header && sl.cls ≠ .network && fx w 26 6 0 then .error .dirtyNop
  else
    match decodeRow sl.cls w with
    | some i => if i.wf then .ok (some i) else .error .reservedValue
    | none => .error .noRow

/-- Syllable `k` of a bundle (R156). -/
def syllable (b : Bundle) (k : Nat) : Lane := b.extractLsb' (32 * k) 32

/-- A bundle that holds one syllable in a slot and four extension words, all else zero (R156). -/
def bundleOf (sl : Slot) (w : Lane) (e0 e1 e2 e3 : Lane) : Bundle :=
  (w.zeroExtend 512 <<< (32 * sl.syl)) ||| (e0.zeroExtend 512 <<< 384) ||| (e1.zeroExtend 512 <<< 416) |||
  (e2.zeroExtend 512 <<< 448) ||| (e3.zeroExtend 512 <<< 480)

/-- The class of slots whose syllable encodes an instruction (R190); none for an event of the table. -/
def Instr.cls : Instr → Option Cls
  | .bundleIssue => none
  | .resultLanding => none
  | .hitchLaneArrival => none
  | .engineLineWrite => none
  | .mtileFiring => none
  | .routeLoadSwitch => none
  | .rsolveAccept _ _ => none
  | .rsolveSwitch _ _ => none
  | .itemPost _ _ => none
  | .putAcknowledgement _ _ _ => none
  | .fenceScTick _ _ => none
  | .viewMergeTimeout _ => none
  | .trapEntry _ _ _ _ => none
  | .fatalContextError _ _ => none
  | .preemptRequest _ _ => none
  | .sliceExpiry _ _ _ => none
  | .pdeadExpiry _ _ _ => none
  | .softYield => none
  | .huskSave => none
  | .huskResume _ _ => none
  | .stallWatchdogExpiry => none
  | .lotteryDraw => none
  | .launchDispatchBegin _ _ => none
  | .thrashHoldExpiry _ => none
  | .pageExpansion _ => none
  | .unitRetire _ _ => none
  | .launchComplete _ _ => none
  | .qtailWrite _ _ => none
  | .cancelWrite _ => none
  | .sctlWrite _ => none
  | .lseedWrite _ => none
  | .nmodeWrite _ => none
  | .modeChangeComplete => none
  | .fbflushWrite _ => none
  | .fbdenyWrite _ => none
  | .refreshHeartbeat _ => none
  | .refreshTakeover _ => none
  | .stkrefRelWrite _ _ => none
  | .packageBeat => none
  | .podBeatTake _ _ => none
  | .podBeatLost => none
  | .rdmaWriteDva _ _ => none
  | .rdmaWriteBankLine _ _ => none
  | .rdmaWriteMailbox _ _ => none
  | .rdmaWriteRegister _ _ => none
  | .rdmaReadDva _ _ => none
  | .rdmaReadRegister _ _ => none
  | .rdmaFetchAdd _ _ => none
  | .rdmaCompareSwap _ _ _ => none
  | .rdmaUnsupportedRequest _ => none
  | .putArrival _ => none
  | .remoteDcopyRequest _ => none
  | .flitReceive _ _ _ => none
  | .linkNakReceive _ _ _ => none
  | .lanesetRelockTimeout _ _ _ => none
  | .correctionWindowEnd => none
  | .remapReceive _ _ _ _ _ => none
  | .remapSwitch _ _ _ _ => none
  | .ageingRefresh => none
  | .pctlQreq _ => none
  | .pctlDownreq _ => none
  | .pctlQclr _ => none
  | .pctlRelock _ => none
  | .lightTest _ => none
  | .portRelockTimeout _ _ => none
  | .quiesceTimeout _ _ => none
  | .drainMarkerReceive _ _ => none
  | .lanesetLock _ _ _ _ => none
  | .peerStateReport _ _ => none
  | .slotBoundary _ => none
  | .calendarSwitch _ => none
  | .cswWrite _ _ => none
  | .shadowCalendarWrite _ _ _ => none
  | .snapTake _ => none
  | .frmapWrite _ _ => none
  | .routeTableWrite _ _ => none
  | .holdTimeout _ _ _ => none
  | .fevtfRead => none
  | .fevtmRead => none
  | .hevt0Read => none
  | .rcCounterRead _ => none
  | .registerWrite _ _ => none
  | .mgmtRead _ => none
  | .mgmtWrite _ => none
  | .mgmtWarm _ => none
  | .mgmtCold _ => none
  | .mgmtAttest _ => none
  | .mgmtFlash _ => none
  | .mgmtSvn _ => none
  | .mgmtKey _ => none
  | .mgmtUnknownOp _ => none
  | .coldReset => none
  | .warmReset => none
  | .srstatWarmWrite => none
  | .srstatClrWrite => none
  | .thermalGateBegin _ => none
  | .thermalGateEnd _ => none
  | .thermalShutdown => none
  | .powerCapEngage _ => none
  | .powerCapRelease _ => none
  | .pcapWrite _ => none
  | .islandStateRequest _ _ => none
  | .networkSyllable _ _ _ _ _ _ _ => some .network
  | .tree _ _ _ _ => some .header
  | .jump _ _ _ _ _ => some .header
  | .call _ _ _ _ _ => some .header
  | .ret _ _ _ _ => some .header
  | .loop _ _ _ _ _ _ _ _ => some .header
  | .trap _ _ _ _ _ => some .header
  | .yield _ _ _ _ => some .header
  | .exit _ _ _ _ => some .header
  | .rtt _ _ _ _ => some .header
  | .bsel _ _ _ _ _ _ => some .header
  | .brk _ _ _ _ _ => some .header
  | .add _ _ _ => some .scalar
  | .sub _ _ _ => some .scalar
  | .and _ _ _ => some .scalar
  | .or _ _ _ => some .scalar
  | .xor _ _ _ => some .scalar
  | .andn _ _ _ => some .scalar
  | .shl _ _ _ => some .scalar
  | .shr _ _ _ => some .scalar
  | .sar _ _ _ => some .scalar
  | .min _ _ _ => some .scalar
  | .max _ _ _ => some .scalar
  | .minu _ _ _ => some .scalar
  | .maxu _ _ _ => some .scalar
  | .clz _ _ => some .scalar
  | .popc _ _ => some .scalar
  | .mul _ _ _ => some .scalar
  | .mulh _ _ _ => some .scalar
  | .mulhu _ _ _ => some .scalar
  | .sel _ _ _ _ => some .scalar
  | .addi _ _ _ => some .scalar
  | .andi _ _ _ => some .scalar
  | .ori _ _ _ => some .scalar
  | .xori _ _ _ => some .scalar
  | .shli _ _ _ => some .scalar
  | .shri _ _ _ => some .scalar
  | .sari _ _ _ => some .scalar
  | .liw _ _ => some .scalar
  | .lid _ _ => some .scalar
  | .cmp _ _ _ _ => some .scalar
  | .cmpi _ _ _ _ => some .scalar
  | .cset _ _ _ _ => some .scalar
  | .ld _ _ _ _ _ => some .scalar
  | .st _ _ _ _ => some .scalar
  | .mbr _ _ => some .scalar
  | .mbw _ _ => some .scalar
  | .srr _ _ => some .scalar
  | .srw _ _ => some .scalar
  | .srset _ _ => some .scalar
  | .srclr _ _ => some .scalar
  | .mvx _ _ _ _ => some .scalar
  | .mxv _ _ _ _ => some .scalar
  | .agb _ _ => some .scalar
  | .agl _ _ _ _ => some .scalar
  | .agp _ _ => some .scalar
  | .agr _ => some .scalar
  | .vadd _ _ _ _ _ _ _ => some .vector
  | .vsub _ _ _ _ _ _ _ => some .vector
  | .vmul _ _ _ _ _ _ _ => some .vector
  | .vmax _ _ _ _ _ _ => some .vector
  | .vmin _ _ _ _ _ _ => some .vector
  | .vabs _ _ _ _ _ => some .vector
  | .vneg _ _ _ _ _ => some .vector
  | .vfcmp _ _ _ _ _ _ _ => some .vector
  | .viadd _ _ _ _ _ _ _ => some .vector
  | .visub _ _ _ _ _ _ _ => some .vector
  | .vimul _ _ _ _ _ _ _ => some .vector
  | .vimulh _ _ _ _ _ _ => some .vector
  | .vimax _ _ _ _ _ _ => some .vector
  | .vimin _ _ _ _ _ _ => some .vector
  | .vshl _ _ _ _ _ _ _ => some .vector
  | .vshr _ _ _ _ _ _ => some .vector
  | .vsar _ _ _ _ _ _ => some .vector
  | .vicmp _ _ _ _ _ _ _ => some .vector
  | .viabs _ _ _ _ _ _ => some .vector
  | .vand _ _ _ _ _ => some .vector
  | .vor _ _ _ _ _ => some .vector
  | .vxor _ _ _ _ _ => some .vector
  | .vandn _ _ _ _ _ => some .vector
  | .vsel _ _ _ _ _ => some .vector
  | .vmov _ _ _ _ => some .vector
  | .vli _ _ _ _ => some .vector
  | .vkop _ _ _ _ _ => some .vector
  | .vpopc _ _ _ _ _ => some .vector
  | .vclz _ _ _ _ _ => some .vector
  | .vlcnt _ _ _ => some .vector
  | .vcvt _ _ _ _ _ _ _ _ => some .vector
  | .vmxp _ _ _ _ _ _ _ => some .vector
  | .vmxs _ _ _ _ _ => some .vector
  | .vmxu _ _ _ _ _ _ _ _ => some .vector
  | .vfma _ _ _ _ _ _ _ _ => some .vector
  | .vexp2 _ _ => some .special
  | .vlog2 _ _ => some .special
  | .vrcpe _ _ => some .special
  | .vrsqe _ _ => some .special
  | .vrcps _ _ _ _ => some .special
  | .vrsqs _ _ _ _ => some .special
  | .vsqrt _ _ _ => some .special
  | .ftbl _ _ _ _ _ => some .special
  | .ftld _ _ _ => some .special
  | .fmov _ _ => some .special
  | .psum _ _ _ _ => some .special
  | .pmax _ _ _ => some .special
  | .pmin _ _ _ => some .special
  | .psums _ _ _ _ _ => some .special
  | .pmaxs _ _ _ _ => some .special
  | .pmins _ _ _ _ => some .special
  | .cmpct _ _ => some .special
  | .mfire _ _ => some .matrix
  | .mtile _ _ _ => some .matrix
  | .mfmt _ _ _ => some .matrix
  | .mgeom _ => some .matrix
  | .mclr _ _ => some .matrix
  | .mdrn _ _ _ => some .matrix
  | .mpre _ _ => some .matrix
  | .dcopyLin _ _ _ _ _ _ => some .async
  | .dcopyStr _ _ _ _ _ _ => some .async
  | .dcopyNest _ _ _ _ _ _ => some .async
  | .dcopyPad _ _ _ _ _ _ => some .async
  | .dcopyView _ _ _ _ _ _ => some .async
  | .dcopyRem _ _ _ _ _ _ => some .async
  | .dcopyHost _ _ _ _ _ _ => some .async
  | .put _ _ _ _ _ => some .async
  | .hgath _ _ _ _ _ _ => some .async
  | .hredSum _ _ _ _ _ _ _ => some .async
  | .hredMax _ _ _ _ _ _ _ => some .async
  | .hredMin _ _ _ _ _ _ _ => some .async
  | .hcvt _ _ _ _ _ => some .async
  | .hatomAdd _ _ _ _ _ _ => some .async
  | .hatomMax _ _ _ _ _ _ => some .async
  | .hatomMin _ _ _ _ _ _ => some .async
  | .hatomXchg _ _ _ _ _ _ => some .async
  | .hatomCas _ _ _ _ _ _ => some .async
  | .hatomAddFp32 _ _ _ _ _ => some .async
  | .hatomMaxFp32 _ _ _ _ _ => some .async
  | .hatomMinFp32 _ _ _ _ _ => some .async
  | .probeUnpin _ _ _ _ _ => some .async
  | .probeR _ _ _ _ _ => some .async
  | .probeW _ _ _ _ _ => some .async
  | .probeRw _ _ _ _ _ => some .async
  | .fence _ _ => some .async
  | .fenceSc _ _ => some .async
  | .vsync _ => some .async
  | .tadv _ _ => some .async
  | .tsetSet _ _ => some .async
  | .tsetSeterr _ _ => some .async
  | .tsetClrerr _ _ => some .async
  | .enq _ _ _ _ _ => some .async
  | .cload _ _ _ _ _ => some .async
  | .rsolve _ _ _ _ _ _ _ => some .async
  | .rd _ _ => some .read
  | .rdc _ _ => some .read
  | .rdi _ _ => some .read
  | .waitf _ _ _ => some .read
  | .rload _ _ _ _ => some .read
  | .wr _ _ => some .write
  | .wrm _ _ _ => some .write
  | .wrf _ _ _ => some .write
  | .rsave _ _ _ _ => some .write
  | .powerLoss => none
  | .pageMigrationComplete _ => none
  | .effHourlySample => none
  | .otherHostTierWrite _ _ => none
  | .cnpReceive _ _ => none
  | .pfcPauseReceive _ _ _ => none

/-- How many bits of its syllable the encoding of an instruction fixes. -/
def Instr.fixedBits : Instr → Nat
  | .bundleIssue => 0
  | .resultLanding => 0
  | .hitchLaneArrival => 0
  | .engineLineWrite => 0
  | .mtileFiring => 0
  | .routeLoadSwitch => 0
  | .rsolveAccept _ _ => 0
  | .rsolveSwitch _ _ => 0
  | .itemPost _ _ => 0
  | .putAcknowledgement _ _ _ => 0
  | .fenceScTick _ _ => 0
  | .viewMergeTimeout _ => 0
  | .trapEntry _ _ _ _ => 0
  | .fatalContextError _ _ => 0
  | .preemptRequest _ _ => 0
  | .sliceExpiry _ _ _ => 0
  | .pdeadExpiry _ _ _ => 0
  | .softYield => 0
  | .huskSave => 0
  | .huskResume _ _ => 0
  | .stallWatchdogExpiry => 0
  | .lotteryDraw => 0
  | .launchDispatchBegin _ _ => 0
  | .thrashHoldExpiry _ => 0
  | .pageExpansion _ => 0
  | .unitRetire _ _ => 0
  | .launchComplete _ _ => 0
  | .qtailWrite _ _ => 0
  | .cancelWrite _ => 0
  | .sctlWrite _ => 0
  | .lseedWrite _ => 0
  | .nmodeWrite _ => 0
  | .modeChangeComplete => 0
  | .fbflushWrite _ => 0
  | .fbdenyWrite _ => 0
  | .refreshHeartbeat _ => 0
  | .refreshTakeover _ => 0
  | .stkrefRelWrite _ _ => 0
  | .packageBeat => 0
  | .podBeatTake _ _ => 0
  | .podBeatLost => 0
  | .rdmaWriteDva _ _ => 0
  | .rdmaWriteBankLine _ _ => 0
  | .rdmaWriteMailbox _ _ => 0
  | .rdmaWriteRegister _ _ => 0
  | .rdmaReadDva _ _ => 0
  | .rdmaReadRegister _ _ => 0
  | .rdmaFetchAdd _ _ => 0
  | .rdmaCompareSwap _ _ _ => 0
  | .rdmaUnsupportedRequest _ => 0
  | .putArrival _ => 0
  | .remoteDcopyRequest _ => 0
  | .flitReceive _ _ _ => 0
  | .linkNakReceive _ _ _ => 0
  | .lanesetRelockTimeout _ _ _ => 0
  | .correctionWindowEnd => 0
  | .remapReceive _ _ _ _ _ => 0
  | .remapSwitch _ _ _ _ => 0
  | .ageingRefresh => 0
  | .pctlQreq _ => 0
  | .pctlDownreq _ => 0
  | .pctlQclr _ => 0
  | .pctlRelock _ => 0
  | .lightTest _ => 0
  | .portRelockTimeout _ _ => 0
  | .quiesceTimeout _ _ => 0
  | .drainMarkerReceive _ _ => 0
  | .lanesetLock _ _ _ _ => 0
  | .peerStateReport _ _ => 0
  | .slotBoundary _ => 0
  | .calendarSwitch _ => 0
  | .cswWrite _ _ => 0
  | .shadowCalendarWrite _ _ _ => 0
  | .snapTake _ => 0
  | .frmapWrite _ _ => 0
  | .routeTableWrite _ _ => 0
  | .holdTimeout _ _ _ => 0
  | .fevtfRead => 0
  | .fevtmRead => 0
  | .hevt0Read => 0
  | .rcCounterRead _ => 0
  | .registerWrite _ _ => 0
  | .mgmtRead _ => 0
  | .mgmtWrite _ => 0
  | .mgmtWarm _ => 0
  | .mgmtCold _ => 0
  | .mgmtAttest _ => 0
  | .mgmtFlash _ => 0
  | .mgmtSvn _ => 0
  | .mgmtKey _ => 0
  | .mgmtUnknownOp _ => 0
  | .coldReset => 0
  | .warmReset => 0
  | .srstatWarmWrite => 0
  | .srstatClrWrite => 0
  | .thermalGateBegin _ => 0
  | .thermalGateEnd _ => 0
  | .thermalShutdown => 0
  | .powerCapEngage _ => 0
  | .powerCapRelease _ => 0
  | .pcapWrite _ => 0
  | .islandStateRequest _ _ => 0
  | .networkSyllable _ _ _ _ _ _ _ => 2
  | .tree _ _ _ _ => 18
  | .jump _ _ _ _ _ => 4
  | .call _ _ _ _ _ => 4
  | .ret _ _ _ _ => 18
  | .loop _ _ _ _ _ _ _ _ => 4
  | .trap _ _ _ _ _ => 4
  | .yield _ _ _ _ => 18
  | .exit _ _ _ _ => 18
  | .rtt _ _ _ _ => 18
  | .bsel _ _ _ _ _ _ => 9
  | .brk _ _ _ _ _ => 4
  | .add _ _ _ => 17
  | .sub _ _ _ => 17
  | .and _ _ _ => 17
  | .or _ _ _ => 17
  | .xor _ _ _ => 17
  | .andn _ _ _ => 17
  | .shl _ _ _ => 17
  | .shr _ _ _ => 17
  | .sar _ _ _ => 17
  | .min _ _ _ => 17
  | .max _ _ _ => 17
  | .minu _ _ _ => 17
  | .maxu _ _ _ => 17
  | .clz _ _ => 22
  | .popc _ _ => 22
  | .mul _ _ _ => 17
  | .mulh _ _ _ => 17
  | .mulhu _ _ _ => 17
  | .sel _ _ _ _ => 13
  | .addi _ _ _ => 6
  | .andi _ _ _ => 6
  | .ori _ _ _ => 6
  | .xori _ _ _ => 6
  | .shli _ _ _ => 16
  | .shri _ _ _ => 16
  | .sari _ _ _ => 16
  | .liw _ _ => 25
  | .lid _ _ => 26
  | .cmp _ _ _ _ => 15
  | .cmpi _ _ _ _ => 7
  | .cset _ _ _ _ => 16
  | .ld _ _ _ _ _ => 6
  | .st _ _ _ _ => 7
  | .mbr _ _ => 23
  | .mbw _ _ => 23
  | .srr _ _ => 15
  | .srw _ _ => 15
  | .srset _ _ => 15
  | .srclr _ _ => 15
  | .mvx _ _ _ _ => 14
  | .mxv _ _ _ _ => 14
  | .agb _ _ => 21
  | .agl _ _ _ _ => 13
  | .agp _ _ => 21
  | .agr _ => 26
  | .vadd _ _ _ _ _ _ _ => 6
  | .vsub _ _ _ _ _ _ _ => 6
  | .vmul _ _ _ _ _ _ _ => 6
  | .vmax _ _ _ _ _ _ => 9
  | .vmin _ _ _ _ _ _ => 9
  | .vabs _ _ _ _ _ => 14
  | .vneg _ _ _ _ _ => 14
  | .vfcmp _ _ _ _ _ _ _ => 8
  | .viadd _ _ _ _ _ _ _ => 8
  | .visub _ _ _ _ _ _ _ => 8
  | .vimul _ _ _ _ _ _ _ => 8
  | .vimulh _ _ _ _ _ _ => 9
  | .vimax _ _ _ _ _ _ => 9
  | .vimin _ _ _ _ _ _ => 9
  | .vshl _ _ _ _ _ _ _ => 8
  | .vshr _ _ _ _ _ _ => 9
  | .vsar _ _ _ _ _ _ => 9
  | .vicmp _ _ _ _ _ _ _ => 8
  | .viabs _ _ _ _ _ _ => 13
  | .vand _ _ _ _ _ => 12
  | .vor _ _ _ _ _ => 12
  | .vxor _ _ _ _ _ => 12
  | .vandn _ _ _ _ _ => 12
  | .vsel _ _ _ _ _ => 12
  | .vmov _ _ _ _ => 17
  | .vli _ _ _ _ => 20
  | .vkop _ _ _ _ _ => 17
  | .vpopc _ _ _ _ _ => 14
  | .vclz _ _ _ _ _ => 14
  | .vlcnt _ _ _ => 22
  | .vcvt _ _ _ _ _ _ _ _ => 6
  | .vmxp _ _ _ _ _ _ _ => 7
  | .vmxs _ _ _ _ _ => 12
  | .vmxu _ _ _ _ _ _ _ _ => 6
  | .vfma _ _ _ _ _ _ _ _ => 3
  | .vexp2 _ _ => 26
  | .vlog2 _ _ => 26
  | .vrcpe _ _ => 26
  | .vrsqe _ _ => 26
  | .vrcps _ _ _ _ => 20
  | .vrsqs _ _ _ _ => 20
  | .vsqrt _ _ _ => 23
  | .ftbl _ _ _ _ _ => 13
  | .ftld _ _ _ => 19
  | .fmov _ _ => 26
  | .psum _ _ _ _ => 21
  | .pmax _ _ _ => 24
  | .pmin _ _ _ => 24
  | .psums _ _ _ _ _ => 18
  | .pmaxs _ _ _ _ => 21
  | .pmins _ _ _ _ => 21
  | .cmpct _ _ => 28
  | .mfire _ _ => 23
  | .mtile _ _ _ => 22
  | .mfmt _ _ _ => 23
  | .mgeom _ => 27
  | .mclr _ _ => 16
  | .mdrn _ _ _ => 20
  | .mpre _ _ => 21
  | .dcopyLin _ _ _ _ _ _ => 15
  | .dcopyStr _ _ _ _ _ _ => 15
  | .dcopyNest _ _ _ _ _ _ => 15
  | .dcopyPad _ _ _ _ _ _ => 15
  | .dcopyView _ _ _ _ _ _ => 15
  | .dcopyRem _ _ _ _ _ _ => 15
  | .dcopyHost _ _ _ _ _ _ => 15
  | .put _ _ _ _ _ => 17
  | .hgath _ _ _ _ _ _ => 15
  | .hredSum _ _ _ _ _ _ _ => 10
  | .hredMax _ _ _ _ _ _ _ => 10
  | .hredMin _ _ _ _ _ _ _ => 10
  | .hcvt _ _ _ _ _ => 17
  | .hatomAdd _ _ _ _ _ _ => 16
  | .hatomMax _ _ _ _ _ _ => 16
  | .hatomMin _ _ _ _ _ _ => 16
  | .hatomXchg _ _ _ _ _ _ => 16
  | .hatomCas _ _ _ _ _ _ => 16
  | .hatomAddFp32 _ _ _ _ _ => 17
  | .hatomMaxFp32 _ _ _ _ _ => 17
  | .hatomMinFp32 _ _ _ _ _ => 17
  | .probeUnpin _ _ _ _ _ => 17
  | .probeR _ _ _ _ _ => 17
  | .probeW _ _ _ _ _ => 17
  | .probeRw _ _ _ _ _ => 17
  | .fence _ _ => 24
  | .fenceSc _ _ => 24
  | .vsync _ => 28
  | .tadv _ _ => 23
  | .tsetSet _ _ => 23
  | .tsetSeterr _ _ => 23
  | .tsetClrerr _ _ => 23
  | .enq _ _ _ _ _ => 17
  | .cload _ _ _ _ _ => 17
  | .rsolve _ _ _ _ _ _ _ => 14
  | .rd _ _ => 21
  | .rdc _ _ => 21
  | .rdi _ _ => 21
  | .waitf _ _ _ => 16
  | .rload _ _ _ _ => 11
  | .wr _ _ => 21
  | .wrm _ _ _ => 16
  | .wrf _ _ _ => 16
  | .rsave _ _ _ _ => 11
  | .powerLoss => 0
  | .pageMigrationComplete _ => 0
  | .effHourlySample => 0
  | .otherHostTierWrite _ _ => 0
  | .cnpReceive _ _ => 0
  | .pfcPauseReceive _ _ _ => 0

/-- The syllable of an instruction, fields and fixed bits from bit 31 down (spec/12_opcode_map.md; the events of
the table have no encoding). -/
def encode : Instr → Lane
  | .bundleIssue => 0#32
  | .resultLanding => 0#32
  | .hitchLaneArrival => 0#32
  | .engineLineWrite => 0#32
  | .mtileFiring => 0#32
  | .routeLoadSwitch => 0#32
  | .rsolveAccept _ _ => 0#32
  | .rsolveSwitch _ _ => 0#32
  | .itemPost _ _ => 0#32
  | .putAcknowledgement _ _ _ => 0#32
  | .fenceScTick _ _ => 0#32
  | .viewMergeTimeout _ => 0#32
  | .trapEntry _ _ _ _ => 0#32
  | .fatalContextError _ _ => 0#32
  | .preemptRequest _ _ => 0#32
  | .sliceExpiry _ _ _ => 0#32
  | .pdeadExpiry _ _ _ => 0#32
  | .softYield => 0#32
  | .huskSave => 0#32
  | .huskResume _ _ => 0#32
  | .stallWatchdogExpiry => 0#32
  | .lotteryDraw => 0#32
  | .launchDispatchBegin _ _ => 0#32
  | .thrashHoldExpiry _ => 0#32
  | .pageExpansion _ => 0#32
  | .unitRetire _ _ => 0#32
  | .launchComplete _ _ => 0#32
  | .qtailWrite _ _ => 0#32
  | .cancelWrite _ => 0#32
  | .sctlWrite _ => 0#32
  | .lseedWrite _ => 0#32
  | .nmodeWrite _ => 0#32
  | .modeChangeComplete => 0#32
  | .fbflushWrite _ => 0#32
  | .fbdenyWrite _ => 0#32
  | .refreshHeartbeat _ => 0#32
  | .refreshTakeover _ => 0#32
  | .stkrefRelWrite _ _ => 0#32
  | .packageBeat => 0#32
  | .podBeatTake _ _ => 0#32
  | .podBeatLost => 0#32
  | .rdmaWriteDva _ _ => 0#32
  | .rdmaWriteBankLine _ _ => 0#32
  | .rdmaWriteMailbox _ _ => 0#32
  | .rdmaWriteRegister _ _ => 0#32
  | .rdmaReadDva _ _ => 0#32
  | .rdmaReadRegister _ _ => 0#32
  | .rdmaFetchAdd _ _ => 0#32
  | .rdmaCompareSwap _ _ _ => 0#32
  | .rdmaUnsupportedRequest _ => 0#32
  | .putArrival _ => 0#32
  | .remoteDcopyRequest _ => 0#32
  | .flitReceive _ _ _ => 0#32
  | .linkNakReceive _ _ _ => 0#32
  | .lanesetRelockTimeout _ _ _ => 0#32
  | .correctionWindowEnd => 0#32
  | .remapReceive _ _ _ _ _ => 0#32
  | .remapSwitch _ _ _ _ => 0#32
  | .ageingRefresh => 0#32
  | .pctlQreq _ => 0#32
  | .pctlDownreq _ => 0#32
  | .pctlQclr _ => 0#32
  | .pctlRelock _ => 0#32
  | .lightTest _ => 0#32
  | .portRelockTimeout _ _ => 0#32
  | .quiesceTimeout _ _ => 0#32
  | .drainMarkerReceive _ _ => 0#32
  | .lanesetLock _ _ _ _ => 0#32
  | .peerStateReport _ _ => 0#32
  | .slotBoundary _ => 0#32
  | .calendarSwitch _ => 0#32
  | .cswWrite _ _ => 0#32
  | .shadowCalendarWrite _ _ _ => 0#32
  | .snapTake _ => 0#32
  | .frmapWrite _ _ => 0#32
  | .routeTableWrite _ _ => 0#32
  | .holdTimeout _ _ _ => 0#32
  | .fevtfRead => 0#32
  | .fevtmRead => 0#32
  | .hevt0Read => 0#32
  | .rcCounterRead _ => 0#32
  | .registerWrite _ _ => 0#32
  | .mgmtRead _ => 0#32
  | .mgmtWrite _ => 0#32
  | .mgmtWarm _ => 0#32
  | .mgmtCold _ => 0#32
  | .mgmtAttest _ => 0#32
  | .mgmtFlash _ => 0#32
  | .mgmtSvn _ => 0#32
  | .mgmtKey _ => 0#32
  | .mgmtUnknownOp _ => 0#32
  | .coldReset => 0#32
  | .warmReset => 0#32
  | .srstatWarmWrite => 0#32
  | .srstatClrWrite => 0#32
  | .thermalGateBegin _ => 0#32
  | .thermalGateEnd _ => 0#32
  | .thermalShutdown => 0#32
  | .powerCapEngage _ => 0#32
  | .powerCapRelease _ => 0#32
  | .pcapWrite _ => 0#32
  | .islandStateRequest _ _ => 0#32
  | .networkSyllable r w s t p a e => (r ++ w ++ s ++ t ++ p ++ 0#2 ++ a ++ e : BitVec 32)
  | .tree h w t x => (1#4 ++ h ++ w ++ t ++ x ++ 0#14 : BitVec 32)
  | .jump h w t x i => (2#4 ++ h ++ w ++ t ++ x ++ i : BitVec 32)
  | .call h w t x i => (3#4 ++ h ++ w ++ t ++ x ++ i : BitVec 32)
  | .ret h w t x => (4#4 ++ h ++ w ++ t ++ x ++ 0#14 : BitVec 32)
  | .loop h w t x l n g y => (5#4 ++ h ++ w ++ t ++ x ++ l ++ n ++ g ++ y : BitVec 32)
  | .trap h w t x c => (6#4 ++ h ++ w ++ t ++ x ++ c : BitVec 32)
  | .yield h w t x => (7#4 ++ h ++ w ++ t ++ x ++ 0#14 : BitVec 32)
  | .exit h w t x => (8#4 ++ h ++ w ++ t ++ x ++ 0#14 : BitVec 32)
  | .rtt h w t x => (9#4 ++ h ++ w ++ t ++ x ++ 0#14 : BitVec 32)
  | .bsel h w t x k s => (10#4 ++ h ++ w ++ t ++ x ++ 0#5 ++ k ++ s : BitVec 32)
  | .brk h w t x c => (11#4 ++ h ++ w ++ t ++ x ++ c : BitVec 32)
  | .add d a b => (1#6 ++ d ++ a ++ b ++ 0#11 : BitVec 32)
  | .sub d a b => (2#6 ++ d ++ a ++ b ++ 0#11 : BitVec 32)
  | .and d a b => (3#6 ++ d ++ a ++ b ++ 0#11 : BitVec 32)
  | .or d a b => (4#6 ++ d ++ a ++ b ++ 0#11 : BitVec 32)
  | .xor d a b => (5#6 ++ d ++ a ++ b ++ 0#11 : BitVec 32)
  | .andn d a b => (6#6 ++ d ++ a ++ b ++ 0#11 : BitVec 32)
  | .shl d a b => (7#6 ++ d ++ a ++ b ++ 0#11 : BitVec 32)
  | .shr d a b => (8#6 ++ d ++ a ++ b ++ 0#11 : BitVec 32)
  | .sar d a b => (9#6 ++ d ++ a ++ b ++ 0#11 : BitVec 32)
  | .min d a b => (10#6 ++ d ++ a ++ b ++ 0#11 : BitVec 32)
  | .max d a b => (11#6 ++ d ++ a ++ b ++ 0#11 : BitVec 32)
  | .minu d a b => (12#6 ++ d ++ a ++ b ++ 0#11 : BitVec 32)
  | .maxu d a b => (13#6 ++ d ++ a ++ b ++ 0#11 : BitVec 32)
  | .clz d a => (14#6 ++ d ++ a ++ 0#16 : BitVec 32)
  | .popc d a => (15#6 ++ d ++ a ++ 0#16 : BitVec 32)
  | .mul d a b => (16#6 ++ d ++ a ++ b ++ 0#11 : BitVec 32)
  | .mulh d a b => (17#6 ++ d ++ a ++ b ++ 0#11 : BitVec 32)
  | .mulhu d a b => (18#6 ++ d ++ a ++ b ++ 0#11 : BitVec 32)
  | .sel d a b c => (19#6 ++ d ++ a ++ b ++ c ++ 0#7 : BitVec 32)
  | .addi d a i => (24#6 ++ d ++ a ++ i : BitVec 32)
  | .andi d a i => (25#6 ++ d ++ a ++ i : BitVec 32)
  | .ori d a i => (26#6 ++ d ++ a ++ i : BitVec 32)
  | .xori d a i => (27#6 ++ d ++ a ++ i : BitVec 32)
  | .shli d a i => (28#6 ++ d ++ a ++ 0#10 ++ i : BitVec 32)
  | .shri d a i => (29#6 ++ d ++ a ++ 0#10 ++ i : BitVec 32)
  | .sari d a i => (30#6 ++ d ++ a ++ 0#10 ++ i : BitVec 32)
  | .liw d e => (32#6 ++ d ++ 0#19 ++ e : BitVec 32)
  | .lid d e => (33#6 ++ d ++ 0#19 ++ e ++ 0#1 : BitVec 32)
  | .cmp c a k b => (34#6 ++ c ++ a ++ 0#1 ++ k ++ b ++ 0#8 : BitVec 32)
  | .cmpi c a k i => (35#6 ++ c ++ a ++ 0#1 ++ k ++ i : BitVec 32)
  | .cset d a b l => (36#6 ++ d ++ a ++ b ++ l ++ 0#10 : BitVec 32)
  | .ld d a z s o => (40#6 ++ d ++ a ++ z ++ s ++ o : BitVec 32)
  | .st s a z o => (41#6 ++ s ++ a ++ z ++ 0#1 ++ o : BitVec 32)
  | .mbr d m => (42#6 ++ d ++ m ++ 0#17 : BitVec 32)
  | .mbw s m => (43#6 ++ s ++ m ++ 0#17 : BitVec 32)
  | .srr d n => (44#6 ++ d ++ n ++ 0#9 : BitVec 32)
  | .srw s n => (45#6 ++ s ++ n ++ 0#9 : BitVec 32)
  | .srset s n => (46#6 ++ s ++ n ++ 0#9 : BitVec 32)
  | .srclr s n => (47#6 ++ s ++ n ++ 0#9 : BitVec 32)
  | .mvx d c v l => (48#6 ++ d ++ c ++ v ++ l ++ 0#8 : BitVec 32)
  | .mxv s c v l => (49#6 ++ s ++ c ++ v ++ l ++ 0#8 : BitVec 32)
  | .agb g a => (50#6 ++ g ++ a ++ 0#15 : BitVec 32)
  | .agl g l b s => (51#6 ++ g ++ l ++ b ++ s ++ 0#7 : BitVec 32)
  | .agp g a => (52#6 ++ g ++ a ++ 0#15 : BitVec 32)
  | .agr g => (53#6 ++ g ++ 0#20 : BitVec 32)
  | .vadd w d a b k r f => (1#6 ++ w ++ d ++ a ++ b ++ k ++ r ++ f : BitVec 32)
  | .vsub w d a b k r f => (2#6 ++ w ++ d ++ a ++ b ++ k ++ r ++ f : BitVec 32)
  | .vmul w d a b k r f => (3#6 ++ w ++ d ++ a ++ b ++ k ++ r ++ f : BitVec 32)
  | .vmax w d a b k f => (4#6 ++ w ++ d ++ a ++ b ++ k ++ 0#3 ++ f : BitVec 32)
  | .vmin w d a b k f => (5#6 ++ w ++ d ++ a ++ b ++ k ++ 0#3 ++ f : BitVec 32)
  | .vabs w d a k f => (6#6 ++ w ++ d ++ a ++ 0#5 ++ k ++ 0#3 ++ f : BitVec 32)
  | .vneg w d a k f => (7#6 ++ w ++ d ++ a ++ 0#5 ++ k ++ 0#3 ++ f : BitVec 32)
  | .vfcmp w d a b k c f => (8#6 ++ w ++ 0#2 ++ d ++ a ++ b ++ k ++ c ++ f : BitVec 32)
  | .viadd w d a b k s f => (16#6 ++ w ++ d ++ a ++ b ++ k ++ 0#2 ++ s ++ f : BitVec 32)
  | .visub w d a b k s f => (17#6 ++ w ++ d ++ a ++ b ++ k ++ 0#2 ++ s ++ f : BitVec 32)
  | .vimul w d a b k s f => (18#6 ++ w ++ d ++ a ++ b ++ k ++ 0#2 ++ s ++ f : BitVec 32)
  | .vimulh w d a b k f => (19#6 ++ w ++ d ++ a ++ b ++ k ++ 0#3 ++ f : BitVec 32)
  | .vimax w d a b k f => (20#6 ++ w ++ d ++ a ++ b ++ k ++ 0#3 ++ f : BitVec 32)
  | .vimin w d a b k f => (21#6 ++ w ++ d ++ a ++ b ++ k ++ 0#3 ++ f : BitVec 32)
  | .vshl w d a b k s f => (22#6 ++ w ++ d ++ a ++ b ++ k ++ 0#2 ++ s ++ f : BitVec 32)
  | .vshr w d a b k f => (23#6 ++ w ++ d ++ a ++ b ++ k ++ 0#3 ++ f : BitVec 32)
  | .vsar w d a b k f => (24#6 ++ w ++ d ++ a ++ b ++ k ++ 0#3 ++ f : BitVec 32)
  | .vicmp w d a b k c f => (25#6 ++ w ++ 0#2 ++ d ++ a ++ b ++ k ++ c ++ f : BitVec 32)
  | .viabs w d a k s f => (26#6 ++ w ++ d ++ a ++ 0#5 ++ k ++ 0#2 ++ s ++ f : BitVec 32)
  | .vand w d a b k => (32#6 ++ w ++ d ++ a ++ b ++ k ++ 0#6 : BitVec 32)
  | .vor w d a b k => (33#6 ++ w ++ d ++ a ++ b ++ k ++ 0#6 : BitVec 32)
  | .vxor w d a b k => (34#6 ++ w ++ d ++ a ++ b ++ k ++ 0#6 : BitVec 32)
  | .vandn w d a b k => (35#6 ++ w ++ d ++ a ++ b ++ k ++ 0#6 : BitVec 32)
  | .vsel w d a b k => (36#6 ++ w ++ d ++ a ++ b ++ k ++ 0#6 : BitVec 32)
  | .vmov w d a k => (37#6 ++ w ++ d ++ a ++ 0#5 ++ k ++ 0#6 : BitVec 32)
  | .vli w d k e => (38#6 ++ w ++ d ++ 0#10 ++ k ++ 0#4 ++ e : BitVec 32)
  | .vkop w d a b l => (39#6 ++ w ++ 0#2 ++ d ++ 0#2 ++ a ++ 0#2 ++ b ++ 0#5 ++ l : BitVec 32)
  | .vpopc w d a k f => (40#6 ++ w ++ d ++ a ++ 0#5 ++ k ++ 0#3 ++ f : BitVec 32)
  | .vclz w d a k f => (41#6 ++ w ++ d ++ a ++ 0#5 ++ k ++ 0#3 ++ f : BitVec 32)
  | .vlcnt w d k => (42#6 ++ w ++ d ++ 0#10 ++ k ++ 0#6 : BitVec 32)
  | .vcvt w d a t s r u p => (43#6 ++ w ++ d ++ a ++ t ++ s ++ r ++ u ++ p : BitVec 32)
  | .vmxp w d a t s r p => (44#6 ++ w ++ d ++ a ++ t ++ s ++ r ++ 0#1 ++ p : BitVec 32)
  | .vmxs w d a t s => (45#6 ++ w ++ d ++ a ++ t ++ s ++ 0#6 : BitVec 32)
  | .vmxu w d a t s r u p => (46#6 ++ w ++ d ++ a ++ t ++ s ++ r ++ u ++ p : BitVec 32)
  | .vfma f w d a b c r u => (6#3 ++ f ++ w ++ d ++ a ++ b ++ c ++ r ++ u : BitVec 32)
  | .vexp2 d a => (1#6 ++ d ++ a ++ 0#20 : BitVec 32)
  | .vlog2 d a => (2#6 ++ d ++ a ++ 0#20 : BitVec 32)
  | .vrcpe d a => (3#6 ++ d ++ a ++ 0#20 : BitVec 32)
  | .vrsqe d a => (4#6 ++ d ++ a ++ 0#20 : BitVec 32)
  | .vrcps d a b r => (5#6 ++ d ++ a ++ b ++ r ++ 0#14 : BitVec 32)
  | .vrsqs d a b r => (6#6 ++ d ++ a ++ b ++ r ++ 0#14 : BitVec 32)
  | .vsqrt d a r => (7#6 ++ d ++ a ++ 0#3 ++ r ++ 0#14 : BitVec 32)
  | .ftbl d a r f t => (8#6 ++ d ++ a ++ 0#3 ++ r ++ f ++ t ++ 0#4 : BitVec 32)
  | .ftld a t p => (72#9 ++ a ++ 0#10 ++ t ++ p : BitVec 32)
  | .fmov d a => (10#6 ++ d ++ a ++ 0#20 : BitVec 32)
  | .psum f r c d => (16#6 ++ f ++ r ++ c ++ 0#3 ++ d ++ 0#12 : BitVec 32)
  | .pmax f c d => (17#6 ++ f ++ 0#3 ++ c ++ 0#3 ++ d ++ 0#12 : BitVec 32)
  | .pmin f c d => (18#6 ++ f ++ 0#3 ++ c ++ 0#3 ++ d ++ 0#12 : BitVec 32)
  | .psums f r c s d => (19#6 ++ f ++ r ++ c ++ s ++ d ++ 0#12 : BitVec 32)
  | .pmaxs f c s d => (20#6 ++ f ++ 0#3 ++ c ++ s ++ d ++ 0#12 : BitVec 32)
  | .pmins f c s d => (21#6 ++ f ++ 0#3 ++ c ++ s ++ d ++ 0#12 : BitVec 32)
  | .cmpct c d => (2888#13 ++ c ++ 0#3 ++ d ++ 0#12 : BitVec 32)
  | .mfire b z => (1#6 ++ b ++ z ++ 0#17 : BitVec 32)
  | .mtile d t c => (2#6 ++ d ++ t ++ c ++ 0#16 : BitVec 32)
  | .mfmt a b m => (3#6 ++ a ++ b ++ m ++ 0#17 : BitVec 32)
  | .mgeom a => (4#6 ++ a ++ 0#21 : BitVec 32)
  | .mclr b n => (5#6 ++ b ++ n ++ 0#10 : BitVec 32)
  | .mdrn b g c => (6#6 ++ b ++ g ++ c ++ 0#14 : BitVec 32)
  | .mpre b g => (7#6 ++ b ++ g ++ 0#15 : BitVec 32)
  | .dcopyLin d t a r s i => (1#6 ++ d ++ t ++ a ++ r ++ s ++ 0#6 ++ i ++ 0#3 : BitVec 32)
  | .dcopyStr d t a r s i => (1#6 ++ d ++ t ++ a ++ r ++ s ++ 0#6 ++ i ++ 1#3 : BitVec 32)
  | .dcopyNest d t a r s i => (1#6 ++ d ++ t ++ a ++ r ++ s ++ 0#6 ++ i ++ 2#3 : BitVec 32)
  | .dcopyPad d t a r s i => (1#6 ++ d ++ t ++ a ++ r ++ s ++ 0#6 ++ i ++ 3#3 : BitVec 32)
  | .dcopyView d t a r s i => (1#6 ++ d ++ t ++ a ++ r ++ s ++ 0#6 ++ i ++ 4#3 : BitVec 32)
  | .dcopyRem d t a r s i => (1#6 ++ d ++ t ++ a ++ r ++ s ++ 0#6 ++ i ++ 5#3 : BitVec 32)
  | .dcopyHost d t a r s i => (1#6 ++ d ++ t ++ a ++ r ++ s ++ 0#6 ++ i ++ 6#3 : BitVec 32)
  | .put d t a r s => (2#6 ++ d ++ t ++ a ++ r ++ s ++ 0#11 : BitVec 32)
  | .hgath d t a r s m => (3#6 ++ d ++ t ++ a ++ r ++ s ++ 0#9 ++ m : BitVec 32)
  | .hredSum d t a r s u f => (4#6 ++ d ++ t ++ a ++ r ++ s ++ 0#2 ++ u ++ f ++ 0#2 : BitVec 32)
  | .hredMax d t a r s u f => (4#6 ++ d ++ t ++ a ++ r ++ s ++ 0#2 ++ u ++ f ++ 1#2 : BitVec 32)
  | .hredMin d t a r s u f => (4#6 ++ d ++ t ++ a ++ r ++ s ++ 0#2 ++ u ++ f ++ 2#2 : BitVec 32)
  | .hcvt d t a r s => (5#6 ++ d ++ t ++ a ++ r ++ s ++ 0#11 : BitVec 32)
  | .hatomAdd d t a r s w => (6#6 ++ d ++ t ++ a ++ r ++ s ++ 0#10 ++ w : BitVec 32)
  | .hatomMax d t a r s w => (6#6 ++ d ++ t ++ a ++ r ++ s ++ 1#10 ++ w : BitVec 32)
  | .hatomMin d t a r s w => (6#6 ++ d ++ t ++ a ++ r ++ s ++ 2#10 ++ w : BitVec 32)
  | .hatomXchg d t a r s w => (6#6 ++ d ++ t ++ a ++ r ++ s ++ 3#10 ++ w : BitVec 32)
  | .hatomCas d t a r s w => (6#6 ++ d ++ t ++ a ++ r ++ s ++ 4#10 ++ w : BitVec 32)
  | .hatomAddFp32 d t a r s => (6#6 ++ d ++ t ++ a ++ r ++ s ++ 10#11 : BitVec 32)
  | .hatomMaxFp32 d t a r s => (6#6 ++ d ++ t ++ a ++ r ++ s ++ 11#11 : BitVec 32)
  | .hatomMinFp32 d t a r s => (6#6 ++ d ++ t ++ a ++ r ++ s ++ 12#11 : BitVec 32)
  | .probeUnpin d t a r s => (7#6 ++ d ++ t ++ a ++ r ++ s ++ 0#11 : BitVec 32)
  | .probeR d t a r s => (7#6 ++ d ++ t ++ a ++ r ++ s ++ 1#11 : BitVec 32)
  | .probeW d t a r s => (7#6 ++ d ++ t ++ a ++ r ++ s ++ 2#11 : BitVec 32)
  | .probeRw d t a r s => (7#6 ++ d ++ t ++ a ++ r ++ s ++ 3#11 : BitVec 32)
  | .fence t s => (256#11 ++ t ++ 0#2 ++ s ++ 0#11 : BitVec 32)
  | .fenceSc t s => (288#11 ++ t ++ 0#2 ++ s ++ 0#11 : BitVec 32)
  | .vsync t => (320#11 ++ t ++ 0#17 : BitVec 32)
  | .tadv d t => (11#6 ++ d ++ t ++ 0#17 : BitVec 32)
  | .tsetSet d t => (12#6 ++ d ++ t ++ 0#17 : BitVec 32)
  | .tsetSeterr d t => (12#6 ++ d ++ t ++ 1#17 : BitVec 32)
  | .tsetClrerr d t => (12#6 ++ d ++ t ++ 2#17 : BitVec 32)
  | .enq d t a r s => (13#6 ++ d ++ t ++ a ++ r ++ s ++ 0#11 : BitVec 32)
  | .cload d t a r s => (14#6 ++ d ++ t ++ a ++ r ++ s ++ 0#11 : BitVec 32)
  | .rsolve d t a r s k m => (15#6 ++ d ++ t ++ a ++ r ++ s ++ 0#8 ++ k ++ m : BitVec 32)
  | .rd b x => (1#6 ++ b ++ x ++ 0#15 : BitVec 32)
  | .rdc b x => (2#6 ++ b ++ x ++ 0#15 : BitVec 32)
  | .rdi b x => (3#6 ++ b ++ x ++ 0#15 : BitVec 32)
  | .waitf b x n => (4#6 ++ b ++ x ++ n ++ 0#10 : BitVec 32)
  | .rload r k b x => (5#6 ++ r ++ k ++ b ++ x ++ 0#5 : BitVec 32)
  | .wr b x => (1#6 ++ b ++ x ++ 0#15 : BitVec 32)
  | .wrm b x m => (2#6 ++ b ++ x ++ m ++ 0#10 : BitVec 32)
  | .wrf b x n => (3#6 ++ b ++ x ++ n ++ 0#10 : BitVec 32)
  | .rsave r k b x => (4#6 ++ r ++ k ++ b ++ x ++ 0#5 : BitVec 32)
  | .powerLoss => 0#32
  | .pageMigrationComplete _ => 0#32
  | .effHourlySample => 0#32
  | .otherHostTierWrite _ _ => 0#32
  | .cnpReceive _ _ => 0#32
  | .pfcPauseReceive _ _ _ => 0#32

/-- The classes in the order in which a word without a slot is tried (log 8). -/
def tableOrder : List Cls := [.special, .matrix, .read, .write, .async, .scalar, .vector, .header, .network]

/-- Of two readings of a word, the one whose row fixes more bits; the first of equals (log 8). -/
def moreFixed (a b : Option Instr) : Option Instr :=
  match a, b with
  | some i, some j => if i.fixedBits < j.fixedBits then some j else some i
  | some i, none => some i
  | none, o => o

/-- The instruction a word of the opcode table encodes. A word of this table names its row only together with its
slot; without one, the reading whose row fixes the most bits is taken (DESIGN CHOICE, safe, log 8). -/
def decodeTableWord (nbits w : Nat) : Option Instr :=
  if nbits = 32 then
    tableOrder.foldl (fun o k => moreFixed o (decodeCls k (BitVec.ofNat 32 w))) none
  else none

/-- A slot of a class (the first of its slots). -/
def Cls.slot : Cls → Slot
  | .header => .h | .network => .n | .scalar => .s0 | .vector => .va | .special => .f | .matrix => .mx
  | .async => .ax | .read => .m0 | .write => .m1

end Sys2Proof
end

