-- ==== Sys2Proof/Machine/State.lean ====
section
/-! DEFINITION. The state of the Goreth package as plain data, and State.reset. Each field's docstring names the rule of
spec/ that gives it; a field marked "model" is the model's own (notes/assumptions 3 to 6). -/

namespace Sys2Proof.Machine

open Sys2Proof

/-- The three vector clusters (R26). -/
inductive Cl where
  | a | b | c
  deriving DecidableEq, Repr

/-- Model: what an operation needs to know about the bundle that carries it: the master that issued it, the coach that
executes it, its slot, the issue order, the bundle count for MFMT (R281), the bundle's index, its extension syllables
E0 to E3 (E0 lowest) and whether the handler issued it. -/
structure Frame where
  master : BitVec 3
  coach  : BitVec 3
  slot   : Slot
  seq    : Nat
  bno    : Nat
  index  : Nat
  ext    : BitVec 128
  hnd    : Bool
  /-- the master's scalar registers at issue, for the SB port of a skewed N slot (R383), or the members that a PROBE's
  binding names (R295); empty when they are read live -/
  sb     : List Word
  /-- whether the slot executes after its bundle's issue with its reads under audit (R183) -/
  audit  : Bool
  deriving DecidableEq, Repr

/-- What an address-generator setup writes (R236). -/
inductive AgPart where
  | base (v : BitVec 14)
  | level (l : Nat) (bound : BitVec 16) (stride : BitVec 14)
  | pad (v : BitVec 28)
  | zero
  /-- a step of a level by an MTILE's route, after the routes of its ic (R165, R292) -/
  | step (k : Nat)
  deriving DecidableEq, Repr

/-- Where a fixed-latency result lands (the kinds of R324). Masks are bit masks of the value. -/
inductive Dest where
  /-- scalar register (kind 0) -/
  | xr (r : BitVec 5) (v : Word)
  /-- condition bit (kind 1) -/
  | cr (r : BitVec 4) (v : Bool)
  /-- scalar-store bytes (kind 2) -/
  | ss (off n : Nat) (v : Word)
  /-- mailbox (kind 3) -/
  | mb (i : BitVec 4) (v : Word)
  /-- vector register (kind 4) -/
  | vr (cl : Cl) (r : BitVec 5) (mask v : Line)
  /-- lane mask (kind 5) -/
  | kr (cl : Cl) (r : BitVec 3) (mask v : BitVec 64)
  /-- staging register (kind 6) -/
  | fs (r : BitVec 3) (v : Line)
  /-- read-network destination port (kind 7) -/
  | rin (port : BitVec 6) (mask v : Line)
  /-- write-network source port: VOA to SO, AD0 to AD7 (kind 8) -/
  | oport (port : BitVec 6) (mask v : Line)
  /-- bank lanes of one line, with the number of the source port, 64 for an RSAVE (kind 9, R252) -/
  | bank (b : BitVec 6) (line : BitVec 14) (mask v : Line) (port : Nat)
  /-- full bits of `n` lines from `line` (kind 10) -/
  | full (b : BitVec 6) (line : BitVec 14) (n : Nat)
  /-- rows of an accumulator block: row, element mask, value; `fired` is the consuming ic of an MFIRE (kind 11) -/
  | acc (blk : BitVec 8) (rows : List (BitVec 6 × Line × Line)) (fired : Option Nat)
  /-- system register (kind 12) -/
  | sy (n : BitVec 12) (v : Word)
  /-- clearing of one full bit by RDC (R251) -/
  | clr (b : BitVec 6) (line : BitVec 14)
  /-- address-generator setup (R238) -/
  | ag (g : BitVec 6) (p : AgPart)
  /-- one part of a special-function table (R273) -/
  | tbl (i : Nat) (v : Line)
  /-- lanes on a hitch-out port (R175) -/
  | ho (k : BitVec 2) (mask v : Line)
  deriving DecidableEq, Repr

/-- A fixed-latency result on its way: the ic in which it lands, the order of its bundle and its syllable (R160), the
flags it raises in sy.fflag (R95), whether it was set aside and put back (R326), whether an MTILE's firing or its
route made it (R294), and its destination. -/
structure Result where
  due   : Nat
  seq   : Nat
  syl   : Nat
  flags : BitVec 40
  again : Bool
  tile  : Bool
  dest  : Dest
  deriving DecidableEq, Repr

/-- An operation issued and not yet executed, with the path its bundle took, 0 without a TREE (R36, R325). -/
structure SkewOp where
  due   : Nat
  path  : Nat
  frame : Frame
  op    : Instr
  deriving DecidableEq, Repr

/-- Lanes on their way to an HI port (R13, R325). -/
structure HitchLane where
  due  : Nat
  seq  : Nat
  port : BitVec 2
  mask : Line
  v    : Line
  deriving DecidableEq, Repr

/-- An active loop level (R172, R218): first and last bundle of the body, iterations left, yield-safe back-edge. -/
structure LoopLevel where
  first : Nat
  last  : Nat
  left  : Nat
  ys    : Bool
  deriving DecidableEq, Repr

/-- An address generator (R165, R236, R237). -/
structure AddrGen where
  base   : BitVec 14
  bound  : Vector (BitVec 16) 6
  stride : Vector (BitVec 14) 6
  ctr    : Vector (BitVec 16) 6
  pad    : BitVec 28
  deriving DecidableEq, Repr

/-- A token: 24-bit count and error bit (R177). -/
structure Token where
  count : BitVec 24
  err   : Bool
  deriving DecidableEq, Repr

/-- What happens to a token at the end of an ic (R179): a TSET (count unless kept, error bit) or an addition. -/
inductive TokOp where
  | set (t : BitVec 6) (count : Option (BitVec 24)) (err : Bool)
  | add (t : BitVec 6) (n : BitVec 24) (err : Bool)
  deriving DecidableEq, Repr

/-- A vector cluster: registers 0 to 27, masks, seed and lane generators (R26, R92). -/
structure Cluster where
  v    : Vector Line 28
  k    : Vector (BitVec 64) 8
  seed : BitVec 32
  rng  : Vector (BitVec 32) 64
  deriving DecidableEq, Repr

/-- The route loader's operations (R243): `load` for RLOAD; `start` the ic at which it starts, `i` the next line. -/
structure LoadOp where
  load  : Bool
  write : Bool
  route : BitVec 9
  bank  : BitVec 6
  line  : BitVec 14
  exec  : Nat
  start : Option Nat
  i     : Nat
  img   : List Line
  seq   : Nat
  deriving DecidableEq, Repr

/-- A route entry that switches at an ic (R243, R244, R248), with the order of an RLOAD's bundle: `item` names the RSOLVE, with its
out-of-range mark. -/
structure RouteSwitch where
  due   : Nat
  seq   : Nat
  write : Bool
  route : BitVec 9
  img   : List Line
  item  : Option Nat
  cb    : BitVec 4
  oob   : Bool
  deriving DecidableEq, Repr

/-- An engine-path line write waiting for its bank's port (R17): `item` the item it serves, as its context's master and
number, with the group of pieces (for an RDMA WRITE its queue pair) and how many pieces the write completes; `put` the PUT line
to acknowledge. `early` are the lanes of an item's write that reads see before it is served (R182). -/
structure EngWrite where
  bank   : BitVec 6
  line   : BitVec 14
  mask   : Line
  v      : Line
  port   : Nat
  full   : Bool
  item   : Option (BitVec 3 × Nat)
  key    : Nat
  n      : Nat
  put    : Option PutLine
  early  : BitVec 64
  deriving DecidableEq, Repr

/-- An active MTILE on a member (R292): `base` is the ic of firing 0's route, `next` the next firing, `fired` the
firings whose route has executed, with their consuming ic; `stopped` while the context is frozen (R294). -/
structure Tile where
  item    : Nat
  seq     : Nat
  blk0    : Nat
  m       : Nat
  n       : Nat
  k       : Nat
  ord     : Bool
  padsrc  : BitVec 4
  list    : List (BitVec 16)
  clr     : Bool
  latch   : BitVec 9
  base    : Nat
  next    : Nat
  fired   : List (Nat × Nat)
  stopped : Bool
  deriving DecidableEq, Repr

/-- How far an item has come (R297, R337). -/
inductive ItemPhase where
  /-- its acquire and the first part of its release are not performed -/
  | waiting
  /-- pieces are being performed -/
  | running
  /-- every piece is done; the second part of the release is due -/
  | closing
  /-- a PROBE parked on a recorded fault (R110) -/
  | fault
  /-- a remote item that can use no port (R355) -/
  | holding
  /-- an FENCE.SC that has drained, at this time (R148) -/
  | drained (tick : Nat)
  /-- failed with this status (R297) -/
  | failed
  /-- ready to post -/
  | done
  deriving DecidableEq, Repr

/-- An item that has been issued and has not posted (R297). -/
structure Item where
  id      : Nat
  major   : BitVec 6
  sub     : BitVec 11
  tok     : BitVec 6
  acq     : Bool
  rel     : Bool
  scope   : BitVec 4
  desc    : List Word
  coach   : BitVec 3
  member  : BitVec 2
  targets : List (BitVec 3)
  hnd     : Bool
  phase   : ItemPhase
  parked  : Bool
  acqDone : Bool
  relDone : Bool
  begun   : Bool
  todo    : List Nat
  out     : List Nat
  pieces  : Nat
  wrote   : Bool
  status  : BitVec 8
  lasting : Bool
  subc    : BitVec 8
  addr    : BitVec 56
  flags   : BitVec 6
  oob     : Bool
  /-- the share of a port's send buffer that a remote item has taken: port and flits (R355) -/
  allow   : Option (BitVec 3 × Nat)
  aux     : List Word
  stamp   : Nat
  deriving DecidableEq, Repr

/-- A pinned page of a context (R108): DVA of the page, log2 of its size, kinds pinned, leaf kind and target. -/
structure Pin where
  ctx  : BitVec 12
  page : Nat
  size : Nat
  rd   : Bool
  wr   : Bool
  kind : BitVec 3
  tgt  : BitVec 56
  deriving DecidableEq, Repr

/-- A pending cause (R322): code, member, argument, and the ic in which it arose. -/
structure Pending where
  cause  : BitVec 8
  member : BitVec 2
  arg    : Word
  since  : Nat
  hnd    : Bool
  deriving DecidableEq, Repr

/-- The unit that holds a coach (R57, R59, R311): context number, gang size code, member, master, queue and slot of
its launch, linear index, job, reservation, handler, image, priority, watchdog; `ready` once its first bundle may
issue, `since` the time of its dispatch or resume, `cload` once a CLOAD of it has posted (R339). -/
structure Unit where
  ctx    : BitVec 12
  gsize  : BitVec 2
  member : BitVec 2
  master : BitVec 3
  queue  : BitVec 6
  slot   : BitVec 32
  lin    : Nat
  job    : BitVec 8
  bmask  : BitVec 48
  accb   : Nat
  rrd    : Nat
  rwr    : Nat
  tokN   : Nat
  wdog   : BitVec 16
  hndl   : BitVec 14
  kaddr  : BitVec 56
  klen   : Nat
  prio   : BitVec 2
  since  : Nat
  cload  : Bool
  deriving DecidableEq, Repr

/-- What the sequencer of a coach is doing. -/
inductive Phase where
  /-- parked: no unit, or a member whose master issues (R34) -/
  | parked
  /-- issuing bundles -/
  | running
  /-- issue has stopped for a yield or a pre-emption; results are landing (R335, R331) -/
  | draining (hard : Bool)
  /-- items are parking; then the husk is written (R337) -/
  | parking (hard : Bool)
  /-- EXIT has issued (R216) -/
  | exited
  /-- the reservation is granted and the pins of the range list are made; `fault` waits for a flush (R115) -/
  | pinning (fault : Bool)
  /-- a fatal cause has ended the context; accepted lines still land (R311, R334) -/
  | dead (cause : BitVec 8)
  deriving DecidableEq, Repr

/-- A standing pre-emption request (R68, R69). -/
structure Preempt where
  hard   : Bool
  cancel : Bool
  stamp  : Nat
  deriving DecidableEq, Repr

/-- A pending write of sy.gbind or sy.gskew (R38): the value, the ic from which it governs, and the slots it
changes (bit i for the i-th of N, VA, VB, VC, F, MX, AX, M0, M1). -/
structure GangWrite where
  bind  : Option (BitVec 36)
  skew  : Option (BitVec 54)
  due   : Nat
  slots : BitVec 9
  deriving DecidableEq, Repr

/-- What a freeze sets aside (R324 to R327), with delays counted from it. `switches` are the loads of the route loader whose
entry has still to switch (kind 14), `latch` each member's format latch with its MFMTs, of which those that do not govern yet
are the kind-13 entries; `gang` and `audit` are the writes of sy.gbind, sy.gskew and sy.audit that do not govern yet (kind 12). -/
structure Held where
  queue  : List (BitVec 3 × Result)
  skew   : List SkewOp
  hitch  : List (BitVec 3 × HitchLane)
  loader : List (BitVec 3 × LoadOp)
  switches : List (BitVec 3 × RouteSwitch)
  loops  : List LoopLevel
  loopBuf : List (Nat × Bundle)
  latch  : List (BitVec 3 × BitVec 9 × List (Nat × Nat × BitVec 9))
  bno    : Nat
  gang   : List GangWrite
  audit  : List (Nat × Nat × Bool)
  deriving DecidableEq, Repr

/-- The overrides an M0 or M1 operation gives the routes of its ic (R242): bank, line, whether the line is added
to the generator's (RDI) or masked (WRM), and whether the operation's own read is audited at its execution (R183). -/
structure Override where
  bank : BitVec 6
  line : BitVec 14
  rdi  : Bool
  mask : BitVec 64
  aud  : Bool
  deriving DecidableEq, Repr

/-- The scalar side, sequencer and context registers of a coach (R31 and the rules at each field). -/
structure Seq where
  /-- x0 to x31 (R31); x0 is read through `xread` -/
  x : Vector Word 32
  /-- c0 to c15 (R31); c0 is read through `cread` -/
  c : BitVec 16
  /-- scalar store (R31) -/
  ss : Store 8
  /-- code store by bundle index (R31) -/
  code : Store 512
  /-- bundles of the code store with an uncorrectable error (R321), and with a single-bit error (R371) -/
  badCode : List Nat
  softCode : List Nat
  /-- tokens pt0 to pt63 (R177) -/
  tok : Vector Token 64
  /-- posts of this ic (R179) -/
  tokOps : List TokOp
  /-- mailboxes (R31) -/
  mb : Vector Word 16
  /-- index of the bundle next in line (R159); 16,384 past the end (R174) -/
  pc : Nat
  /-- earliest ic of the next bundle (R159) -/
  earliest : Nat
  /-- what the sequencer is doing -/
  phase : Phase
  /-- active loop levels, innermost first (R172) -/
  loops : List LoopLevel
  /-- loop buffer (R173) -/
  loopBuf : List (Nat × Bundle)
  /-- return stack, top first (R210) -/
  rstk : List (BitVec 15)
  /-- token window base (R177) -/
  winBase : BitVec 6
  /-- a move of the window base in the next ic (R211) -/
  winNext : Option (Nat × BitVec 6)
  /-- bundles issued, for MFMT (R281) and for the order of results (R160) -/
  bno : Nat
  seq : Nat
  /-- stall count in ticks (R70) -/
  stall : Nat
  /-- sy.cyc (R234) -/
  cyc : Word
  /-- the ic from which on sy.cyc counts again after a freeze (R234, R327, R338) -/
  thaw : Nat
  /-- sy.gbind, sy.gskew (R35) -/
  gbind : BitVec 36
  gskew : BitVec 54
  gang : List GangWrite
  /-- sy.hb, sy.hl, sy.ho, sy.ptr (R104) -/
  hb : BitVec 56
  hl : BitVec 56
  ho : BitVec 56
  ptr : BitVec 39
  /-- sy.unit, sy.grid (R56) -/
  unitReg : Word
  gridReg : Word
  /-- sy.audit.EN and its pending writes, the earliest first: the ic from which one governs, its bundle in the order of issue, its
  value (R183) -/
  audit : Bool
  auditNext : List (Nat × Nat × Bool)
  /-- sy.brk.EN (R214) -/
  brk : Bool
  /-- sy.padr (R221) -/
  padr : BitVec 29
  /-- sy.zs0 to sy.zs3 (R164) -/
  zs : Vector Lane 4
  /-- sy.epc.RP (R328) -/
  epc : BitVec 15
  /-- sy.ecause (R328) -/
  ecause : BitVec 11
  /-- sy.earg (R329) -/
  earg : Word
  /-- sy.estat fields INH, QLEN, DISC, LDEP, RDEP (R330) -/
  inh : Bool
  qlen : BitVec 9
  disc : Bool
  ldep : BitVec 3
  rdep : BitVec 3
  /-- sy.estat.PEND as it last stood in the handler (R330) -/
  pend : Bool
  /-- pending causes (R322) -/
  pending : List Pending
  /-- TRAP or BRK just issued: cause and code (R213, R214) -/
  postTrap : Option (BitVec 8 × BitVec 14)
  /-- standing pre-emption request (R68) -/
  preempt : Option Preempt
  /-- what a freeze has set aside (R323, R327), and the ic at which it is put back: the first of P after RTT (R332) or after
  the restore of a husk (R338) -/
  held : Option Held
  back : Option Nat
  /-- items issued and not posted, oldest first (R297) -/
  items : List Item
  /-- next item number (model) -/
  nextItem : Nat
  /-- bundles that the handler has issued (R281, R324) -/
  hbno : Nat
  /-- whether the unit has issued a bundle (R234) -/
  begun : Bool
  /-- model: mailboxes written from outside since the last landing, which an MBW that lands now does not replace (R231) -/
  mbOut : List (BitVec 4)
  deriving DecidableEq, Repr

/-- The data side of a coach. -/
structure Engine where
  /-- the three vector clusters (R26) -/
  va : Cluster
  vb : Cluster
  vc : Cluster
  /-- staging registers fs1 to fs7 at 1 to 7 (R190) -/
  fs : Vector Line 8
  /-- special-function tables, 16 parts of 64 words each, at 16·table + part (R272) -/
  tables : Store 2048
  /-- scan carry and compaction base (R278, R279) -/
  carry : Lane
  cbase : BitVec 15
  /-- sy.fflag, and the flags raised in this ic (R94, R95) -/
  fflag : BitVec 40
  raised : BitVec 40
  /-- format latch: AFMT, BFMT, MXEN; and the values of MFMTs, each with the bundle count from which it governs and its place
  in the order of issue (R280, R281, R324) -/
  latch : BitVec 9
  latchQ : List (Nat × Nat × BitVec 9)
  /-- sy.mgeom (R284) -/
  mgeom : BitVec 57
  /-- bank lines at bank·16,384 + line, the three copies of their full bits, and lanes with an uncorrectable or with a
  single-bit error (R16, R18) -/
  banks : Store 2048
  full : Store 3
  /-- model: full bits set within the last 25 ics, with the ic (R250) -/
  fullNew : List (Nat × Nat)
  badBank : List (Nat × BitVec 64)
  /-- bank lanes with an uncorrectable error that a second attempt of an item's piece clears (R300) -/
  onceBank : List (Nat × BitVec 64)
  softBank : List (Nat × BitVec 64)
  /-- accumulator rows at block·64 + row, and elements with an uncorrectable or with a single-bit error (R30, R18) -/
  acc : Store 2048
  badAcc : List (Nat × BitVec 64)
  softAcc : List (Nat × BitVec 64)
  /-- route entries as images: read line i at 50·route + i, write line i at 26·route + i (R240) -/
  routesR : Store 2048
  routesW : Store 2048
  /-- address generators (R31) -/
  ag : Vector AddrGen 64
  /-- what stands on the read network's destination ports and the write network's source ports (R21 to R23) -/
  rin : Store 2048
  oport : Store 2048
  /-- results on their way (R160), operations not yet executed (R36), lanes on their way (R13) -/
  inflight : List Result
  /-- model: rows written in the accumulator store since a freeze whose captured results have not all landed: block, row,
  elements, place in the order of issue (R294) -/
  since : List (BitVec 8 × BitVec 6 × Line × Nat)
  skew : List SkewOp
  hitch : List HitchLane
  /-- line overrides of this ic (R242) -/
  ovR : Option Override
  ovW : Option Override
  /-- route loader, switches due, last acceptance of the solver (R243, R248) -/
  loader : List LoadOp
  switches : List RouteSwitch
  solverAt : Option Nat
  /-- engine-path writes waiting, and the banks whose engine read port has been used in this ic (R17, R243) -/
  engq : List EngWrite
  readIc : List (BitVec 6)
  /-- active MTILEs (R292) -/
  tiles : List Tile
  /-- TLB (R108) -/
  tlb : List Pin
  deriving DecidableEq, Repr

/-- A coach. `ic` counts the ics its place has run (log 3); `unit` is who holds it. -/
structure Coach where
  ic : Nat
  unit : Option Unit
  sq : Seq
  en : Engine
  deriving DecidableEq, Repr

/-- A husk (R339): the unit, whether the freeze was hard, whether an uncorrectable error stands in it (R321, 0x23), when
it was saved, its members' saved state, and its bytes in the hub's area of HBM, from the husk's first on. -/
structure Husk where
  unit  : Unit
  hard  : Bool
  bad   : Bool
  order : Nat
  saved : List Coach
  image : Store 8
  deriving DecidableEq, Repr

/-- A queue's registers (R60). -/
structure QueueRegs where
  base : BitVec 56
  ctl  : BitVec 26
  head : BitVec 32
  tail : BitVec 32
  err  : BitVec 6
  deficit : BitVec 11
  deriving DecidableEq, Repr

/-- A launch submitted and not passed by QHEAD (R44, R50, R52 to R55): the GID read at submission, bytes 0–63 read at
dispatch, the range list read then (start, length, access kinds, PLACE), the next sequence number, units retired, the counts
of R53, FIRST, and how it stands. -/
structure Launch where
  queue  : BitVec 6
  slot   : BitVec 32
  gid    : BitVec 12
  job    : BitVec 8
  words  : BitVec 512
  ranges : List (Nat × Nat × BitVec 2 × Nat)
  began  : Bool
  next   : Nat
  gone   : Nat
  exited : Nat
  failed : Nat
  cancelledN : Nat
  first  : Word
  refused : Bool
  uncounted : Bool
  cancelled : Bool
  complete : Bool
  deriving DecidableEq, Repr

/-- A fault record written in the fault buffer (R111), with the item that parked, if one did. -/
structure FaultRec where
  idx  : BitVec 32
  page : Nat
  ctx  : BitVec 12
  acc  : BitVec 2
  gen  : BitVec 32
  cause : BitVec 8
  denied : Bool
  deriving DecidableEq, Repr

/-- A write through a view in coherence order (R149): its number, element place and size in bits, value, geometry (entry bits
[255:0] without VALID), context, item, when it has merged by the count of State.viewClock, and, once its unit has
retired, the launch of that unit. `prior` is what storage held before it; `direct` marks a write of storage that no buffer held. -/
structure ViewWrite where
  n     : Nat
  stack : BitVec 3
  bit   : Nat
  size  : Nat
  v     : Lane
  prior : Lane
  geom  : BitVec 256
  ctx   : BitVec 12
  item  : Nat
  merged : Option Nat
  direct : Bool
  launch : Option (BitVec 6 × BitVec 32)
  deriving DecidableEq, Repr

/-- A page on the move or in expansion (R115, R126): its name, its job, the place kept for it with log2 of its size, and the coach in
whose partition that lies, where the range asks for it. When it finishes is the environment's or a timer's. -/
structure PageMove where
  page : Nat
  job  : BitVec 8
  dest : Nat
  size : Nat
  part : Option (BitVec 3)
  deriving DecidableEq, Repr

/-- The thrash detector's record of a page (R116): move times in the window, and a hold. -/
structure PageMoves where
  page  : Nat
  times : List Nat
  held  : Bool
  deriving DecidableEq, Repr

/-- A page stored compressed in the second tier (R125): its tier address, and whether another host has written it. -/
structure Compressed where
  page : Nat
  hurt : Bool
  deriving DecidableEq, Repr

/-- Refresh ownership of a stack (R128): STKREF, heartbeats received in a row, missed in a row. -/
structure Stkref where
  owner : Bool
  takes : BitVec 15
  rel   : Bool
  beats : Nat
  missed : Nat
  deriving DecidableEq, Repr

/-- The job's translation record (R104). -/
structure JobRec where
  hb : BitVec 56
  hl : BitVec 56
  ho : BitVec 56
  root : BitVec 39
  deriving DecidableEq, Repr

/-- The hub. -/
structure Hub where
  /-- NMODE (R40) -/
  mode : BitVec 2
  modeBusy : Bool
  modeErr : Bool
  /-- level entries: graph n at n, phase n at 4,096 + n, job n at 5,120 + n (R45) -/
  levels : Store 128
  /-- queues (R60) -/
  queues : Vector QueueRegs 64
  /-- launches in the order submitted (R61) -/
  launches : List Launch
  /-- scheduler registers (R64) -/
  run : Bool
  lseed : BitVec 32
  pdead : BitVec 24
  slice : BitVec 24
  wdef : BitVec 16
  cancelBusy : Bool
  cancelErr : Bool
  /-- ordering registers (R134) -/
  pbeat : Word
  dbeat : Word
  pgroup : BitVec 16
  /-- fault buffer (R111, R112) -/
  fbbase : BitVec 39
  fbctl : BitVec 5
  fbhead : BitVec 32
  fbtail : BitVec 32
  fbgen : BitVec 32
  fbovf : Bool
  fbrecs : List FaultRec
  /-- thrash detector (R116) -/
  thn : BitVec 8
  thw : BitVec 32
  tht : BitVec 32
  thcnt : BitVec 32
  moves : List PageMoves
  moving : List PageMove
  expanding : List PageMove
  /-- compression (R125) -/
  cmpEn : Bool
  compressed : List Compressed
  /-- view tables at 1,024·job + 4·entry + word (R117, R118), and VTJOB -/
  views : Store 64
  vtjob : BitVec 8
  /-- translation records by job (R104) -/
  jobs : List (BitVec 8 × JobRec)
  /-- husks, oldest first (R59) -/
  husks : List Husk
  /-- STKREF of the stacks (R128) -/
  stkref : Vector Stkref 8
  deriving DecidableEq, Repr

/-- A physical channel of a port (R346, R349); `ont` is its on-time in ns, `window` its corrected bytes in the present window. -/
structure Channel where
  idrv : BitVec 16
  prxp : BitVec 16
  eff  : BitVec 16
  role : BitVec 2
  ont  : Nat
  eolh : BitVec 32
  csymt : BitVec 48
  window : BitVec 32
  samples : List (BitVec 16)
  deriving DecidableEq, Repr

/-- A flit that has been sent and not acknowledged (R343), with the header under which its piece waited, the number of NAKs it
has met and its piece's source as in Fabric.relay. -/
structure SentFlit where
  seq  : BitVec 16
  head : BitVec 64
  wait : BitVec 64
  msg  : LinkMsg
  naks : Nat
  src  : Nat
  deriving DecidableEq, Repr

/-- A laneset of a port (R340 to R348). `map` gives the physical channel of each logical position that has been
remapped; `switches` are remaps that wait for their switch flit (position, spare, SEQ), and `txmap` the remaps that the peer has asked
of this side as sender. `lost` stands for a laneset that went down alone and has not come up since (R344). `rxseq` is the SEQ of
the last flit received in order, `heard` of the last one whose contents were taken (log 31), and `replay` the SEQs still to be sent
again. -/
structure Laneset where
  up    : Bool
  lost  : Bool
  txseq : BitVec 16
  rxseq : BitVec 16
  heard : BitVec 16
  sent  : List SentFlit
  replay : List (BitVec 16)
  nakking : Bool
  marker : Bool
  relock : Option Nat
  /-- BEAT goes into the next flit (R356); link-control messages to send; when the next flit may begin (R341) -/
  beatDue : Bool
  ctl   : List LinkMsg
  free  : Nat
  map   : List (BitVec 6 × BitVec 7)
  switches : List (BitVec 6 × BitVec 7 × BitVec 16)
  txmap : List (BitVec 6 × BitVec 7 × BitVec 16)
  count : Vector Word 8
  snap  : Vector Word 8
  chans : List (BitVec 7 × Channel)
  /-- received power of this side's channels as the peer has last returned it (R349); none while it is not known -/
  power : List (BitVec 16)
  deriving DecidableEq, Repr

/-- An optical port (R347 to R352). -/
structure Port where
  st    : BitVec 3
  dhold : Bool
  peer  : BitVec 3
  scal  : BitVec 16
  acal  : BitVec 16
  cgen  : BitVec 16
  swBeat : Nat
  slot  : BitVec 6
  shadow : Vector (BitVec 14) 64
  active : Vector (BitVec 14) 64
  csw   : BitVec 48
  armed : Bool
  snapTake : Bool
  snapValid : Bool
  snapRgen : BitVec 32
  rgen  : BitVec 32
  spthr : BitVec 32
  auto  : Bool
  lanes : Vector Laneset 8
  stamp : Nat
  deriving DecidableEq, Repr

/-- The fabric (R340 to R361). -/
structure Fabric where
  ports : Vector Port 8
  routes : Store 20
  keys  : Vector (BitVec 45) 64
  windows : Store 64
  pkgid : BitVec 10
  bsrc  : Bool
  blost : Bool
  rhops : BitVec 3
  hto   : BitVec 32
  eolth : BitVec 16
  evF   : List Word
  evM   : List Word
  lostF : BitVec 32
  lostM : BitVec 32
  /-- pieces that wait for a port: header, contents, and source: the port they came by, 16 more once performed again, 8 for this
  package's own, 9 for its own once performed again (R344) -/
  relay : List (BitVec 64 × LinkMsg × Nat)
  /-- first halves of PUT lines that have arrived -/
  parts : List PutLine
  /-- relay credits by port number (R354) -/
  credits : List (BitVec 10 × Nat)
  lastBeat : Nat
  /-- queue pairs whose rate CNPs have lowered: port, pair, rate in Mb/s, and when the pair may send again (R359) -/
  rates : List (BitVec 2 × BitVec 10 × Nat × Nat)
  /-- paused priorities of the Ethernet ports (R359) -/
  paused : List (BitVec 2 × BitVec 1)
  deriving DecidableEq, Repr

/-- The results of a full training as flash keeps them (R129): the stack's identity, per-lane delay and Vref, check code. -/
structure Training where
  ident : Word
  lanes : List Word
  check : Word
  deriving DecidableEq, Repr

/-- The platform (R365 to R382). -/
structure Platform where
  /-- SRSTAT (R370) -/
  start : BitVec 32
  step  : BitVec 8
  unit  : BitVec 8
  safe  : Bool
  /-- whether this start is cold, and the attempt under way: none, in normal form, in fallback form (R366, R368) -/
  cold  : Bool
  form  : BitVec 2
  /-- start-record ring in flash, next index, selected index (R367, R370) -/
  ring  : Store 128
  srnext : BitVec 12
  sridx : BitVec 12
  /-- platform events, latched words 1 to 3, lost (R373) -/
  events : List (Word × Word × Word × Word)
  latched : Word × Word × Word
  hevlost : BitVec 32
  /-- power (R370, R380 to R382) -/
  pcap  : BitVec 12
  pmeas : BitVec 12
  islands : Vector (BitVec 2) 26
  gated : List (BitVec 3)
  capped : Bool
  hot   : List (BitVec 5)
  odd   : Bool
  powered : Bool
  /-- error counters at 8·block + counter (R371) -/
  errors : Store 64
  /-- security (R374 to R378) -/
  minsvn : BitVec 32
  mkey  : BitVec 256
  lastSeq : Option (BitVec 64)
  mgtbad : BitVec 32
  /-- bytes written into the flash image area, as 256 + byte, at slot·2^40 + offset, slots hub A, hub B, base-die A,
  base-die B (R376); a byte not written is the factory's (log 14) -/
  flash : Store 9
  /-- images loaded in this start: SVN and digest (R377) -/
  images : List (BitVec 32 × List Byte)
  /-- training results in module flash by stack, and the settings that the interfaces run under (R129) -/
  training : List (BitVec 8 × Training)
  tuned : List (BitVec 8 × List Word)
  /-- Ethernet and CXL ports that are up (R366) -/
  ethUp : BitVec 4
  cxlUp : BitVec 4
  deriving DecidableEq, Repr

/-- What leaves the package. -/
inductive Output where
  /-- a register value returned to a reader of the hub register window (R358) -/
  | reg (off : BitVec 20) (v : Word)
  /-- a RoCEv2 acknowledgement, with read data or the value an atomic returned -/
  | rdmaAck (port : BitVec 2) (qp : BitVec 10) (data : List Byte)
  /-- a remote-access NAK (R113, R360) -/
  | rdmaNak (port : BitVec 2) (qp : BitVec 10)
  /-- an invalid-request NAK (R359) -/
  | rdmaInvalid (port : BitVec 2) (qp : BitVec 10)
  /-- a congestion notification answered (R359) -/
  | cnp (port : BitVec 2) (qp : BitVec 10)
  /-- a management response (R378): SEQ, OP, STATUS, OFFSET, payload, TAG -/
  | mgmt (seq : Word) (op status : BitVec 8) (off : Word) (payload : List Byte) (tag : BitVec 256)
  /-- a flit sent on a laneset (R341), with the logical positions that cross on spare channels (R346) -/
  | flit (port laneset : BitVec 3) (bits : Line) (spares : List (BitVec 6 × BitVec 7))
  /-- a device write to registered host memory (R361) -/
  | hostWrite (hva : Word) (data : Lane)
  deriving DecidableEq, Repr

/-- Model: an entry of the agenda. -/
inductive Task where
  /-- an operation of a slot, or an event -/
  | op (fr : Frame) (i : Instr)
  /-- the places that run an ic at this moment are put on the agenda, as they stand by now -/
  | places
  /-- one ic of a place begins: what is due in it is put on the agenda -/
  | place (c : BitVec 3)
  /-- the next bundle of a place issues, and the first operation due in its ic runs -/
  | fetch (c : BitVec 3)
  /-- the operations of a coach due in this ic are put on the agenda -/
  | ops (c : BitVec 3)
  /-- the route loader of a coach works for one ic (R243) -/
  | loader (c : BitVec 3)
  /-- the items of a context advance (R297) -/
  | service (c : BitVec 3)
  /-- the fabric sends what it holds -/
  | fabric
  /-- the scheduler looks for work -/
  | schedule
  /-- the boot steps run (R366) -/
  | boot
  deriving DecidableEq, Repr

/-- The whole machine. -/
structure State where
  /-- model: time in ticks of 1/9 ns (log 3) -/
  now : Nat
  /-- model: what is left of this moment (log 4) -/
  agenda : List Task
  /-- model: events still to arrive from outside, with their times (log 5) -/
  inputs : List (Nat × BitVec 3 × Instr)
  /-- model: events the machine has set itself, with their times (log 5) -/
  timers : List (Nat × BitVec 3 × Instr)
  /-- model: what has left the package, oldest first (log 5) -/
  out : List Output
  /-- model: counter of free values (log 6) -/
  draw : Nat
  /-- model: the frame of the operation being executed (log 4) -/
  cur : Frame
  /-- HBM bytes at stack·2^36 + stack-local offset (R103) -/
  hbm : Store 8
  /-- second-tier bytes by tier address (R107) -/
  tier : Store 8
  /-- registered host memory by host virtual address (R361) -/
  host : Store 8
  /-- words with an uncorrectable error: HBM keys and tier addresses div 4; true for an error that a retry clears (R300) -/
  badHbm : List (Nat × Bool)
  badTier : List (Nat × Bool)
  /-- words of the second tier whose next write, and words of host memory whose next access, is completed with an error: tier
  addresses and host virtual addresses div 4; true for an error that a retry clears (R300, R359, R363) -/
  badPut : List (Nat × Bool)
  badHost : List (Nat × Bool)
  /-- words of HBM with a single-bit error: keys div 4 (R371) -/
  softHbm : List Nat
  /-- writes through views, each context's last emptying of its read buffers (R149, R150), and the count by which both are
  ordered (model) -/
  viewClock : Nat
  viewLog : List ViewWrite
  viewEmptied : List (BitVec 12 × Nat)
  coaches : Vector Coach 8
  hub : Hub
  fab : Fabric
  plat : Platform
  deriving DecidableEq, Repr

/-- Why the machine stops. -/
inductive Fault where
  /-- raised by `step` when the module has removed its own power (R382) or lost it (R368) and no input is left that
  could restore it: nothing happens any more. Safe: the machine stops and nothing is claimed of a later state. -/
  | unpowered
  deriving DecidableEq, Repr

/-- Why an instruction has no meaning. -/
inductive Refusal where
  /-- raised by `exec` for an instruction without a meaning yet, with its mnemonic. Safe: nothing is claimed. -/
  | notModelled (mnemonic : String)
  deriving DecidableEq, Repr

/-- The empty frame. -/
def Frame.none : Frame :=
  { master := 0, coach := 0, slot := .s0, seq := 0, bno := 0, index := 0, ext := 0, hnd := false, sb := [], audit := false }

/-- The state that a write of SEED gives lane generator `l` of gang member `m` (R92). -/
def laneSeed (seed : BitVec 32) (m l : Nat) : BitVec 32 :=
  let st := seed ^^^ BitVec.ofNat 32 ((l + 1 + 64 * m) * 0x9E3779B9)
  if st = 0 then 1 else st

/-- The 64 lane generators after a write of SEED (R92). -/
def laneSeeds (seed : BitVec 32) (m : Nat) : Vector (BitVec 32) 64 := Vector.ofFn fun l => laneSeed seed m l.val

/-- A cluster at reset (R92; registers and masks: log 1). -/
def Cluster.reset : Cluster :=
  { v := Vector.replicate 28 0, k := Vector.replicate 8 0, seed := 1, rng := laneSeeds 1 0 }

/-- An address generator with every bound and stride zero and its pad extent off (R58, R238). -/
def AddrGen.reset : AddrGen :=
  { base := 0, bound := Vector.replicate 6 0, stride := Vector.replicate 6 0, ctr := Vector.replicate 6 0, pad := 0 }

/-- The reset value of the format latch: E4M3, E4M3, no MX (R280); MXEN is bit 8. -/
def latchReset : BitVec 9 := 0x033

/-- The sequencer side at reset: R35, R92, R94, R104, R164, R177, R183, R212, R214, R221, R234, R328, R330 where they
state values; log 1 and log 2 elsewhere. -/
def Seq.reset : Seq :=
  { x := Vector.replicate 32 0, c := 0, ss := [], code := [], badCode := [], softCode := [],
    tok := Vector.replicate 64 { count := 0, err := false }, tokOps := [], mb := Vector.replicate 16 0,
    pc := 0, earliest := 0, phase := .parked, loops := [], loopBuf := [], rstk := [], winBase := 0, winNext := none,
    bno := 0, seq := 0, stall := 0, cyc := 0, thaw := 0, gbind := 0, gskew := 0, gang := [], hb := 0, hl := 0, ho := 0, ptr := 0,
    unitReg := 0, gridReg := 0, audit := false, auditNext := [], brk := false, padr := 64 <<< 16,
    zs := Vector.replicate 4 0, epc := 0, ecause := 0, earg := 0, inh := false, qlen := 0, disc := false, ldep := 0,
    rdep := 0, pend := false, pending := [], postTrap := none, preempt := none, held := none, back := none, items := [], nextItem := 0,
    hbno := 0, begun := false, mbOut := [] }

/-- The data side at reset: R92, R94, R280, R284 where they state values; log 1 and log 2 elsewhere. -/
def Engine.reset : Engine :=
  { va := .reset, vb := .reset, vc := .reset, fs := Vector.replicate 8 0, tables := [], carry := 0, cbase := 0,
    fflag := 0, raised := 0, latch := latchReset, latchQ := [], mgeom := 0, banks := [], full := [], fullNew := [], badBank := [], onceBank := [], softBank := [],
    acc := [], badAcc := [], softAcc := [], routesR := [], routesW := [], ag := Vector.replicate 64 .reset, rin := [], oport := [],
    inflight := [], since := [], skew := [], hitch := [], ovR := none, ovW := none, loader := [], switches := [], solverAt := none,
    engq := [], readIc := [], tiles := [], tlb := [] }

/-- A coach at reset: no unit holds it. -/
def Coach.reset : Coach := { ic := 0, unit := none, sq := .reset, en := .reset }

/-- A queue at reset (R60). -/
def QueueRegs.reset : QueueRegs := { base := 0, ctl := 0, head := 0, tail := 0, err := 0, deficit := 0 }

/-- The hub at reset (R40, R60, R64, R111, R116, R118, R128, R134). -/
def Hub.reset : Hub :=
  { mode := 0, modeBusy := false, modeErr := false, levels := [], queues := Vector.replicate 64 .reset, launches := [],
    run := false, lseed := 1, pdead := 200, slice := 0, wdef := 10000, cancelBusy := false, cancelErr := false,
    pbeat := 0, dbeat := 0, pgroup := 0, fbbase := 0, fbctl := 0, fbhead := 0, fbtail := 0, fbgen := 0, fbovf := false,
    fbrecs := [], thn := 4, thw := 1000, tht := 10000, thcnt := 0, moves := [], moving := [], expanding := [],
    cmpEn := false, compressed := [], views := [], vtjob := 0, jobs := [], husks := [],
    stkref := Vector.replicate 8 { owner := false, takes := 0, rel := false, beats := 0, missed := 0 } }

/-- A channel at reset (R349); channels 64 to 67 are spares (R340). -/
def Channel.reset (c : BitVec 7) : Channel :=
  { idrv := 0, prxp := 0, eff := 0x4000, role := if 64 ≤ c.toNat then 1 else 0, ont := 0, eolh := 0xFFFFFFFF, csymt := 0,
    window := 0, samples := [] }

/-- A laneset at reset: down; only channels that differ from Channel.reset are listed. -/
def Laneset.reset : Laneset :=
  { up := false, lost := false, txseq := 1, rxseq := 0, heard := 0, sent := [], replay := [], nakking := false, marker := false, relock := none,
    beatDue := false, ctl := [], free := 0, map := [], switches := [], txmap := [], count := Vector.replicate 8 0, snap := Vector.replicate 8 0, chans := [], power := [] }

/-- A port at reset: state DOWN (R347, R352). -/
def Port.reset : Port :=
  { st := 0, dhold := false, peer := 0, scal := 0, acal := 0, cgen := 0, swBeat := 0, slot := 0,
    shadow := Vector.replicate 64 0, active := Vector.replicate 64 0, csw := 0, armed := false, snapTake := false,
    snapValid := false, snapRgen := 0, rgen := 0, spthr := 0x1000, auto := true, lanes := Vector.replicate 8 .reset,
    stamp := 0 }

/-- The fabric at reset (R347, R354, R357, R360, R361). -/
def Fabric.reset : Fabric :=
  { ports := Vector.replicate 8 .reset, routes := [], keys := Vector.replicate 64 0, windows := [], pkgid := 0,
    bsrc := false, blost := false, rhops := 3, hto := 1000, eolth := 0x2666, evF := [], evM := [], lostF := 0, lostM := 0,
    relay := [], parts := [], credits := [], lastBeat := 0, rates := [], paused := [] }

/-- The platform at reset (R370, R378, R380); nothing has been written into flash (log 14), MINSVN is fused. -/
def Platform.reset : Platform :=
  { start := 0, step := 0, unit := 0, safe := false, cold := true, form := 0, ring := [], srnext := 0, sridx := 0, events := [],
    latched := (0, 0, 0), hevlost := 0, pcap := 2600, pmeas := 0, islands := Vector.replicate 26 0, gated := [],
    capped := false, hot := [], odd := false, powered := true, errors := [], minsvn := Config.fusedSvn, mkey := 0,
    lastSeq := none, mgtbad := 0, flash := [], images := [], training := [], tuned := [], ethUp := 0, cxlUp := 0 }

/-- The timers that run from reset: the package beat at each whole 64 ns, the first refresh heartbeats after 1.95 µs, the
light tests after 1 ms and the hourly sample (R128, R147, R349, R352; log 5). -/
def startTimers (t : Nat) : List (Nat × BitVec 3 × Instr) :=
  [((t / 576 + 1) * 576, 0, .packageBeat)] ++
  (List.range 8).map (fun k => (t + 17550, 0, Instr.refreshHeartbeat (BitVec.ofNat 3 k))) ++
  (List.range 8).map (fun k => (t + 9000000, 0, Instr.lightTest (BitVec.ofNat 3 k))) ++
  [(t + 32400000000000, 0, .effHourlySample)]

/-- The machine right after reset: every register at its reset value, no memory listed, no unit running; the boot steps
(R366) are the first task (log 7, log 14). -/
def State.reset : State :=
  { now := 0, agenda := [.boot], inputs := [], timers := startTimers 0, out := [], draw := 0, cur := .none,
    hbm := [], tier := [], host := [], badHbm := [], badTier := [], badPut := [], badHost := [], softHbm := [], viewClock := 0, viewLog := [], viewEmptied := [],
    coaches := Vector.replicate 8 .reset, hub := .reset, fab := .reset, plat := .reset }

end Sys2Proof.Machine
end

