-- ==== Sys2Proof/Machine/Ops.lean ====
section
/-! DEFINITION. The named operations over stores, registers, results on their way, tokens and time; taking a trap and
returning from one (spec/23_traps.md R323 to R332). -/

namespace Sys2Proof.Machine

/-- Put an element into a list that is in ascending order of a key, behind those of its own key. -/
def insertOn {α : Type} (key : α → Nat) (x : α) : List α → List α
  | [] => [x]
  | y :: t => if key y ≤ key x then y :: insertOn key x t else x :: y :: t

/-- A list in ascending order of a key; elements of one key keep their order. -/
def sortOn {α : Type} (key : α → Nat) (l : List α) : List α := l.foldl (fun s x => insertOn key x s) []

open Sys2Proof

/-- The outcome type of the meanings. -/
abbrev Outcome := Host.Outcome State Fault Refusal

/-! ### Stores -/

/-- The value at a key; a key not listed reads zero (log 2). -/
def peek {w : Nat} : Store w → Nat → BitVec w
  | [], _ => 0
  | (k, v) :: t, i => if i = k then v else if i < k then 0 else peek t i

/-- Put a value at a key, keeping the keys rising and no zero listed. -/
def poke {w : Nat} : Store w → Nat → BitVec w → Store w
  | [], i, v => if v = 0 then [] else [(i, v)]
  | (k, u) :: t, i, v =>
    if i < k then (if v = 0 then (k, u) :: t else (i, v) :: (k, u) :: t)
    else if i = k then (if v = 0 then t else (k, v) :: t)
    else (k, u) :: poke t i v

/-- Every key of a store is above a bound, the keys rise, and no value is zero. -/
def canonAbove {w : Nat} (b : Nat) : Store w → Bool
  | [] => true
  | (k, v) :: t => b < k && v ≠ 0 && canonAbove k t

/-- The canonical form of a store: keys strictly rising, no value equal to what an unlisted key reads as. -/
def canon {w : Nat} : Store w → Bool
  | [] => true
  | (k, v) :: t => v ≠ 0 && canonAbove k t

/-- The canonical form of a memory of bytes. -/
def Memory.wf (m : Store 8) : Bool := canon m

/-- Keep only the keys a test admits. -/
def keep {w : Nat} (m : Store w) (f : Nat → Bool) : Store w := m.filter fun e => f e.1

/-- Clear the keys a test names. -/
def wipe {w : Nat} (m : Store w) (f : Nat → Bool) : Store w := m.filter fun e => !f e.1

/-- The low `n` bytes from an address up, least significant byte at the lowest address (R1). -/
def peekBytes (m : Store 8) (a : Nat) : Nat → Nat
  | 0 => 0
  | n + 1 => (peek m a).toNat + 256 * peekBytes m (a + 1) n

/-- Put the low `n` bytes of a number from an address up (R1). -/
def pokeBytes (m : Store 8) (a : Nat) : Nat → Nat → Store 8
  | 0, _ => m
  | n + 1, v => pokeBytes (poke m a (BitVec.ofNat 8 v)) (a + 1) n (v / 256)

/-! ### Fixed arrays -/

/-- Element `i`, or `d` past the end. -/
def vrd {α : Type} {n : Nat} (v : Vector α n) (i : Nat) (d : α) : α := v[i]?.getD d

/-- Replace element `i`; past the end nothing changes. -/
def vwr {α : Type} {n : Nat} (v : Vector α n) (i : Nat) (a : α) : Vector α n := v.setIfInBounds i a

/-! ### Coaches -/

/-- A coach. -/
def State.coach (s : State) (c : BitVec 3) : Coach := s.coaches[c.toNat]'(c.isLt)

/-- Replace a coach. -/
def State.setCoach (s : State) (c : BitVec 3) (k : Coach) : State :=
  { s with coaches := s.coaches.set c.toNat k c.isLt }

/-- Change a coach. -/
def State.onCoach (s : State) (c : BitVec 3) (f : Coach → Coach) : State := s.setCoach c (f (s.coach c))

/-- Change the sequencer side of a coach. -/
def State.onSq (s : State) (c : BitVec 3) (f : Seq → Seq) : State :=
  s.onCoach c fun k => { k with sq := f k.sq }

/-- Change the data side of a coach. -/
def State.onEn (s : State) (c : BitVec 3) (f : Engine → Engine) : State :=
  s.onCoach c fun k => { k with en := f k.en }

/-- The sequencer side of the master of the operation being executed. -/
def State.msq (s : State) : Seq := (s.coach s.cur.master).sq

/-- The data side of the coach that executes the operation. -/
def State.cen (s : State) : Engine := (s.coach s.cur.coach).en

/-- The ic of the executing coach. -/
def State.icNow (s : State) : Nat := (s.coach s.cur.coach).ic

/-- Gang size of a unit's code (R32). -/
def gangSize (g : BitVec 2) : Nat := if g = 1 then 2 else if g = 2 then 4 else 1

/-- The member coaches of the unit that a coach's sequencer runs, in member order; the coach alone without one. -/
def State.members (s : State) (m : BitVec 3) : List (BitVec 3) :=
  match (s.coach m).unit with
  | some u => (List.range (gangSize u.gsize)).map fun i => u.master + BitVec.ofNat 3 i
  | none => [m]

/-- The member index of a coach in its unit (R33). -/
def State.memberOf (s : State) (c : BitVec 3) : BitVec 2 :=
  match (s.coach c).unit with
  | some u => u.member
  | none => 0

/-- The master of the unit that holds a coach. -/
def State.masterOf (s : State) (c : BitVec 3) : BitVec 3 :=
  match (s.coach c).unit with
  | some u => u.master
  | none => c

/-- Scalar register read: x0 reads zero (R5). -/
def xread (q : Seq) (r : BitVec 5) : Word := if r = 0 then 0 else vrd q.x r.toNat 0

/-- Scalar register write: a write to x0 is discarded (R5). -/
def xwrite (q : Seq) (r : BitVec 5) (v : Word) : Seq := if r = 0 then q else { q with x := vwr q.x r.toNat v }

/-- Condition bit read: c0 reads one (R5). -/
def cread (q : Seq) (r : BitVec 4) : Bool := if r = 0 then true else q.c.getLsbD r.toNat

/-- A bit vector with one bit set to a value. -/
def setBit {w : Nat} (b : BitVec w) (i : Nat) (v : Bool) : BitVec w :=
  if v then b ||| BitVec.ofNat w (2 ^ i) else b &&& ~~~(BitVec.ofNat w (2 ^ i))

/-- Condition bit write: a write to c0 is discarded (R5). -/
def cwrite (q : Seq) (r : BitVec 4) (v : Bool) : Seq := if r = 0 then q else { q with c := setBit q.c r.toNat v }

/-- The bits of `v` where the mask is one, the bits of `o` elsewhere. -/
def blend {w : Nat} (mask v o : BitVec w) : BitVec w := (v &&& mask) ||| (o &&& ~~~mask)

/-- The cluster of a coach. -/
def Engine.cluster (e : Engine) : Cl → Cluster
  | .a => e.va
  | .b => e.vb
  | .c => e.vc

/-- Replace a cluster of a coach. -/
def Engine.setCluster (e : Engine) (cl : Cl) (k : Cluster) : Engine :=
  match cl with
  | .a => { e with va := k }
  | .b => { e with vb := k }
  | .c => { e with vc := k }

/-- A mask of a cluster: mask 0 is all ones (R5, R26). -/
def kread (k : Cluster) (i : BitVec 3) : BitVec 64 := if i = 0 then BitVec.allOnes 64 else vrd k.k i.toNat 0

/-! ### Free values -/

/-- The next free choice, and the state after it (log 6). -/
def State.pick (s : State) : Nat × State := (Config.pick s.draw, { s with draw := s.draw + 1 })

/-- A free number below `n` (0 when `n` is 0). -/
def State.choose (s : State) (n : Nat) : Nat × State :=
  (Config.pick s.draw % (if n = 0 then 1 else n), { s with draw := s.draw + 1 })

/-! ### Time, timers, outputs -/

/-- Set an event for a time. -/
def State.timer (s : State) (t : Nat) (c : BitVec 3) (i : Instr) : State :=
  { s with timers := s.timers ++ [(t, c, i)] }

/-- Arm an event of the hub for the next whole multiple of a period. -/
def State.periodic (s : State) (n : Nat) (i : Instr) : State := s.timer ((s.now / n + 1) * n) 0 i

/-- The package beat that began last (R147): beats begin at the whole multiples of 64 ns. -/
def State.lastPackageBeat (s : State) : Nat := s.now / 576 * 576

/-- Let something leave the package. -/
def State.send (s : State) (o : Output) : State := { s with out := s.out ++ [o] }

/-- The frame of an event of a coach. -/
def evFrame (c : BitVec 3) : Frame :=
  { master := c, coach := c, slot := .s0, seq := 0, bno := 0, index := 0, ext := 0, hnd := false, sb := [], audit := false }

/-- Put an event of a coach at the front of the agenda. -/
def State.soon (s : State) (c : BitVec 3) (i : Instr) : State :=
  { s with agenda := .op (evFrame c) i :: s.agenda }

/-- Put an event of a coach at the end of the agenda. -/
def State.later (s : State) (c : BitVec 3) (i : Instr) : State :=
  { s with agenda := s.agenda ++ [.op (evFrame c) i] }

/-! ### Results on their way -/

/-- Whether a result takes effect at the end of its ic, and is seen from the next (R17, R238, R251, R273). -/
def Dest.post : Dest → Bool
  | .bank _ _ _ _ _ => true
  | .full _ _ _ => true
  | .clr _ _ => true
  | .ag _ _ => true
  | .tbl _ _ => true
  | _ => false

/-- Insert a result in the order of issue (R160): by bundle, then by syllable. -/
def insertResult (r : Result) : List Result → List Result
  | [] => [r]
  | q :: t => if r.seq < q.seq || (r.seq = q.seq && r.syl < q.syl) then r :: q :: t else q :: insertResult r t

/-- Put a result of the operation being executed on its way to a coach, landing `lat` ics from now (R160). -/
def State.result (s : State) (c : BitVec 3) (lat : Nat) (flags : BitVec 40) (d : Dest) : State :=
  let r : Result := { due := s.icNow + lat, seq := s.cur.seq, syl := s.cur.slot.syl, flags := flags, again := false, tile := false, dest := d }
  s.onEn c fun e => { e with inflight := insertResult r e.inflight }

/-- A scalar result (R222): it lands on the master; x0 discards it. -/
def State.resultX (s : State) (lat : Nat) (r : BitVec 5) (v : Word) : State :=
  if r = 0 then s else s.result s.cur.master lat 0 (.xr r v)

/-- A condition-bit result (R222): it lands on the master; c0 discards it. -/
def State.resultC (s : State) (r : BitVec 4) (v : Bool) : State :=
  if r = 0 then s else s.result s.cur.master 1 0 (.cr r v)

/-- Key of a bank line. -/
def bankKey (b : BitVec 6) (line : BitVec 14) : Nat := b.toNat * 16384 + line.toNat

/-- Key of an accumulator row. -/
def accKey (blk : BitVec 8) (row : BitVec 6) : Nat := blk.toNat * 64 + row.toNat

/-- Whether a unit's reservation holds a bank (R19). -/
def Unit.hasBank (u : Unit) (b : BitVec 6) : Bool := b.toNat < 48 && u.bmask.getLsbD b.toNat

/-- Whether the unit that holds a coach reserves a bank. -/
def Coach.hasBank (k : Coach) (b : BitVec 6) : Bool :=
  match k.unit with
  | some u => u.hasBank b
  | none => false

/-- Whether an accumulator block is reserved (R57). -/
def Coach.hasBlock (k : Coach) (b : BitVec 8) : Bool :=
  match k.unit with
  | some u => b.toNat < u.accb
  | none => false

/-- A bank line as the read network and the engine path see it: a bank outside the reservation reads zero (R19). -/
def Coach.line (k : Coach) (b : BitVec 6) (l : BitVec 14) : Line :=
  if k.hasBank b then peek k.en.banks (bankKey b l) else 0

/-- An accumulator row: a block at or above ACCB reads zero (R57). -/
def Coach.row (k : Coach) (b : BitVec 8) (r : BitVec 6) : Line :=
  if k.hasBlock b then peek k.en.acc (accKey b r) else 0

/-- The majority of the three copies of a full bit (R18). -/
def majority (v : BitVec 3) : Bool := (v.getLsbD 0 && v.getLsbD 1) || (v.getLsbD 0 && v.getLsbD 2) || (v.getLsbD 1 && v.getLsbD 2)

/-- Whether the three copies of a full bit disagree (R18, R371). -/
def disagree (v : BitVec 3) : Bool := v ≠ 0 && v ≠ 7

/-- A full bit, read by majority (R18); outside the reservation it counts as clear (R250). -/
def Coach.fullBit (k : Coach) (b : BitVec 6) (l : BitVec 14) : Bool :=
  k.hasBank b && majority (peek k.en.full (bankKey b l))

/-- The lanes of a mask of a line. -/
def maskLanes (m : Line) : BitVec 64 :=
  BitVec.ofNat 64 (((List.range 64).map fun l => if m.getLsbD (32 * l) then 2 ^ l else 0).sum)

/-- Lanes with an error that a write of some lanes leaves: a written lane is free of error. -/
def clearBad (l : List (Nat × BitVec 64)) (key : Nat) (mask : Line) : List (Nat × BitVec 64) :=
  (l.map fun e => if e.1 = key then (e.1, e.2 &&& ~~~(maskLanes mask)) else e).filter fun e => e.2 ≠ 0

/-- Write lanes of a bank line; outside the reservation nothing is written (R19). -/
def Coach.writeLine (k : Coach) (b : BitVec 6) (l : BitVec 14) (mask v : Line) : Coach :=
  if k.hasBank b then
    { k with en := { k.en with
        banks := poke k.en.banks (bankKey b l) (blend mask v (peek k.en.banks (bankKey b l))),
        badBank := clearBad k.en.badBank (bankKey b l) mask, onceBank := clearBad k.en.onceBank (bankKey b l) mask,
        softBank := clearBad k.en.softBank (bankKey b l) mask } }
  else k

/-- Set or clear a full bit; `u` is the ic of the change, which is kept while the bit travels to the master (R250). In an ic with a
clear and a set the clear comes first and the set stands (R251); a line of another member that was full then travels anew, so that
the master sees it clear until it has arrived (log 71, DESIGN CHOICE). -/
def Coach.setFull (k : Coach) (b : BitVec 6) (l : BitVec 14) (v : Bool) (u : Nat) : Coach :=
  if k.hasBank b then
    let key := bankKey b l
    let fresh : Bool := v && !majority (peek k.en.full key) && (k.unit.map fun x => x.member).getD 0 ≠ 0
    let new := if fresh then (key, u) :: k.en.fullNew else k.en.fullNew.filter fun e => v || e.1 ≠ key
    { k with en := { k.en with full := poke k.en.full key (if v then 7 else 0), fullNew := new } }
  else k

/-- Set the full bits of `n` lines from `l`, line numbers modulo 16,384 (R250, R251). -/
def Coach.setFulls (k : Coach) (b : BitVec 6) (l : BitVec 14) (u : Nat) : Nat → Coach
  | 0 => k
  | n + 1 => (k.setFull b (l + BitVec.ofNat 14 n) true u).setFulls b l u n

/-- Write masked elements of an accumulator row; a block at or above ACCB is never written (R57, R282). -/
def Coach.writeRow (k : Coach) (b : BitVec 8) (r : BitVec 6) (mask v : Line) : Coach :=
  if k.hasBlock b then
    { k with en := { k.en with
        acc := poke k.en.acc (accKey b r) (blend mask v (peek k.en.acc (accKey b r))),
        badAcc := clearBad k.en.badAcc (accKey b r) mask, softAcc := clearBad k.en.softAcc (accKey b r) mask } }
  else k

/-- Step level `k` of a generator (R165). -/
def AddrGen.step (g : AddrGen) (k : Nat) : AddrGen :=
  let zeroed := (List.range k).foldl (fun c j => vwr c j 0) g.ctr
  let n := (vrd g.ctr k 0).toNat + 1
  { g with ctr := vwr zeroed k (if (vrd g.bound k 0).toNat ≤ n then 0 else BitVec.ofNat 16 n) }

/-- Apply an address-generator setup (R236), or a step (R165). -/
def AddrGen.setup (g : AddrGen) : AgPart → AddrGen
  | .base v => { g with base := v }
  | .level l b t =>
    { g with bound := vwr g.bound l b, stride := vwr g.stride l t, ctr := vwr g.ctr l 0 }
  | .pad v => { g with pad := v }
  | .zero => { g with ctr := Vector.replicate 6 0 }
  | .step k => g.step k

/-- The minimum of VLANES as stored (R221). -/
def padrStore (v : Word) : BitVec 29 :=
  let b := v.truncate 29
  let vl := b.extractLsb' 16 7
  let vl' := if 64 < vl.toNat then 64 else vl
  (b &&& 0x1F00FFFF) ||| (vl'.zeroExtend 29 <<< 16)

/-- The bits of sy.fflag that hold flags (R94). -/
def fflagBits : BitVec 40 := 0x3F3F3F3F3F

/-- Land a write of a context system register on its coach (R233); sy.gbind, sy.gskew and sy.audit land elsewhere. -/
def Coach.writeSy (k : Coach) (n : BitVec 12) (v : Word) : Coach :=
  let q := k.sq
  let m := match k.unit with | some u => u.member.toNat | none => 0
  if n = 0x020 then { k with en := { k.en with fflag := v.truncate 40 &&& fflagBits } }
  else if n = 0x021 then
    { k with en := { k.en with va := { k.en.va with seed := v.truncate 32, rng := laneSeeds (v.truncate 32) m } } }
  else if n = 0x022 then
    { k with en := { k.en with vb := { k.en.vb with seed := v.truncate 32, rng := laneSeeds (v.truncate 32) m } } }
  else if n = 0x023 then
    { k with en := { k.en with vc := { k.en.vc with seed := v.truncate 32, rng := laneSeeds (v.truncate 32) m } } }
  else if n = 0x025 then { k with sq := { q with brk := v.getLsbD 0 } }
  else if n = 0x026 then { k with sq := { q with padr := padrStore v } }
  else if n = 0x028 then { k with sq := { q with zs := vwr q.zs 0 (v.truncate 32) } }
  else if n = 0x029 then { k with sq := { q with zs := vwr q.zs 1 (v.truncate 32) } }
  else if n = 0x02A then { k with sq := { q with zs := vwr q.zs 2 (v.truncate 32) } }
  else if n = 0x02B then { k with sq := { q with zs := vwr q.zs 3 (v.truncate 32) } }
  else if n = 0x031 then { k with en := { k.en with mgeom := v.truncate 57 } }
  else if n = 0x040 then
    { k with sq := { q with epc := if 16384 < (v.truncate 15 : BitVec 15).toNat then 16384 else v.truncate 15 } }
  else if n = 0x043 then { k with sq := { q with disc := q.disc || v.getLsbD 10 } }
  else k

/-- The elements of a row that a put-back accumulator result still reaches: not those that a later-issued bundle has
written since the freeze (R294). -/
def againMask (since : List (BitVec 8 × BitVec 6 × Line × Nat)) (blk : BitVec 8) (row : BitVec 6) (seq : Nat) : Line :=
  since.foldl (fun m e => if e.1 = blk && e.2.1 = row && seq < e.2.2.2 then m &&& ~~~e.2.2.1 else m)
    (BitVec.allOnes 2048)

/-- A result as it lands: one put back after a freeze reaches only the elements that no later-issued bundle has written
(R294). -/
def maskAgain (since : List (BitVec 8 × BitVec 6 × Line × Nat)) (r : Result) : Result :=
  match r.dest with
  | .acc b rows f =>
    if r.again then
      { r with dest := .acc b (rows.map fun x => (x.1, x.2.1 &&& againMask since b x.1 r.seq, x.2.2)) f }
    else r
  | _ => r

/-- Land one result on its coach (R160, R324), hitch lanes apart. -/
def Coach.landDest (k : Coach) (d : Dest) : Coach :=
  match d with
  | .xr r v => { k with sq := xwrite k.sq r v }
  | .cr r v => { k with sq := cwrite k.sq r v }
  | .ss off n v => { k with sq := { k.sq with ss := pokeBytes k.sq.ss off n v.toNat } }
  | .mb i v => if k.sq.mbOut.contains i then k else { k with sq := { k.sq with mb := vwr k.sq.mb i.toNat v } }
  | .vr cl r mask v =>
    let cu := k.en.cluster cl
    { k with en := k.en.setCluster cl { cu with v := vwr cu.v r.toNat (blend mask v (vrd cu.v r.toNat 0)) } }
  | .kr cl r mask v =>
    let cu := k.en.cluster cl
    if r = 0 then k
    else { k with en := k.en.setCluster cl { cu with k := vwr cu.k r.toNat (blend mask v (vrd cu.k r.toNat 0)) } }
  | .fs r v => { k with en := { k.en with fs := vwr k.en.fs r.toNat v } }
  | .rin p mask v =>
    { k with en := { k.en with rin := poke k.en.rin p.toNat (blend mask v (peek k.en.rin p.toNat)) } }
  | .oport p mask v =>
    { k with en := { k.en with oport := poke k.en.oport p.toNat (blend mask v (peek k.en.oport p.toNat)) } }
  | .bank b l mask v _ => k.writeLine b l mask v
  | .full b l n => k.setFulls b l (k.ic - 1) n
  | .clr b l => k.setFull b l false (k.ic - 1)
  | .acc blk rows _ => rows.foldl (fun k r => k.writeRow blk r.1 r.2.1 r.2.2) k
  | .sy n v => k.writeSy n v
  | .ag g p => { k with en := { k.en with ag := vwr k.en.ag g.toNat ((vrd k.en.ag g.toNat .reset).setup p) } }
  | .tbl i v => { k with en := { k.en with tables := poke k.en.tables i v } }
  | .ho _ _ _ => k

/-- Land a result, raising its flags (R95). -/
def Coach.land (k : Coach) (r : Result) : Coach :=
  let k := k.landDest r.dest
  { k with en := { k.en with raised := k.en.raised ||| r.flags } }

/-- Source-port number that decides a bank lane (R252); other results rank as they were issued. -/
def Dest.rank : Dest → Nat
  | .clr _ _ => 0
  | .full _ _ _ => 200
  | .bank _ _ _ _ p => 1 + p
  | _ => 100

/-- Insert by rank, keeping the order of equals. -/
def insertRank (r : Result) : List Result → List Result
  | [] => [r]
  | q :: t => if r.dest.rank ≤ q.dest.rank then r :: q :: t else q :: insertRank r t

/-- Sort results by rank: clears, then bank lanes by source port, then the setting of full bits (R251, R252). -/
def byRank (l : List Result) : List Result := l.foldr insertRank []

/-- A result as it lands among those of its ic: of bank lanes put back after a freeze (R326), those stand that no later-issued bundle
writes in the same ic. -/
def standAgain (l : List Result) (r : Result) : Result :=
  match r.dest with
  | .bank b line mask v p =>
    if r.again then
      let lost := l.foldl (fun (m : Line) o => match o.dest with
        | .bank b' line' mask' _ _ => if !o.tile && o.due = r.due && r.seq < o.seq && b' = b && line' = line then m ||| mask' else m
        | _ => m) 0
      { r with dest := .bank b line (mask &&& ~~~lost) v p }
    else r
  | _ => r

/-- Land the results that took effect at the end of earlier ics (bank lines, full bits, generator setups). -/
def Coach.landPosts (k : Coach) : Coach :=
  let due := k.en.inflight.filter fun r => r.dest.post && r.due < k.ic
  let rest := k.en.inflight.filter fun r => !(r.dest.post && r.due < k.ic)
  (byRank (due.map (standAgain due))).foldl Coach.land { k with en := { k.en with inflight := rest } }

/-- Begin an ic on a coach (R23, R95, R160): the flags raised in the ic before join sy.fflag, the ports present nothing,
the line overrides lapse, and every result due lands in the order of issue. -/
def Coach.landing (k : Coach) : Coach :=
  let k := k.landPosts
  let due := k.en.inflight.filter fun r => !r.dest.post && r.due ≤ k.ic
  let rest := k.en.inflight.filter fun r => r.dest.post || k.ic < r.due
  let old := k.en.raised
  let fresh := k.en.fullNew.filter fun e => k.ic ≤ e.2 + 25
  let k1 := { k with en := { k.en with inflight := rest, raised := 0, rin := [], oport := [], ovR := none, ovW := none, readIc := [], fullNew := fresh } }
  let k2 := (due.map (maskAgain k.en.since)).foldl Coach.land k1
  { k2 with sq := { k2.sq with mbOut := [] }, en := { k2.en with fflag := k2.en.fflag ||| old } }

/-- Where a coach's hitch-out port leads (R13), and its delay; HO3 and lanes outside the gang reach nothing (R39). -/
def hitchTo (c : BitVec 3) (k : BitVec 2) : BitVec 3 × BitVec 2 × Nat :=
  let half : BitVec 3 := c &&& 4
  let pos := c &&& 3
  if k = 0 then (half ||| ((pos + 1) &&& 3), 1, 12)
  else if k = 1 then (half ||| ((pos + 3) &&& 3), 0, 12)
  else if k = 2 then (half ||| ((pos + 2) &&& 3), 2, 24)
  else (c ^^^ 4, 3, 12)

/-- Send lanes from a hitch-out port, those of bundle `seq` in the order of issue (R13, R39). -/
def State.hitchSend (s : State) (c : BitVec 3) (seq : Nat) (k : BitVec 2) (mask v : Line) : State :=
  let (d, p, lat) := hitchTo c k
  if s.members (s.masterOf c) |>.contains d then
    if d = c then s
    else s.onEn d fun e =>
      { e with hitch := e.hitch ++ [{ due := (s.coach c).ic + lat, seq := seq, port := p, mask := mask, v := v }] }
  else s

/-- The hitch-out lanes that a coach's results bring in its present ic: the read network's, then the write network's,
which stand over them (R23). -/
def Coach.hitchOut (k : Coach) : List (Nat × BitVec 2 × Line × Line) :=
  let due := k.en.inflight.filter fun r => r.due ≤ k.ic
  due.filterMap (fun r => match r.dest with
    | .rin p m v => if 50 ≤ p.toNat && p.toNat ≤ 53 then some (r.seq, (p - 50).truncate 2, m, v) else none
    | _ => none) ++
  due.filterMap (fun r => match r.dest with
    | .ho p m v => some (r.seq, p, m, v)
    | _ => none)

/-- Whether a result set aside by a freeze is still to land in the accumulator store (R294). -/
def Result.accAgain (r : Result) : Bool := r.again && (match r.dest with | .acc _ _ _ => true | _ => false)

/-- The rows that a coach's results write in its accumulator store in this ic, for R294. -/
def Coach.accRows (k : Coach) : List (BitVec 8 × BitVec 6 × Line × Nat) :=
  (k.en.inflight.filter fun r => r.due ≤ k.ic).flatMap fun r =>
    match r.dest with
    | .acc b rows _ => rows.map fun x => (b, x.1, x.2.1, r.seq)
    | _ => []

/-- Begin an ic on a coach of the machine: results land, hitch lanes set out (R13, R160, R175). -/
def State.land (s : State) (c : BitVec 3) : State :=
  let outs := (s.coach c).hitchOut
  let rows := (s.coach c).accRows
  let waits : Bool := (s.coach (s.masterOf c)).sq.held.isSome || (s.coach c).en.inflight.any Result.accAgain
  let s := s.onCoach c fun k =>
    let k := k.landing
    { k with en := { k.en with since := if waits then k.en.since ++ rows else [] } }
  outs.foldl (fun s o => s.hitchSend c o.1 o.2.1 o.2.2.1 o.2.2.2) s

/-! ### Tokens -/

/-- Add a post to what a context's tokens take at the end of this ic (R179). -/
def State.tokPost (s : State) (m : BitVec 3) (o : TokOp) : State :=
  s.onSq m fun q => { q with tokOps := q.tokOps ++ [o] }

/-- Apply a token operation. -/
def applyTok (v : Vector Token 64) : TokOp → Vector Token 64
  | .set t n e =>
    let o := vrd v t.toNat { count := 0, err := false }
    vwr v t.toNat { count := n.getD o.count, err := e }
  | .add t n e =>
    let o := vrd v t.toNat { count := 0, err := false }
    vwr v t.toNat { count := o.count + n, err := o.err || e }

/-- Whether a token operation is a TSET. -/
def TokOp.isSet : TokOp → Bool
  | .set _ _ _ => true
  | .add _ _ _ => false

/-- Take the posts of the ic before: TSETs first, then the additions (R179). -/
def Seq.takePosts (q : Seq) : Seq :=
  let sets := q.tokOps.filter TokOp.isSet
  let adds := q.tokOps.filter fun o => !o.isSet
  { q with tok := (sets ++ adds).foldl applyTok q.tok, tokOps := [] }

/-- The physical token of a name in the present window (R177). -/
def tokName (q : Seq) (t : BitVec 4) : BitVec 6 := q.winBase + t.zeroExtend 6

/-! ### Causes and traps -/

/-- Whether a cause is one of the uncorrectable errors, of which only the first is reported (R322). -/
def firstOnly (cause : BitVec 8) : Bool := cause = 0x07 || cause = 0x08

/-- Make a cause pending (R322): every one stands until it is taken, but of uncorrectable errors of a kind only the first. -/
def State.pend (s : State) (m : BitVec 3) (p : Pending) : State :=
  s.onSq m fun q => if firstOnly p.cause && q.pending.any (fun o => o.cause = p.cause && o.hnd = p.hnd) then q
    else { q with pending := q.pending ++ [p] }

/-- The pending causes once one of them has been taken (R322). -/
def takePending (cause : BitVec 8) (member : BitVec 2) (arg : Word) : List Pending → List Pending
  | [] => []
  | p :: t => if p.cause = cause && p.member = member && p.arg = arg then t else p :: takePending cause member arg t

/-- The value of the format latch that governs bundle `n` (R281): that of the latest-issued MFMT that governs by then. -/
def latchFor (e : Engine) (n : Nat) : BitVec 9 :=
  e.latchQ.foldl (fun v p => if p.1 ≤ n then p.2.2 else v) e.latch

/-- Put an MFMT's value among those of a latch, in the order of issue. One that never governs, because a later-issued one
governs from the same bundle or an earlier one, is left out (R324). -/
def insertLatch (p : Nat × Nat × BitVec 9) (l : List (Nat × Nat × BitVec 9)) : List (Nat × Nat × BitVec 9) :=
  if l.any fun o => p.2.1 < o.2.1 && o.1 ≤ p.1 then l
  else (l.filter fun o => o.2.1 < p.2.1 && o.1 < p.1) ++ p :: l.filter fun o => p.2.1 < o.2.1

/-- Set aside what a freeze at the coach's present ic captures (R323 to R325): every result that has not landed, delayed
by what is left; the lanes a firing has put on the matrix ports stay (R294). -/
def captureResults (k : Coach) : List Result × List Result :=
  let stays := fun r : Result => match r.dest with
    | .rin p _ _ => p.toNat < 34 && r.tile
    | .acc _ _ _ => r.tile
    | _ => false
  (k.en.inflight.filter fun r => !stays r, k.en.inflight.filter stays)

/-- The slice depth of a latch value (R202, R280). -/
def latchK (v : BitVec 9) : Nat :=
  let a := (v.extractLsb' 0 4).toNat
  if a = 7 then 128 else if a = 1 || a = 2 then 32 else 64

/-- Rows and columns of blocks of a tile (R292). -/
def Tile.br (t : Tile) : Nat := (t.m + 63) / 64
def Tile.bc (t : Tile) : Nat := (t.n + 63) / 64

/-- Slices and firings of a tile (R292); a tile without work has no firing. -/
def Tile.slices (t : Tile) : Nat := (t.k + latchK t.latch - 1) / latchK t.latch
def Tile.total (t : Tile) : Nat := t.slices * (t.br * t.bc)

/-- Freeze one member at its present ic: what the solver has accepted still switches (R248), what the loader has under way
does not; the writes that a captured accumulator result yields to count from here on (R294). -/
def Coach.freeze (k : Coach) : Coach :=
  let k := k.landPosts
  { k with en := { k.en with
      inflight := (captureResults k).2, rin := [], oport := [], skew := [], hitch := [], loader := [],
      switches := k.en.switches.filter fun w => w.item.isSome,
      fflag := k.en.fflag ||| k.en.raised, raised := 0, ovR := none, ovW := none, since := [],
      tiles := k.en.tiles.map fun t => { t with stopped := decide (t.next < t.total) } } }

/-- Something of each member of a unit, with its coach. -/
def State.ofMembers {α : Type} (s : State) (m : BitVec 3) (f : Coach → List α) : List (BitVec 3 × α) :=
  (s.members m).flatMap fun c => (f (s.coach c)).map fun a => (c, a)

/-- The values of sy.gbind and sy.gskew once a pending write governs (R38). -/
def GangWrite.apply (v : BitVec 36 × BitVec 54) (g : GangWrite) : BitVec 36 × BitVec 54 := (g.bind.getD v.1, g.skew.getD v.2)

/-- sy.gbind and sy.gskew as a bundle that issues in an ic reads them: a pending write governs from its ic (R38). -/
def Seq.bindNow (q : Seq) (ic : Nat) : BitVec 36 × BitVec 54 :=
  (q.gang.filter fun g => g.due ≤ ic).foldl GangWrite.apply (q.gbind, q.gskew)

/-- A context's writes of sy.gbind and sy.gskew that govern by an ic have taken their place (R38). -/
def Seq.bindTake (q : Seq) (ic : Nat) : Seq :=
  { q with gbind := (q.bindNow ic).1, gskew := (q.bindNow ic).2, gang := q.gang.filter fun g => ic < g.due }

/-- Put a pending write among the others by the ic from which it governs; one that was put back stands before the handler's
of the same ic (R326). -/
def insertGang (g : GangWrite) : List GangWrite → List GangWrite
  | [] => [g]
  | h :: t => if g.due ≤ h.due then g :: h :: t else h :: insertGang g t

/-- sy.audit.EN as it governs at an ic (R183). -/
def Seq.auditNow (q : Seq) (ic : Nat) : Bool :=
  (q.auditNext.filter fun a => a.1 ≤ ic).foldl (fun _ a => a.2.2) q.audit

/-- A context's writes of sy.audit that govern by an ic have taken their place (R183). -/
def Seq.auditTake (q : Seq) (ic : Nat) : Seq :=
  { q with audit := q.auditNow ic, auditNext := q.auditNext.filter fun a => ic < a.1 }

/-- A captured result with its delay counted from the freeze. The flags of the ic before the freeze, and those that a firing raises in
the freeze's ic, survive a write of sy.fflag executed in the ic before, which lands after the resume (R95). Of an accumulator result
that an earlier freeze has captured too, what has been written over since is left out for good (R294). -/
def Coach.captured (k : Coach) (r : Result) : Result :=
  let fired := ((captureResults k).2.filter fun o => o.due = k.ic).foldl (fun (f : BitVec 40) o => f ||| o.flags) k.en.raised
  let r := maskAgain k.en.since r
  let dest := match r.dest with
    | .sy n v => if n = 0x020 && r.due = k.ic then Dest.sy n (v ||| fired.zeroExtend 64) else r.dest
    | d => d
  { r with due := r.due - k.ic, again := true, dest := dest }

/-- What a freeze at the present ic captures (R323 to R325), with the loop levels and the loop buffer. A write of sy.gbind, sy.gskew
or sy.audit that governs the bundle at which the context freezes has landed (log 50). -/
def State.capture (s : State) (m : BitVec 3) : Held :=
  let q := (s.coach m).sq
  let f := (s.coach m).ic
  { queue := s.ofMembers m fun k => (captureResults k.landPosts).1.map k.captured,
    skew := (s.ofMembers m fun k => k.en.skew.map fun o => { o with due := o.due - k.ic }).map (·.2),
    hitch := s.ofMembers m fun k => k.en.hitch.map fun h => { h with due := h.due - k.ic },
    loader := s.ofMembers m fun k => k.en.loader.map fun l => { l with start := l.start.map fun a => k.ic - a },
    switches := s.ofMembers m fun k => (k.en.switches.filter fun w => w.item.isNone).map fun w => { w with due := w.due - k.ic },
    loops := q.loops, loopBuf := q.loopBuf, latch := s.ofMembers m fun k => [(k.en.latch, k.en.latchQ)], bno := q.bno,
    gang := (q.bindTake f).gang.map fun g => { g with due := g.due - f },
    audit := (q.auditTake f).auditNext.map fun a => (a.1 - f, a.2) }

/-- Freeze every member at the bundle next in line and set the captured state aside (R323 to R325, R294): what is held, and
the state after. -/
def State.setAside (s : State) (m : BitVec 3) : Held × State :=
  (s.capture m, ((s.members m).foldl (fun s c => s.onCoach c Coach.freeze) s).onSq m fun q =>
    { (q.bindTake (s.coach m).ic).auditTake (s.coach m).ic with gang := [], auditNext := [] })

/-- The number that ranks an RSAVE's lanes above every source port of the write network, reserved ones among them (R22, R252). -/
def rsavePort : Nat := 64

/-- The kind of an entry of the in-flight queue (R324); an address-generator setup that has not reached its member (R238) goes
with the skew line. -/
def Dest.kind : Dest → Nat
  | .xr _ _ => 0
  | .cr _ _ => 1
  | .ss _ _ _ => 2
  | .mb _ _ => 3
  | .vr _ _ _ _ => 4
  | .kr _ _ _ _ => 5
  | .fs _ _ => 6
  | .rin _ _ _ => 7
  | .oport _ _ _ => 8
  | .bank _ _ _ _ p => if p = rsavePort then 14 else 9
  | .full _ _ _ => 10
  | .acc _ _ _ => 11
  | .sy _ _ => 12
  | .ho _ _ _ => 9
  | .clr _ _ => 10
  | .ag _ _ => 15
  | .tbl _ _ => 15

/-- What makes results of one operation one entry of the queue (R324): kind, operation and ic of landing; a route loader's
operation is one whatever its lines. Log 50. -/
def Result.entry (r : Result) : Nat × Nat × Nat × Nat :=
  if r.dest.kind = 14 then (14, r.seq, r.syl, 0) else (r.dest.kind, r.seq, r.syl, r.due)

/-- The syllable of a route loader's operation: RLOAD stands in M0, RSAVE in M1 (R243). -/
def LoadOp.syl (o : LoadOp) : Nat := if o.load then 10 else 11

/-- The entries that a freeze makes of what has been under way on the members (R324). Log 50. -/
def Held.entries (h : Held) : Nat :=
  let results := (h.queue.filter fun p => p.2.dest.kind ≠ 15).map fun p => (p.1, p.2.entry)
  let loads := h.loader.map fun p => (p.1, 14, p.2.seq, p.2.syl, 0)
  let latches := (h.latch.map fun p => (p.2.2.filter fun e => h.bno < e.1).length).sum
  (results ++ loads).eraseDups.length + h.switches.length + latches + h.gang.length + h.audit.length

/-- Take a trap at the bundle next in line (R323 to R329): freeze every member, set the captured state and the active
loop levels aside, save the resume point, the cause and its argument, and make bundle HNDL next in line 4 ics later. The
handler's matrix operations start from the latch as it governs P (R324).
A pending cause that is taken stands no more; MORE tells that another one stands, or that another is `present` (R322). -/
def takeTrap (m : BitVec 3) (cause : BitVec 8) (member : BitVec 2) (arg : Word) (present : Bool) (s : State) : State :=
  let ms := s.members m
  let q := (s.coach m).sq
  let f := (s.coach m).ic
  let rest := takePending cause member arg q.pending
  let more := !rest.isEmpty || q.preempt.isSome || present
  let hndl := match (s.coach m).unit with | some u => u.hndl | none => 0
  let hs := s.setAside m
  let h := hs.1
  let s := ms.foldl (fun s c => s.onEn c fun e => { e with latch := latchFor e q.bno, latchQ := [] }) hs.2
  s.onSq m fun q =>
    { q with
      epc := BitVec.ofNat 15 q.pc,
      ecause := (cause.zeroExtend 11) ||| (member.zeroExtend 11 <<< 8) ||| (if more then 0x400 else 0),
      earg := arg, inh := true, qlen := BitVec.ofNat 9 (min 256 h.entries),
      ldep := BitVec.ofNat 3 q.loops.length, rdep := BitVec.ofNat 3 q.rstk.length,
      pending := rest, postTrap := none, held := some h, loops := [], loopBuf := [], hbno := 0,
      pc := hndl.toNat, earliest := f + 4, thaw := f + 4 }

/-- The last ic in which an operation still to execute on a member executes. -/
def lastSkew (k : Coach) : Nat := k.en.skew.foldl (fun n o => max n o.due) 0

/-- What was set aside of one member. -/
def ofCoach {α : Type} (c : BitVec 3) (l : List (BitVec 3 × α)) : List α := (l.filter fun p => p.1 = c).map (·.2)

/-- Let the stopped tiles of a member go on: the next firing's route executes in ic `r` (R294). -/
def Tile.restart (r : Nat) (t : Tile) : Tile := if t.stopped then { t with stopped := false, base := r - t.next } else t

/-- Put back what was set aside, from ic `r` on (R326, R332). -/
def State.putBack (s : State) (m : BitVec 3) (h : Held) (r : Nat) : State :=
  (s.members m).foldl (fun s c => s.onEn c fun e =>
      { e with
        inflight := (ofCoach c h.queue).foldl (fun l p => insertResult { p with due := r + p.due } l) e.inflight,
        skew := (h.skew.filter fun o => o.frame.coach = c).map (fun o => { o with due := r + o.due }) ++ e.skew,
        hitch := (ofCoach c h.hitch).map (fun p => { p with due := r + p.due }) ++ e.hitch,
        loader := (ofCoach c h.loader).map (fun p => { p with start := p.start.map fun d => r - d }) ++ e.loader,
        switches := (ofCoach c h.switches).map (fun w => { w with due := r + w.due }) ++ e.switches,
        tiles := e.tiles.map (Tile.restart r) })
    (s.onSq m fun q =>
      { q with gang := h.gang.foldr (fun g l => insertGang { g with due := r + g.due } l) q.gang,
               auditNext := q.auditNext ++ h.audit.map fun a => (r + a.1, a.2) })

/-- The held state without what DISC discards (R330, R332). -/
def Held.discarded (h : Held) : Held :=
  { h with queue := [], skew := [], hitch := [], loader := [], switches := [], gang := [], audit := [],
           latch := h.latch.map fun p => (p.1, p.2.1, p.2.2.filter fun e => e.1 ≤ h.bno) }

/-- The format latch after RTT (R324): the values that stood at the freeze with the MFMTs that count on from P, and the
handler's, of which `n` bundles have issued: one that has taken effect governs P, another counts on from it. -/
def latchBack (h : Held) (c : BitVec 3) (n : Nat) (e : Engine) : Engine :=
  match ofCoach c h.latch with
  | [] => e
  | p :: _ => { e with latch := p.1, latchQ := e.latchQ.foldl (fun l q => insertLatch (h.bno + (q.1 - n), q.2) l) p.2 }

/-- Leave the handler at ic `r` (R332, steps 4 to 8): drop the handler's loop levels, put the captured state back or discard
it, and make the saved resume point next in line. The handler's items and causes are from now on those of an earlier bundle. -/
def returnTrap (m : BitVec 3) (r : Nat) (s : State) : State :=
  let q := (s.coach m).sq
  match q.held with
  | none => s
  | some h =>
    let h := if q.disc then h.discarded else h
    let s := (s.members m).foldl (fun s c => s.onEn c (latchBack h c q.hbno)) s
    (s.putBack m h r).onSq m fun q =>
      { q with inh := false, disc := false, held := none, back := none, loops := h.loops, loopBuf := h.loopBuf,
               pend := !q.pending.isEmpty || q.preempt.isSome,
               pending := q.pending.map fun p => { p with hnd := false },
               items := q.items.map fun it => { it with hnd := false },
               pc := q.epc.toNat, earliest := r }

/-- Once the ic has come at which a context goes on after RTT or after the restore of its husk, what a freeze set aside is put
back (R326, R332, R338). A cause that a handler bundle or item met up to the ic before stands, and is a double fault (R331). -/
def State.comeBack (s : State) (m : BitVec 3) : State :=
  let q := (s.coach m).sq
  let ic := (s.coach m).ic
  match q.back with
  | none => s
  | some r =>
    if ic < r then s
    else if q.inh then (if q.pending.any fun p => p.hnd then s else returnTrap m ic s)
    else match q.held with
      | none => s.onSq m fun q => { q with back := none }
      | some h => (s.putBack m h ic).onSq m fun q => { q with held := none, back := none }

end Sys2Proof.Machine
end

