-- ==== Sys2Proof/Machine/Flags.lean ====
section
/-! DEFINITION. The exception flags of sy.fflag and their groups (spec/05_numbers.md R94). -/

namespace Sys2Proof.Machine

open Sys2Proof

/-- The six flags of a group (R94). -/
def flIV : BitVec 6 := 1
def flDZ : BitVec 6 := 2
def flOF : BitVec 6 := 4
def flUF : BitVec 6 := 8
def flNX : BitVec 6 := 16
def flSA : BitVec 6 := 32

/-- A flag when a condition holds. -/
def flIf (b : Bool) (f : BitVec 6) : BitVec 6 := if b then f else 0

/-- The flags of a group in their place in sy.fflag: 0 A, 1 B, 2 C, 3 special function, 4 matrix (R94). -/
def flGroup (g : Nat) (f : BitVec 6) : BitVec 40 := f.zeroExtend 40 <<< (8 * g)

/-- The group of a cluster (R94). -/
def Cl.group : Cl → Nat
  | .a => 0
  | .b => 1
  | .c => 2

/-- The flags of sy.fflag that a gang's members have together (R95). -/
def State.fflagOr (s : State) (m : BitVec 3) : BitVec 40 :=
  (s.members m).foldl (fun f c => f ||| (s.coach c).en.fflag) 0

end Sys2Proof.Machine
end

