-- ==== Sys2Proof/Machine/Numbers.lean ====
section
/-! DEFINITION. Number formats, rounding and exact arithmetic (spec/05_numbers.md R78 to R100). A real value is a dyadic
number: sign, natural mantissa and integer exponent. -/

namespace Sys2Proof.Machine

open Sys2Proof

/-- A decoded operand or an exact result. -/
inductive Num where
  | nan
  | inf (neg : Bool)
  | fin (neg : Bool) (m : Nat) (e : Int)
  deriving DecidableEq, Repr

/-! ### Formats (R78, R80, R83) -/

/-- Exponent bits, mantissa bits, bias and largest finite encoding of a floating-point format (R80). -/
def fpEb (f : Nat) : Nat := match f with | 0 => 8 | 1 => 8 | 2 => 5 | 3 => 4 | 4 => 5 | 5 => 2 | 6 => 3 | _ => 2
def fpMan (f : Nat) : Nat := match f with | 0 => 23 | 1 => 7 | 2 => 10 | 3 => 3 | 4 => 2 | 5 => 3 | 6 => 2 | _ => 1
def fpBias (f : Nat) : Nat := match f with | 0 => 127 | 1 => 127 | 2 => 15 | 3 => 7 | 4 => 15 | 5 => 1 | 6 => 3 | _ => 1
def fpMax (f : Nat) : Nat :=
  match f with | 0 => 0x7F7FFFFF | 1 => 0x7F7F | 2 => 0x7BFF | 3 => 0x7E | 4 => 0x7B | 5 => 0x1F | 6 => 0x1F | _ => 7
/-- Width of an element in bits (R78). -/
def fmtWidth (f : Nat) : Nat :=
  match f with
  | 0 => 32 | 1 => 16 | 2 => 16 | 3 => 8 | 4 => 8 | 5 => 6 | 6 => 6 | 7 => 4 | 8 => 8
  | 9 => 32 | 10 => 16 | 11 => 8 | 12 => 8 | 13 => 4 | _ => 32
/-- Distance of the elements of a lane in bits: FP6 elements stand in byte containers (R79). -/
def fmtStep (f : Nat) : Nat := if f = 5 || f = 6 then 8 else fmtWidth f
/-- Smallest exponent of a normal number (R80). -/
def fpEmin (f : Nat) : Int := 1 - (fpBias f : Int)
/-- Whether a format has infinities (R80). -/
def fpHasInf (f : Nat) : Bool := f = 0 || f = 1 || f = 2 || f = 4
/-- Canonical NaN of a format that has one (R80). -/
def fpNan (f : Nat) : Nat := match f with | 0 => 0x7FC00000 | 1 => 0x7FC0 | 2 => 0x7E00 | 3 => 0x7F | 4 => 0x7E | _ => 0
/-- Encoding of an infinity without its sign (R80). -/
def fpInf (f : Nat) : Nat := (2 ^ fpEb f - 1) * 2 ^ fpMan f
/-- The sign bit of an encoding. -/
def fpSign (f : Nat) (neg : Bool) : Nat := if neg then 2 ^ (fpEb f + fpMan f) else 0
/-- Whether a code is a floating-point format, an integer format. -/
def isFp (f : Nat) : Bool := f ≤ 7
def isInt (f : Nat) : Bool := 9 ≤ f && f ≤ 13

/-- The value of an encoding (R80, R81). -/
def decodeNum (f b : Nat) : Num :=
  if f = 8 then (if b % 256 = 255 then .nan else .fin false 1 ((b % 256 : Nat) - 127))
  else
    let w := fpEb f + fpMan f
    let neg := b / 2 ^ w % 2 = 1
    let mag := b % 2 ^ w
    let e := mag / 2 ^ fpMan f
    let m := mag % 2 ^ fpMan f
    if fpHasInf f && e = 2 ^ fpEb f - 1 then (if m = 0 then .inf neg else .nan)
    else if f = 3 && mag = 0x7F then .nan
    else if e = 0 then .fin neg m (fpEmin f - fpMan f)
    else .fin neg (2 ^ fpMan f + m) ((e : Int) - fpBias f - fpMan f)

/-- The value of an integer encoding: UINT8 unsigned, the others two's complement (R83). -/
def decodeInt (f b : Nat) : Int :=
  let w := fmtWidth f
  let v := b % 2 ^ w
  if f = 12 then v else if v < 2 ^ (w - 1) then v else (v : Int) - 2 ^ w
/-- Range of an integer format (R83). -/
def intLo (f : Nat) : Int := if f = 12 then 0 else -(2 ^ (fmtWidth f - 1))
def intHi (f : Nat) : Int := if f = 12 then 255 else 2 ^ (fmtWidth f - 1) - 1
/-- An integer modulo 2^n, as an encoding. -/
def encodeInt (f : Nat) (v : Int) : Nat := (v % (2 ^ fmtWidth f)).toNat
/-- Clamp to a format's range; SA on a clamp (R83). -/
def clampInt (f : Nat) (v : Int) : Nat × BitVec 6 :=
  if v < intLo f then (encodeInt f (intLo f), flSA)
  else if intHi f < v then (encodeInt f (intHi f), flSA)
  else (encodeInt f v, 0)

/-! ### Exact arithmetic (R91) -/

/-- The signed mantissa of a finite number at a smaller exponent. -/
def scaleTo (neg : Bool) (m : Nat) (e t : Int) : Int :=
  let v : Nat := m * 2 ^ (e - t).toNat
  if neg then -(v : Int) else v

/-- Negation. -/
def Num.neg : Num → Num
  | .nan => .nan
  | .inf n => .inf !n
  | .fin n m e => .fin (!n) m e

/-- Whether a number is zero, whatever its sign. -/
def Num.isZero : Num → Bool
  | .fin _ m _ => m = 0
  | _ => false

/-- Whether a number is NaN. -/
def Num.isNan : Num → Bool
  | .nan => true
  | _ => false

/-- Exact sum; the mode decides the sign of an exact zero; true for an invalid operation (R91). -/
def numAdd (mode : Nat) (x y : Num) : Num × Bool :=
  match x, y with
  | .nan, _ => (.nan, false)
  | _, .nan => (.nan, false)
  | .inf a, .inf b => if a = b then (.inf a, false) else (.nan, true)
  | .inf a, _ => (.inf a, false)
  | _, .inf b => (.inf b, false)
  | .fin a m e, .fin b n g =>
    if m = 0 && n = 0 then (.fin (if a = b then a else mode = 3) 0 0, false)
    else
      let t := min e g
      let v := scaleTo a m e t + scaleTo b n g t
      if v = 0 then (.fin (mode = 3) 0 0, false) else (.fin (v < 0) v.natAbs t, false)

/-- Exact product; true for 0 × inf (R91). -/
def numMul (x y : Num) : Num × Bool :=
  match x, y with
  | .nan, _ => (.nan, false)
  | _, .nan => (.nan, false)
  | .inf a, .inf b => (.inf (a != b), false)
  | .inf a, .fin b m _ => if m = 0 then (.nan, true) else (.inf (a != b), false)
  | .fin a m _, .inf b => if m = 0 then (.nan, true) else (.inf (a != b), false)
  | .fin a m e, .fin b n g => (.fin (a != b) (m * n) (e + g), false)

/-- Order of two numbers that are not NaN, −0 equal to +0: −1, 0, 1. -/
def numCmp (x y : Num) : Int :=
  match x, y with
  | .inf a, .inf b => if a = b then 0 else if a then -1 else 1
  | .inf a, _ => if a then -1 else 1
  | _, .inf b => if b then 1 else -1
  | .fin a m e, .fin b n g =>
    let t := min e g
    let d := scaleTo a m e t - scaleTo b n g t
    if d < 0 then -1 else if d = 0 then 0 else 1
  | _, _ => 0

/-- floor(log2 m · 2^e) of a positive dyadic number. -/
def ilog2 (m : Nat) (e : Int) : Int := (Nat.log2 m : Int) + e

/-- Half-open parts of m · 2^e at spacing 2^q: floor, and the remainder as (numerator, 2^shift). -/
def floorAt (m : Nat) (e q : Int) : Nat × Nat × Nat :=
  if q ≤ e then (m * 2 ^ (e - q).toNat, 0, 1)
  else
    let d := 2 ^ (q - e).toNat
    (m / d, m % d, d)

/-- Whether rounding takes the upper neighbour (R87): remainder r of d at an integer floor n; u the random bits. -/
def roundsUp (mode : Nat) (neg : Bool) (n r d u : Nat) : Bool :=
  if r = 0 then false
  else
    match mode with
    | 0 => d < 2 * r || (2 * r = d && n % 2 = 1)
    | 1 => false
    | 2 => !neg
    | 3 => neg
    | 4 => n % 2 = 0
    | _ => u < r * 65536 / d

/-- The result of an overflow (R88, R89). -/
def overflowTo (f mode : Nat) (sat neg : Bool) : Nat × BitVec 6 :=
  let big := fpSign f neg + fpMax f
  if sat then (big, flSA ||| flNX)
  else if fpHasInf f then
    let toInf := match mode with | 0 => true | 2 => !neg | 3 => neg | 5 => true | _ => false
    (if toInf then fpSign f neg + fpInf f else big, flOF ||| flNX)
  else if f = 3 then (0x7F, flIV ||| flNX)
  else (big, flSA ||| flNX)

/-- round(v, fmt, mode) of a finite number (R87 to R89): the encoding and the flags. A zero keeps its sign. -/
def roundFin (f mode : Nat) (sat neg : Bool) (m : Nat) (e : Int) (u : Nat) : Nat × BitVec 6 :=
  if m = 0 then (fpSign f neg, 0)
  else
    let l := ilog2 m e
    let ee := max l (fpEmin f)
    let (n, r, d) := floorAt m e (ee - fpMan f)
    let n' := if roundsUp mode neg n r d u then n + 1 else n
    let enc := n' + (ee - fpEmin f).toNat * 2 ^ fpMan f
    if fpMax f < enc then overflowTo f mode sat neg
    else (fpSign f neg + enc, flIf (r ≠ 0) flNX ||| flIf (r ≠ 0 && l < fpEmin f) flUF)

/-- A number into a floating-point format (R87 to R89). -/
def roundNum (f mode : Nat) (sat : Bool) (x : Num) (u : Nat) : Nat × BitVec 6 :=
  match x with
  | .nan => if f ≤ 4 then (fpNan f, 0) else (0, flIV)
  | .inf neg =>
    if sat then (fpSign f neg + fpMax f, flSA)
    else if fpHasInf f then (fpSign f neg + fpInf f, 0)
    else if f = 3 then (0x7F, flIV)
    else (fpSign f neg + fpMax f, flSA)
  | .fin neg m e => roundFin f mode sat neg m e u

/-- The integer nearest a finite number in a mode, and whether that is inexact (R90). -/
def toInteger (mode : Nat) (neg : Bool) (m : Nat) (e : Int) (u : Nat) : Int × Bool :=
  let (n, r, d) := floorAt m e 0
  let n' := if roundsUp mode neg n r d u then n + 1 else n
  (if neg then -(n' : Int) else n', r ≠ 0)

/-- A number into an integer format (R90). -/
def numToInt (f mode : Nat) (x : Num) (u : Nat) : Nat × BitVec 6 :=
  match x with
  | .nan => (0, flIV)
  | .inf neg => (encodeInt f (if neg then intLo f else intHi f), flSA)
  | .fin neg m e =>
    let (v, nx) := toInteger mode neg m e u
    let (b, fl) := clampInt f v
    (b, fl ||| flIf nx flNX)

/-- An integer as a number. -/
def intToNum (v : Int) : Num := .fin (v < 0) v.natAbs 0

/-- One element from a format to a format (R267): floating point, integer or E8M0 source. -/
def convElem (tf sf mode : Nat) (sat : Bool) (b u : Nat) : Nat × BitVec 6 :=
  if isInt sf then
    if isInt tf then (if sat then clampInt tf (decodeInt sf b) else (encodeInt tf (decodeInt sf b), 0))
    else roundNum tf mode sat (intToNum (decodeInt sf b)) u
  else if isInt tf then numToInt tf mode (decodeNum sf b) u
  else roundNum tf mode sat (decodeNum sf b) u

/-- Sum, difference and product of two elements, rounded once (R256); an invalid operation sets IV. -/
def fpAdd (f mode a b u : Nat) : Nat × BitVec 6 :=
  let (x, iv) := numAdd mode (decodeNum f a) (decodeNum f b)
  let (r, fl) := roundNum f mode false x u
  (r, fl ||| flIf iv flIV)
def fpSub (f mode a b u : Nat) : Nat × BitVec 6 :=
  let (x, iv) := numAdd mode (decodeNum f a) (decodeNum f b).neg
  let (r, fl) := roundNum f mode false x u
  (r, fl ||| flIf iv flIV)
def fpMul (f mode a b u : Nat) : Nat × BitVec 6 :=
  let (x, iv) := numMul (decodeNum f a) (decodeNum f b)
  let (r, fl) := roundNum f mode false x u
  (r, fl ||| flIf iv flIV)
/-- a × b ± c, rounded once (R257): 0 × inf is invalid whatever c holds. -/
def fpFma (f mode : Nat) (sub : Bool) (a b c u : Nat) : Nat × BitVec 6 :=
  let (p, iv) := numMul (decodeNum f a) (decodeNum f b)
  let z := decodeNum f c
  let (x, iv2) := if iv then (.nan, false) else numAdd mode p (if sub then z.neg else z)
  let (r, fl) := roundNum f mode false x u
  (r, fl ||| flIf (iv || iv2) flIV)

/-- Whether a number is negative, −0 included. -/
def Num.isNeg : Num → Bool
  | .nan => false
  | .inf n => n
  | .fin n _ _ => n

/-- Maximum and minimum of two elements (R91): −0 is less than +0, a NaN yields the other operand. -/
def fpMaxMin (f : Nat) (max : Bool) (a b : Nat) : Nat :=
  let x := decodeNum f a
  let y := decodeNum f b
  let w := 2 ^ fmtWidth f
  if x.isNan && y.isNan then fpNan f
  else if x.isNan then b % w
  else if y.isNan then a % w
  else
    let c := numCmp x y
    let less := c < 0 || (c = 0 && x.isNeg && !y.isNeg)
    if less then (if max then b % w else a % w) else (if max then a % w else b % w)

/-- An element with a NaN made canonical (R82). -/
def fpCanon (f a : Nat) : Nat := if (decodeNum f a).isNan then fpNan f else a % 2 ^ fmtWidth f

/-- A relation between two elements by compare code (R196, R258). -/
def fpRel (f cc a b : Nat) : Bool :=
  let x := decodeNum f a
  let y := decodeNum f b
  let un := x.isNan || y.isNan
  let c := numCmp x y
  match cc with
  | 0 => !un && c = 0
  | 1 => un || c ≠ 0
  | 2 => !un && c < 0
  | 3 => !un && c ≤ 0
  | 4 => !un && 0 < c
  | 5 => !un && 0 ≤ c
  | 6 => un
  | _ => !un

/-- The exact sum of a list of terms, with the special results of R96 and R276: mode decides the sign of a zero that is
neither all −0 nor all +0; true for opposite infinities, beside a NaN as well (notes/assumptions 21, DEDUCED). -/
def sumNums (mode : Nat) (l : List Num) : Num × Bool :=
  let pos := l.any (fun x => x = .inf false)
  let neg := l.any (fun x => x = .inf true)
  if l.any Num.isNan then (.nan, pos && neg)
  else if pos && neg then (.nan, true)
  else if pos then (.inf false, false)
  else if neg then (.inf true, false)
  else
    let lo := l.foldl (fun t x => match x with | .fin _ _ e => min t e | _ => t) (0 : Int)
    let v := l.foldl (fun a x => match x with | .fin n m e => a + scaleTo n m e lo | _ => a) (0 : Int)
    if v ≠ 0 then (.fin (v < 0) v.natAbs lo, false)
    else if l.all (fun x => x.isZero && x.isNeg) then (.fin true 0 0, false)
    else if l.all (fun x => x.isZero && !x.isNeg) then (.fin false 0 0, false)
    else (.fin (mode = 3) 0 0, false)

/-! ### Roots, estimates and transcendental bounds (R98 to R100) -/

/-- The integer square root, bit by bit from bit `k` down. -/
def isqrtFrom (n r : Nat) : Nat → Nat
  | 0 => r
  | k + 1 => if (r + 2 ^ k) * (r + 2 ^ k) ≤ n then isqrtFrom n (r + 2 ^ k) k else isqrtFrom n r k

/-- floor(√n) for n below 2^400. -/
def isqrt (n : Nat) : Nat := isqrtFrom n 0 200

/-- The square root of a positive dyadic number to 80 bits or more, with a sticky last bit. -/
def sqrtNum (m : Nat) (e : Int) : Num :=
  let up : Nat := 160 + (e % 2).toNat
  let t := m * 2 ^ up
  let r := isqrt t
  .fin false (2 * r + (if r * r = t then 0 else 1)) ((e - up) / 2 - 1)

/-- The reciprocal of a positive dyadic number, truncated to 200 bits or more, with a sticky last bit. -/
def recipNum (neg : Bool) (m : Nat) (e : Int) : Num :=
  let p := 2 ^ (200 + Nat.log2 m)
  .fin neg (2 * (p / m) + (if p % m = 0 then 0 else 1)) (-e - (200 + Nat.log2 m : Nat) - 1)

/-- 2^103 times the square root of v / 2^103, for the product form of 2^f. -/
def rootFix (v : Nat) : Nat := isqrt (v * 2 ^ 103)

/-- 2^103 · 2^(f / 2^k) for the top `k` bits of a fraction f: the product of the roots of two whose bits are set. -/
def exp2Frac (f root acc : Nat) : Nat → Nat
  | 0 => acc
  | k + 1 =>
    let root := rootFix root
    exp2Frac f root (if f / 2 ^ k % 2 = 1 then acc * root / 2 ^ 103 else acc) k

/-- 2^x of a finite number that is no integer, from below to about 95 bits, with a sticky last bit: such a power is irrational, and
it lies below 1 for every negative number and above 1 for every positive one, however small. -/
def exp2Num (neg : Bool) (m : Nat) (e : Int) : Num :=
  let v : Int := scaleTo neg m (max e (-100)) (-100)
  let d : Nat := 2 ^ (-100 - e).toNat
  let low : Int := if neg then -(((m + d - 1) / d : Nat) : Int) else ((m / d : Nat) : Int)
  let v := if e < -100 then low else v
  let n := v / 2 ^ 100
  let f := (v % 2 ^ 100).toNat
  .fin false (2 * exp2Frac f (2 ^ 104) (2 ^ 103) 100 + 1) (n - 104)

/-- `k` bits of log2 of m / 2^160, for 2^160 ≤ m < 2^161, by repeated squaring. -/
def log2Bits (m acc : Nat) : Nat → Nat
  | 0 => acc
  | k + 1 =>
    let q := m * m / 2 ^ 160
    if 2 ^ 161 ≤ q then log2Bits (q / 2) (2 * acc + 1) k else log2Bits q (2 * acc) k

/-- log2 of a positive dyadic number that is no power of two, from below to about 130 bits below the point, with a sticky last
bit. -/
def log2Num (m : Nat) (e : Int) : Num :=
  let l := Nat.log2 m
  let b := log2Bits (m * 2 ^ 160 / 2 ^ l) 0 130
  let v : Int := 2 * ((e + l) * 2 ^ 130 + b) + 1
  .fin (v < 0) v.natAbs (-131)

/-- Whether |x − y| ≤ n · 2^q for finite x and y. -/
def within (x y : Num) (n : Nat) (q : Int) : Bool :=
  match (numAdd 0 x y.neg).1 with
  | .fin _ m e => let t := min e q; scaleTo false m e t ≤ scaleTo false n q t
  | _ => false

/-- Spacing exponent of FP32 around a number: its ulp, 2^-149 for a subnormal (R98). -/
def ulpExp (x : Num) : Int :=
  match x with
  | .fin _ m e => if m = 0 then -149 else max (ilog2 m e) (-126) - 23
  | _ => -149

/-- Take an estimate when it is finite and within two ulp of the exact result, for which `y` stands (log 12: both lie on the same
side of every FP32 number); the rounded result otherwise. -/
def acceptUlp (est : BitVec 32) (y : Num) : Nat :=
  let x := decodeNum 0 est.toNat
  match x with
  | .fin _ _ _ => if within x y 2 (ulpExp y) then est.toNat else (roundNum 0 0 false y 0).1
  | _ => (roundNum 0 0 false y 0).1

/-- VEXP2 of an FP32 encoding (R98, R99); `est` is the free value delivered when it is within the bound. -/
def exp2Elem (b : Nat) (est : BitVec 32) : Nat × BitVec 6 :=
  match decodeNum 0 b with
  | .nan => (fpNan 0, 0)
  | .inf neg => (if neg then 0 else fpInf 0, 0)
  | .fin neg m e =>
    let (n, frac) := toInteger 1 neg m e 0
    if !frac && -149 ≤ n && n ≤ 127 then ((roundNum 0 0 false (.fin false 1 n) 0).1, 0)
    else if 128 ≤ n then (fpInf 0, flOF ||| flNX)
    else if n ≤ -150 then (0, flUF ||| flNX)
    else
      let y := exp2Num neg m e
      (acceptUlp est y, flNX ||| flIf (n < -126 || (n = -126 && frac)) flUF)

/-- VLOG2 of an FP32 encoding (R98, R99). -/
def log2Elem (b : Nat) (est : BitVec 32) : Nat × BitVec 6 :=
  match decodeNum 0 b with
  | .nan => (fpNan 0, 0)
  | .inf neg => if neg then (fpNan 0, flIV) else (fpInf 0, 0)
  | .fin neg m e =>
    if m = 0 then (0xFF800000, flDZ)
    else if neg then (fpNan 0, flIV)
    else if m = 2 ^ Nat.log2 m then ((roundNum 0 0 false (intToNum (ilog2 m e)) 0).1, 0)
    else (acceptUlp est (log2Num m e), flNX)

/-- Whether |p − 1| < 2^-14 for a finite number p. -/
def nearOne (p : Num) : Bool :=
  match (numAdd 0 p (.fin true 1 0)).1 with
  | .fin _ m e => let t := min e (-14); scaleTo false m e t < scaleTo false 1 (-14) t
  | _ => false

/-- VRCPE of an FP32 encoding (R98, R99). -/
def rcpeElem (b : Nat) (est : BitVec 32) : Nat × BitVec 6 :=
  match decodeNum 0 b with
  | .nan => (fpNan 0, 0)
  | .inf neg => (fpSign 0 neg, 0)
  | .fin neg m e =>
    if m = 0 then (fpSign 0 neg + fpInf 0, flDZ)
    else
      let big := decodeNum 0 (fpMax 0)
      let ovf := numCmp (numMul (.fin false m e) big).1 (.fin false 1 0) < 0
      let small := numCmp (.fin false m e) (.fin false 1 126) > 0
      if ovf then (fpSign 0 neg + fpInf 0, flOF ||| flNX)
      else
        let y := decodeNum 0 est.toNat
        let p := (numMul y (.fin neg m e)).1
        let near : Bool := match (numAdd 0 p (.fin true 1 0)).1 with
          | .fin _ d g => numCmp (.fin false d g) (.fin false m (e - 149)) < 0
          | _ => false
        let ok : Bool := match y with
          | .fin _ _ _ => nearOne p || (small && near)
          | _ => false
        let r := if ok then est.toNat else (roundNum 0 0 false (recipNum neg m e) 0).1
        let exact := numCmp (numMul (decodeNum 0 r) (.fin neg m e)).1 (.fin false 1 0) = 0
        (r, flIf (!exact) flNX ||| flIf (!exact && small) flUF)

/-- VRSQE of an FP32 encoding (R98, R99): an estimate e of 1/√x has (1 − 2^-14)² < e²x < (1 + 2^-14)². -/
def rsqeElem (b : Nat) (est : BitVec 32) : Nat × BitVec 6 :=
  match decodeNum 0 b with
  | .nan => (fpNan 0, 0)
  | .inf neg => if neg then (fpNan 0, flIV) else (0, 0)
  | .fin neg m e =>
    if m = 0 then (fpSign 0 neg + fpInf 0, flDZ)
    else if neg then (fpNan 0, flIV)
    else
      let x := Num.fin false m e
      let sq := fun y : Num => (numMul (numMul y y).1 x).1
      let y := decodeNum 0 est.toNat
      let ok : Bool := match y with
        | .fin false _ _ => numCmp (.fin false (16383 * 16383) (-28)) (sq y) < 0 && numCmp (sq y) (.fin false (16385 * 16385) (-28)) < 0
        | _ => false
      let fall := match sqrtNum m e with
        | .fin _ n g => (roundNum 0 0 false (recipNum false n g) 0).1
        | _ => 0
      let r := if ok then est.toNat else fall
      let exact := numCmp (sq (decodeNum 0 r)) (.fin false 1 0) = 0
      (r, flIf (!exact) flNX)

/-- VSQRT of an FP32 encoding (R98, R99). -/
def sqrtElem (mode b : Nat) : Nat × BitVec 6 :=
  match decodeNum 0 b with
  | .nan => (fpNan 0, 0)
  | .inf neg => if neg then (fpNan 0, flIV) else (fpInf 0, 0)
  | .fin neg m e =>
    if m = 0 then (fpSign 0 neg, 0)
    else if neg then (fpNan 0, flIV)
    else roundNum 0 mode false (sqrtNum m e) 0

/-- VRCPS and VRSQS of an operand x and an estimate y (R100). -/
def refineElem (rsq : Bool) (mode bx by_ : Nat) : Nat × BitVec 6 :=
  let x := decodeNum 0 bx
  let y := decodeNum 0 by_
  if x.isNan || y.isNan then (fpNan 0, 0)
  else
    match x, y with
    | .fin _ m _, .fin _ n _ =>
      if m = 0 || n = 0 then (by_, 0)
      else
        let xy := (numMul x y).1
        let t := if rsq then (numMul xy y).1 else xy
        let d := (numAdd mode (.fin false (if rsq then 3 else 2) 0) t.neg).1
        let p := (numMul y d).1
        let p := match p, rsq with | .fin a k g, true => Num.fin a k (g - 1) | z, _ => z
        roundNum 0 mode false p 0
    | _, _ => (by_, 0)

/-! ### MX blocks (R84, R85) -/

/-- emax of an element format (R85). -/
def mxEmax (f : Nat) : Int := match f with | 3 => 8 | 4 => 15 | 5 => 2 | 6 => 4 | _ => 2

/-- The scale of a block (R85): 0xFF for a block that holds a NaN or an infinity. -/
def mxScale (f : Nat) (l : List Num) : Nat :=
  if l.any (fun x => match x with | .fin _ _ _ => false | _ => true) then 255
  else
    let logs := l.filterMap fun x => match x with | .fin _ m e => if m = 0 then none else some (ilog2 m e) | _ => none
    match logs with
    | [] => 0
    | a :: t => (max (-127) (min 127 (t.foldl max a - mxEmax f)) + 127).toNat

/-- One element of a block with scale X (R85). -/
def mxElem (f mode x : Nat) (v : Num) (u : Nat) : Nat × BitVec 6 :=
  if x = 255 then (0, flIV)
  else
    match v with
    | .fin n m e => roundNum f mode true (.fin n m (e - ((x : Int) - 127))) u
    | _ => (0, flIV)

/-- A number times 2^k. -/
def Num.scale (x : Num) (k : Int) : Num :=
  match x with
  | .fin n m e => .fin n m (e + k)
  | z => z

/-! ### Stochastic-rounding generators (R65, R93) -/

/-- One step of the 32-bit xorshift with shifts 13, 17 and 5 (R65). -/
def xorshift (x : BitVec 32) : BitVec 32 :=
  let x := x ^^^ (x <<< 13)
  let x := x ^^^ (x >>> 17)
  x ^^^ (x <<< 5)

/-- `n` steps. -/
def xorshifts (x : BitVec 32) : Nat → BitVec 32
  | 0 => x
  | n + 1 => xorshifts (xorshift x) n

/-- The 16 random bits of element `j` of a lane whose generator stands at `x` (R93). -/
def laneRandom (x : BitVec 32) (j : Nat) : Nat :=
  (xorshifts x (j / 2 + 1)).toNat / 2 ^ (16 * (j % 2)) % 65536

/-- The generator after an instruction that produces `e` elements in the lane (R93). -/
def laneStep (x : BitVec 32) (e : Nat) : BitVec 32 := xorshifts x ((e + 1) / 2)

end Sys2Proof.Machine
end

