-- ==== Sys2Proof/Machine/Operands.lean ====
section
/-! DEFINITION. Operand forms: lanes, vector sources and destinations, masks and widths, scalar immediates, descriptors,
address generators, and what a route carries (spec/00_scope.md R5, spec/01_machine.md R20 to R26, R383,
spec/11_bundle.md R164, R165, spec/14_control_scalar.md R236, R237, spec/15_network_memslot.md R240 to R242). -/

namespace Sys2Proof.Machine

open Sys2Proof

/-! ### Lanes -/

/-- Lane `l` of a line (R16). -/
def laneOf (v : Line) (l : Nat) : Lane := v.extractLsb' (32 * l) 32

/-- The line whose lanes 0 to 63 are a list's elements, as a number: the first is the lowest. -/
def lanesNat : List Lane → Nat
  | [] => 0
  | a :: t => a.toNat + 4294967296 * lanesNat t

/-- The line with the given lanes (R26). -/
def ofLanes (f : Nat → Lane) : Line := BitVec.ofNat 2048 (lanesNat ((List.range 64).map f))

/-- The bit mask of a set of lanes. -/
def laneMask (k : BitVec 64) : Line := ofLanes fun l => if k.getLsbD l then 0xFFFFFFFF else 0

/-- Lanes of a width code: 16, 32 or 64 (R192, R254). -/
def widthLanes (w : BitVec 2) : Nat := if w = 0 then 16 else if w = 1 then 32 else 64

/-- The lanes below a width, as a 64-bit mask. -/
def belowMask (nl : Nat) : BitVec 64 := BitVec.ofNat 64 (2 ^ nl - 1)

/-- Element `j` of a lane in a format (R79). -/
def elemOf (f : Nat) (v : Lane) (j : Nat) : Nat := v.toNat / 2 ^ (fmtStep f * j) % 2 ^ fmtWidth f

/-- A lane from its elements, the first lowest (R79). -/
def packElems (f : Nat) : List Nat → Nat
  | [] => 0
  | a :: t => a + 2 ^ fmtStep f * packElems f t

/-! ### Vector operands -/

/-- The cluster of a vector slot (R190). -/
def slotCl : Slot → Cl
  | .vb => .b
  | .vc => .c
  | _ => .a

/-- Number of a cluster. -/
def Cl.num : Cl → Nat
  | .a => 0
  | .b => 1
  | .c => 2

/-- A vector source (R26): 0–27 stored, 28 and 29 the cluster's two ports, 30 and 31 zero. -/
def vsrc (e : Engine) (cl : Cl) (r : BitVec 5) : Line :=
  if r.toNat < 28 then vrd (e.cluster cl).v r.toNat 0
  else if r = 28 then peek e.rin (34 + 2 * cl.num)
  else if r = 29 then peek e.rin (35 + 2 * cl.num)
  else 0

/-- The lanes an operation with write mask K and width W modifies (R254). -/
def modified (e : Engine) (cl : Cl) (w : BitVec 2) (k : BitVec 3) : BitVec 64 :=
  kread (e.cluster cl) k &&& belowMask (widthLanes w)

/-- A vector result (R26, R254): register 30 goes to the cluster's output port, 31 is discarded but for its flags. -/
def State.resultV (s : State) (cl : Cl) (lat : Nat) (r : BitVec 5) (mask v : Line) (fl : BitVec 6) : State :=
  let d : Dest := if r = 30 then .oport (BitVec.ofNat 6 cl.num) mask (v &&& mask) else .vr cl r mask v
  s.result s.cur.coach lat (flGroup cl.group fl) d

/-- A mask result (R26): mask 0 discards it. -/
def State.resultK (s : State) (cl : Cl) (lat : Nat) (r : BitVec 3) (mask v : BitVec 64) : State :=
  s.result s.cur.coach lat 0 (.kr cl r mask v)

/-- The flags of a list of lane results together. -/
def orFlags (l : List (Nat × BitVec 6)) : BitVec 6 := l.foldl (fun f p => f ||| p.2) 0

/-- One lane: each element of a result, with its flags, packed (R254). -/
def laneElems (f n : Nat) (g : Nat → Nat × BitVec 6) : Nat × BitVec 6 :=
  let l := (List.range n).map g
  (packElems f (l.map (·.1)), orFlags l)

/-- A whole line, lane by lane, with the flags of the lanes of a mask (R254). -/
def lineElems (k : BitVec 64) (g : Nat → Nat × BitVec 6) : Line × BitVec 6 :=
  let l := (List.range 64).map fun i => if k.getLsbD i then g i else (0, 0)
  (BitVec.ofNat 2048 (lanesNat (l.map fun p => BitVec.ofNat 32 p.1)), orFlags l)

/-- The state of lane generator `l` of a cluster. -/
def rngOf (e : Engine) (cl : Cl) (l : Nat) : BitVec 32 := vrd (e.cluster cl).rng l 0

/-- Step the lane generators of the modified lanes for an instruction in mode RST that produces `n` elements a lane
(R93); no other mode steps them. -/
def State.stepRng (s : State) (cl : Cl) (rm : BitVec 3) (k : BitVec 64) (n : Nat) : State :=
  if rm = 5 then
    s.onEn s.cur.coach fun e =>
      let cu := e.cluster cl
      let step := fun l : Fin 64 => if k.getLsbD l.val then laneStep (vrd cu.rng l.val 0) n else vrd cu.rng l.val 0
      e.setCluster cl { cu with rng := Vector.ofFn step }
  else s

/-! ### Scalar operands -/

/-- Extension syllable `i` of the bundle (R167). -/
def extWord (fr : Frame) (i : Nat) : Lane := fr.ext.extractLsb' (32 * i) 32

/-- Sign extension of an immediate to 64 bits. -/
def sx {w : Nat} (b : BitVec w) : Word := b.signExtend 64

/-- Zero extension of an immediate to 64 bits. -/
def zx {w : Nat} (b : BitVec w) : Word := b.zeroExtend 64

/-- The effective address of LD and ST (R230): modulo 2^18, low bits dropped by the access size. -/
def scalarEa (a : Word) (ofs : BitVec 13) (n : Nat) : Nat :=
  let ea := (a + sx ofs).toNat % 262144
  ea - ea % n

/-- The byte offset of a descriptor (R246, R296). -/
def descBase (a : Word) : Nat := a.toNat % 262144 / 8 * 8

/-- A little-endian 64-bit word of the scalar store, addresses modulo 2^18 (R296). -/
def ssWord (m : Store 8) (a : Nat) : Word := BitVec.ofNat 64 (peekBytes m (a % 262144 / 8 * 8) 8)

/-- The first `n` words of a descriptor (R296). -/
def descWords (m : Store 8) (a : Nat) (n : Nat) : List Word := (List.range n).map fun i => ssWord m (a + 8 * i)

/-- A field of a word. -/
def wfld (w : Word) (lo n : Nat) : Nat := w.toNat / 2 ^ lo % 2 ^ n

/-- Word `i` of a descriptor. -/
def dword (d : List Word) (i : Nat) : Word := d.getD i 0

/-! ### Address generators -/

/-- The line a generator supplies (R165). -/
def AddrGen.line (g : AddrGen) : BitVec 14 :=
  BitVec.ofNat 14 (g.base.toNat + ((List.range 6).map fun k => (vrd g.ctr k 0).toNat * (vrd g.stride k 0).toNat).sum)

/-- The pad lanes of a generator (R237): `padr` is sy.padr as it stands. -/
def AddrGen.padLane (g : AddrGen) (padr : BitVec 29) (l : Nat) : Bool :=
  let pl := (g.pad.extractLsb' 0 3).toNat
  let src := g.pad.getLsbD 3
  let en := g.pad.getLsbD 4
  let lines : Nat := if src then (padr.extractLsb' 0 16).toNat else (g.pad.extractLsb' 5 16).toNat
  let vl : Nat := if src then (padr.extractLsb' 16 7).toNat else (g.pad.extractLsb' 21 7).toNat
  if en && pl < 6 then
    let last : Int := (max (vrd g.bound pl 0).toNat 1 : Nat) - (lines : Int)
    let n : Int := (vrd g.ctr pl 0).toNat
    last ≤ n || (n = last - 1 && min vl 64 ≤ l)
  else false

/-- A generator of a coach. -/
def Engine.gen (e : Engine) (g : BitVec 6) : AddrGen := vrd e.ag g.toNat .reset

/-- Step the generators that a route's control line selects, each once (R165); 0 steps nothing. -/
def stepGens (e : Engine) (gs : List (BitVec 6)) (st : BitVec 3) : Engine :=
  if st = 0 then e
  else { e with ag := gs.eraseDups.foldl (fun a g => vwr a g.toNat ((vrd a g.toNat .reset).step (st.toNat - 1))) e.ag }

/-! ### Routes -/

/-- Lines of a route image of each kind (R240). -/
def imgLines (write : Bool) : Nat := if write then 26 else 50

/-- Line `i` of an entry's image (R240); entry 0 is null (R25). -/
def Engine.routeLine (e : Engine) (write : Bool) (r : BitVec 9) (i : Nat) : Line :=
  if r = 0 then 0
  else if write then peek e.routesW (26 * r.toNat + i) else peek e.routesR (50 * r.toNat + i)

/-- An entry's image. -/
def Engine.routeImg (e : Engine) (write : Bool) (r : BitVec 9) : List Line :=
  (List.range (imgLines write)).map (e.routeLine write r)

/-- The control line keeps only its 48 bytes, with bit 6 of each zero (R240). -/
def ctlMask : Line := BitVec.ofNat 2048 ((List.range 48).foldl (fun n i => n + 0xBF * 256 ^ i) 0)

/-- An image as it is stored: reserved bits of the control line zero (R240). -/
def cleanLine (write : Bool) (i : Nat) (v : Line) : Line :=
  if i = (if write then 23 else 47) then v &&& ctlMask else v

/-- Replace an entry (R243, R244, R248); entry 0 cannot be rewritten (R25). -/
def Engine.setRoute (e : Engine) (write : Bool) (r : BitVec 9) (img : List Line) : Engine :=
  if r = 0 then e
  else
    let n := imgLines write
    let put := fun m => (List.range n).foldl (fun m i => poke m (n * r.toNat + i) (cleanLine write i (img.getD i 0))) m
    if write then { e with routesW := put e.routesW } else { e with routesR := put e.routesR }

/-- The address bit that stage `s` of the network exchanges (R241). -/
def stageBit (s : Nat) : Nat := if s ≤ 11 then 11 - s else s - 11

/-- The switch of stage `s` that position `p` meets (R241). -/
def switchIndex (s p : Nat) : Nat :=
  let b := stageBit s
  p / 2 ^ (b + 1) * 2 ^ b + p % 2 ^ b

/-- The position a value comes from when it stands at `p` after stage `s` (R241). -/
def backStage (sw : Nat → Line) (s p : Nat) : Nat :=
  if (sw s).getLsbD (switchIndex s p) then p ^^^ (2 ^ stageBit s) else p

/-- The position before stage 0 of the value that destination terminal `p` receives, through stages `n`−1 to 0. -/
def traceBack (sw : Nat → Line) : Nat → Nat → Nat
  | 0, p => p
  | n + 1, p => traceBack sw n (backStage sw n p)

/-- The fan table's source terminal for position `p` (R240). -/
def fanEntry (img : Nat → Line) (p : Nat) : Nat :=
  let i := 12 * p
  let a := (img (23 + i / 2048)).toNat
  let b := if i % 2048 ≤ 2036 then 0 else (img (24 + i / 2048)).toNat
  (a + b * 2 ^ 2048) / 2 ^ (i % 2048) % 4096

/-- The source terminal that drives destination terminal `t` of a read entry (R241). -/
def readSource (img : Nat → Line) (t : Nat) : Nat := fanEntry img (traceBack img 23 t)

/-- The source terminal that drives destination terminal `t` of a write entry (R241). -/
def writeSource (img : Nat → Line) (t : Nat) : Nat := traceBack img 23 t

/-- The enable bits of a destination port (R240). -/
def enableBits (img : Nat → Line) (write : Bool) (port : Nat) : BitVec 64 :=
  let l := img ((if write then 24 else 48) + port / 32)
  l.extractLsb' (64 * (port % 32)) 64

/-- The control byte of a bank port (R240). -/
def ctlByte (img : Nat → Line) (write : Bool) (bank : Nat) : Byte :=
  (img (if write then 23 else 47)).extractLsb' (8 * bank) 8

/-- The generators that a route selects (R165, R240). -/
def selectedGens (img : Nat → Line) (write : Bool) : List (BitVec 6) :=
  (List.range 48).filterMap fun b =>
    let c := ctlByte img write b
    if c.getLsbD 7 then some (c.extractLsb' 0 6) else none

/-- The word of ZS (R164). -/
def padWord (q : Seq) (p : BitVec 4) : Lane :=
  match p.toNat with
  | 0 => 0 | 1 => 0xFF800000 | 2 => 0x7F800000 | 3 => 0xFF80FF80 | 4 => 0x7F807F80 | 5 => 0xFC00FC00
  | 6 => 0x7C007C00 | 7 => 0x3F800000 | 8 => vrd q.zs 0 0 | 9 => vrd q.zs 1 0 | 10 => vrd q.zs 2 0
  | 11 => vrd q.zs 3 0 | 12 => 0xFFFFFFFF | _ => 0

/-- Lane `l` of SB for a list of scalar registers (R383). -/
def sbLane (xs : List Word) (l : Nat) : Lane :=
  let x := if l / 2 = 0 then 0 else xs.getD (l / 2) 0
  if l % 2 = 0 then x.truncate 32 else x.extractLsb' 32 32

/-- A bank port of an executing read route (R242): the line it reads (its override, or its generator's), and whether pad
lanes apply; none when it does not take part. -/
def readPort (k : Coach) (ov : Option Override) (img : Nat → Line) (b : Nat) : Option (BitVec 14 × Option AddrGen) :=
  let bb := BitVec.ofNat 6 b
  let c := ctlByte img false b
  if c.getLsbD 7 && k.hasBank bb then
    let g := k.en.gen (c.extractLsb' 0 6)
    match ov with
    | some o =>
      if o.bank = bb then (if o.rdi then some (g.line + o.line, some g) else some (o.line, none))
      else some (g.line, some g)
    | none => some (g.line, some g)
  else none

/-- A bank port of an executing write route (R242): the line it writes and the lanes WRM admits. -/
def writePort (k : Coach) (ov : Option Override) (img : Nat → Line) (b : Nat) : Option (BitVec 14 × BitVec 64) :=
  let bb := BitVec.ofNat 6 b
  let c := ctlByte img true b
  if c.getLsbD 7 && k.hasBank bb then
    match ov with
    | some o => if o.bank = bb then some (o.line, o.mask) else some ((k.en.gen (c.extractLsb' 0 6)).line, BitVec.allOnes 64)
    | none => some ((k.en.gen (c.extractLsb' 0 6)).line, BitVec.allOnes 64)
  else none

/-- What a line reads as while an item's write to it waits: each lane old or new (R182); a lane once seen new stays so
(R137). An arrival is seen as a whole, once it is written (R251). -/
def earlyLine (k : Coach) (b : BitVec 6) (l : BitVec 14) : Line :=
  let v := k.line b l
  match k.en.engq.find? (fun w => w.item.isSome && w.bank = b && w.line = l) with
  | some w => if k.hasBank b then blend (w.mask &&& laneMask w.early) w.v v else v
  | none => v

/-- The lanes that a list of errors gives a key. -/
def lanesOf (l : List (Nat × BitVec 64)) (key : Nat) : BitVec 64 :=
  match l.find? (fun e => e.1 = key) with
  | some e => e.2
  | none => 0

/-- The lanes of a line that carry an uncorrectable error (R18, R321). -/
def badLanes (k : Coach) (b : BitVec 6) (l : BitVec 14) : BitVec 64 :=
  if k.hasBank b then lanesOf k.en.badBank (bankKey b l) ||| lanesOf k.en.onceBank (bankKey b l) else 0

/-- Those among them whose error a second attempt of an item's piece meets again (R300). -/
def lastingLanes (k : Coach) (b : BitVec 6) (l : BitVec 14) : BitVec 64 :=
  if k.hasBank b then lanesOf k.en.badBank (bankKey b l) else 0

/-- The lanes of a line that carry a single-bit error, which a read corrects and counts (R18, R371). -/
def softLanes (k : Coach) (b : BitVec 6) (l : BitVec 14) : BitVec 64 :=
  if k.hasBank b then lanesOf k.en.softBank (bankKey b l) else 0

/-- A line as a read delivers it: lanes with an uncorrectable error as zero (R321). -/
def readLine (k : Coach) (b : BitVec 6) (l : BitVec 14) : Line :=
  earlyLine k b l &&& ~~~(laneMask (badLanes k b l))

/-- The number of lanes of a set. -/
def laneCount (m : BitVec 64) : Nat := ((List.range 64).filter fun l => m.getLsbD l).length

/-- The lowest lane of a set, 64 when empty. -/
def firstLane (m : BitVec 64) : Nat := ((List.range 64).find? fun l => m.getLsbD l).getD 64

end Sys2Proof.Machine
end

