-- ==== Sys2Proof/Machine/Control.lean ====
section
/-! DEFINITION. The control operations of the header (spec/11_bundle.md R166 to R174, spec/14_control_scalar.md R208 to
R221). A control operation executes on the master when its bundle issues; the frame gives the bundle's index. -/

namespace Sys2Proof.Machine

open Sys2Proof

/-- The bundle that follows the last bundle `i` of zero or more bodies without a taken transfer (R172): its index, the
levels left, and whether a yield-safe back-edge is taken. -/
def loopAdvance : List LoopLevel → Nat → Nat × List LoopLevel × Bool
  | [], i => (i + 1, [], false)
  | l :: t, i =>
    if i = l.last then (if 1 < l.left then (l.first, { l with left := l.left - 1 } :: t, l.ys) else loopAdvance t i)
    else (i + 1, l :: t, false)

/-- The levels left after a transfer to a target: a level whose body the target leaves is popped, with every level
inside it (R172). -/
def breakTo : List LoopLevel → Nat → List LoopLevel
  | [], _ => []
  | l :: t, p => if l.first ≤ p && p ≤ l.last then l :: t else breakTo t p

/-- Make bundle `p` next in line after the bundle that issues in this ic with a hold and a redirect (R159). -/
def State.goTo (s : State) (p : Nat) (loops : List LoopLevel) (hold : Nat) (redirect : Nat) : State :=
  let t := (s.coach s.cur.master).ic
  s.onSq s.cur.master fun q =>
    { q with pc := p, loops := loops, loopBuf := if loops.isEmpty then [] else q.loopBuf,
             earliest := t + 1 + hold + redirect }

/-- Whether a pre-emption request lets the unit yield now (R69, R215, R331). -/
def Seq.mayYield (q : Seq) : Bool := q.preempt.isSome && !q.inh

/-- What follows the last bundle `i` of zero or more bodies, with a redirect: loop back-edges and exits (R172); a yield-safe
back-edge under a request begins the yield (R69, R171). -/
def State.goAfter (s : State) (i hold redirect : Nat) : State :=
  let q := s.msq
  let n := loopAdvance q.loops i
  let s := s.goTo n.1 n.2.1 hold redirect
  if n.2.2 && q.mayYield then s.onSq s.cur.master fun q => { q with phase := .draining false } else s

/-- Sequential flow (R172). -/
def State.goNext (s : State) (i hold : Nat) : State := s.goAfter i hold 0

/-- Test `j` of a TREE (R168): condition bits as they stand. -/
def treeTest (q : Seq) (e3 : Lane) (j : Nat) : Bool :=
  cread q (e3.extractLsb' (5 * j) 4) != e3.getLsbD (5 * j + 4)

/-- The path a TREE takes (R169). -/
def treePath (q : Seq) (e3 : Lane) : Nat :=
  let nt := (e3.extractLsb' 20 2).toNat
  if e3.extractLsb' 22 2 = 0 then
    match (List.range (nt + 1)).find? fun j => treeTest q e3 j with
    | some j => j + 1
    | none => 0
  else if !treeTest q e3 0 then 0
  else 1 + (if treeTest q e3 1 then 1 else 0) + 2 * (if treeTest q e3 2 then 1 else 0)

/-- Signed offset of path `p` of 1 to 4 (R168). -/
def treeOfs (fr : Frame) (p : Nat) : Int :=
  let e := extWord fr ((p - 1) / 2)
  (if p % 2 = 1 then e.extractLsb' 0 16 else e.extractLsb' 16 16).toInt

/-- TREE (R168, R169): the taken path's target is a transfer; path 0 falls through. -/
def execTree (h : BitVec 4) (_w : BitVec 1) (_t : BitVec 4) (_x : BitVec 5) (s : State) : Outcome :=
  let p := treePath s.msq (extWord s.cur 3)
  .next <|
    if p = 0 then s.goNext s.cur.index h.toNat
    else
      let tgt := ((s.cur.index : Int) + treeOfs s.cur p).toNat
      s.goTo tgt (breakTo s.msq.loops tgt) h.toNat 2

/-- JUMP (R209): a transfer to the index, breaking out of the bodies it leaves. -/
def execJump (h : BitVec 4) (_w : BitVec 1) (_t : BitVec 4) (_x : BitVec 5) (i : BitVec 14) (s : State) : Outcome :=
  .next (s.goTo i.toNat (breakTo s.msq.loops i.toNat) h.toNat 2)

/-- CALL (R210, R211): push the following index, move the window base in the next ic, transfer. -/
def execCall (h : BitVec 4) (_w : BitVec 1) (_t : BitVec 4) (_x : BitVec 5) (i : BitVec 14) (s : State) : Outcome :=
  let t := (s.coach s.cur.master).ic
  let s := s.goTo i.toNat s.msq.loops h.toNat 2
  .next <| s.onSq s.cur.master fun q =>
    { q with rstk := BitVec.ofNat 15 (s.cur.index + 1) :: q.rstk, winNext := some (t + 1, q.winBase + 12) }

/-- RET (R210, R211): pop the return stack, move the window base back in the next ic, transfer. -/
def execRet (h : BitVec 4) (_w : BitVec 1) (_t : BitVec 4) (_x : BitVec 5) (s : State) : Outcome :=
  let t := (s.coach s.cur.master).ic
  match s.msq.rstk with
  | [] => .next (takeTrap s.cur.master 0x01 0 (zx (BitVec.ofNat 15 s.cur.index) ||| 0x1F0000) false s)
  | a :: r =>
    let s := s.goTo a.toNat s.msq.loops h.toNat 2
    .next <| s.onSq s.cur.master fun q => { q with rstk := r, winNext := some (t + 1, q.winBase - 12) }

/-- LOOP (R171, R172): trip count 0 skips the body as a transfer, which for the enclosing levels counts as the issue of
the body's last bundle; otherwise the level is pushed and the body begins. -/
def execLoop (h : BitVec 4) (_w : BitVec 1) (_t : BitVec 4) (_x : BitVec 5) (_l : BitVec 3) (n : BitVec 5) (g : BitVec 5)
    (y : BitVec 1) (s : State) : Outcome :=
  let q := s.msq
  let first := s.cur.index + 1
  let last := first + n.toNat
  let trips := ((xread q g).truncate 32 : BitVec 32).toNat
  .next <|
    if trips = 0 then s.goAfter last h.toNat 2
    else s.goTo first ({ first := first, last := last, left := trips, ys := y = 1 } :: q.loops) h.toNat 0

/-- TRAP (R213): the software trap is taken at the bundle that would have issued next. In the last bundle of a yield-safe body
with a request standing, the yield begins first and the trap is taken when the unit goes on (log 46, DESIGN CHOICE). -/
def execTrap (h : BitVec 4) (_w : BitVec 1) (_t : BitVec 4) (_x : BitVec 5) (c : BitVec 14) (s : State) : Outcome :=
  let s := s.goNext s.cur.index h.toNat
  .next (s.onSq s.cur.master fun q => { q with postTrap := some (0x02, c) })

/-- YIELD (R215): with a request standing and outside the handler, issue stops and results land; otherwise CTL 0. -/
def execYield (h : BitVec 4) (_w : BitVec 1) (_t : BitVec 4) (_x : BitVec 5) (s : State) : Outcome :=
  let y := s.msq.mayYield
  let s := s.goNext s.cur.index h.toNat
  .next (if y then s.onSq s.cur.master fun q => { q with phase := .draining false } else s)

/-- Whether an item of a context is an MTILE that a trap has stopped: with the held state discarded it performs no further firing
and does not post (R74, R294, R331). -/
def Seq.stoppedTile (q : Seq) (t : Tile) : Bool := t.stopped && q.items.any fun it => it.id = t.item && it.sub = 0x7FF && !it.hnd

/-- Discard what a trap has set aside (R331): the tiles that it stopped go, with their items. -/
def State.dropHeld (s : State) (m : BitVec 3) : State :=
  let q := (s.coach m).sq
  let gone := (s.members m).flatMap fun c => ((s.coach c).en.tiles.filter q.stoppedTile).map (·.item)
  let s := (s.members m).foldl (fun s c => s.onEn c fun e => { e with tiles := e.tiles.filter fun t => !q.stoppedTile t }) s
  s.onSq m fun q => { q with held := none, items := q.items.filter fun it => !(it.sub = 0x7FF && gone.contains it.id) }

/-- EXIT (R216, R331): issue ends, a pre-emption request is withdrawn, what a trap had set aside is discarded. -/
def execExit (_h : BitVec 4) (_w : BitVec 1) (_t : BitVec 4) (_x : BitVec 5) (s : State) : Outcome :=
  let m := s.cur.master
  .next ((if s.msq.inh then s.dropHeld m else s).onSq m fun q => { q with phase := .exited, preempt := none })

/-- RTT (R217, R332): the resume point is next in line at the later of t + 1 + HOLD + 2 and the ic after the last
handler operation's execution, and the handler is left in that ic (`State.comeBack`). -/
def execRtt (h : BitVec 4) (_w : BitVec 1) (_t : BitVec 4) (_x : BitVec 5) (s : State) : Outcome :=
  let m := s.cur.master
  let last := ((s.members m).map fun c => lastSkew (s.coach c)).foldl max 0
  let r := max ((s.coach m).ic + 1 + h.toNat + 2) (last + 1)
  .next (s.onSq m fun q => { q with back := some r, earliest := r })

/-- Entry `i` of a bucket table (R219). -/
def bucketEntry (q : Seq) (e0 : Lane) (i : Nat) : Word := ssWord q.ss ((e0.extractLsb' 0 18).toNat + 8 * i)

/-- The bucket a BSEL chooses: the first of `n` + 1 entries whose SIZE is at least `d` (R220). -/
def bucketFor (q : Seq) (e0 : Lane) (n d : Nat) : Option Nat :=
  (List.range (n + 1)).find? fun i => d ≤ wfld (bucketEntry q e0 i) 0 32

/-- sy.padr after a BSEL that chose bucket `k` for a dimension `d` (R220, R221). -/
def bucketPadr (ent : Word) (k d : Nat) : BitVec 29 :=
  let per := 2 ^ wfld ent 46 2
  let epl := 64 * per
  let size := wfld ent 0 32
  let lines := min ((size + epl - 1) / epl - (d + epl - 1) / epl) 65535
  let r := d % epl
  let vl := if r = 0 then 64 else (r + per - 1) / per
  BitVec.ofNat 29 (lines + vl * 2 ^ 16 + k * 2 ^ 24)

/-- BSEL (R219, R220): the chosen bucket is a transfer and fills sy.padr; without one, MISS is set and flow goes on. -/
def execBsel (h : BitVec 4) (_w : BitVec 1) (_t : BitVec 4) (_x : BitVec 5) (k : BitVec 4) (r : BitVec 5) (s : State) :
    Outcome :=
  let q := s.msq
  let e0 := extWord s.cur 0
  let d := ((xread q r).truncate 32 : BitVec 32).toNat
  .next <|
    match bucketFor q e0 k.toNat d with
    | some b =>
      let ent := bucketEntry q e0 b
      let s := s.goTo (wfld ent 32 14) q.loops h.toNat 2
      s.result s.cur.master 1 0 (.sy 0x026 (zx (bucketPadr ent b d)))
    | none =>
      let s := s.goNext s.cur.index h.toNat
      s.result s.cur.master 1 0 (.sy 0x026 (zx (q.padr ||| 0x10000000)))

/-- BRK (R214): the breakpoint trap when sy.brk.EN is 1, otherwise CTL 0. -/
def execBrk (h : BitVec 4) (_w : BitVec 1) (_t : BitVec 4) (_x : BitVec 5) (c : BitVec 14) (s : State) : Outcome :=
  let en := s.msq.brk
  let s := s.goNext s.cur.index h.toNat
  .next (if en then s.onSq s.cur.master fun q => { q with postTrap := some (0x03, c) } else s)

end Sys2Proof.Machine
end

