-- ==== Sys2Proof/Machine/Scalar.lean ====
section
/-! DEFINITION. The scalar instructions (spec/14_control_scalar.md R222 to R238). A scalar operation acts on the
master's state; its result is put on its way with the latency of R175. -/

namespace Sys2Proof.Machine

open Sys2Proof

/-- x[r] of the master, as it stands in the execution ic. -/
def State.xr (s : State) (r : BitVec 5) : Word := xread s.msq r

/-- A register–register operation of latency 1 (R223). -/
def aluRR (f : Word → Word → Word) (d a b : BitVec 5) (s : State) : State := s.resultX 1 d (f (s.xr a) (s.xr b))

/-- ADD (R223). -/
def execAdd (d a b : BitVec 5) (s : State) : Outcome := .next (aluRR (· + ·) d a b s)
/-- SUB (R223). -/
def execSub (d a b : BitVec 5) (s : State) : Outcome := .next (aluRR (· - ·) d a b s)
/-- AND (R223). -/
def execAnd (d a b : BitVec 5) (s : State) : Outcome := .next (aluRR (· &&& ·) d a b s)
/-- OR (R223). -/
def execOr (d a b : BitVec 5) (s : State) : Outcome := .next (aluRR (· ||| ·) d a b s)
/-- XOR (R223). -/
def execXor (d a b : BitVec 5) (s : State) : Outcome := .next (aluRR (· ^^^ ·) d a b s)
/-- ANDN (R223). -/
def execAndn (d a b : BitVec 5) (s : State) : Outcome := .next (aluRR (fun x y => x &&& ~~~y) d a b s)

/-- A shift amount: the low six bits (R223). -/
def shAmt (o : Word) : Nat := (o.truncate 6 : BitVec 6).toNat

/-- SHL (R223). -/
def execShl (d a b : BitVec 5) (s : State) : Outcome := .next (aluRR (fun x y => x <<< shAmt y) d a b s)
/-- SHR (R223). -/
def execShr (d a b : BitVec 5) (s : State) : Outcome := .next (aluRR (fun x y => x >>> shAmt y) d a b s)
/-- SAR (R223). -/
def execSar (d a b : BitVec 5) (s : State) : Outcome := .next (aluRR (fun x y => x.sshiftRight (shAmt y)) d a b s)
/-- MIN, signed (R223). -/
def execMin (d a b : BitVec 5) (s : State) : Outcome := .next (aluRR (fun x y => if x.slt y then x else y) d a b s)
/-- MAX, signed (R223). -/
def execMax (d a b : BitVec 5) (s : State) : Outcome := .next (aluRR (fun x y => if x.slt y then y else x) d a b s)
/-- MINU (R223). -/
def execMinu (d a b : BitVec 5) (s : State) : Outcome := .next (aluRR (fun x y => if x.ult y then x else y) d a b s)
/-- MAXU (R223). -/
def execMaxu (d a b : BitVec 5) (s : State) : Outcome := .next (aluRR (fun x y => if x.ult y then y else x) d a b s)

/-- The number of one bits of a word. -/
def popWord (x : Word) : Nat := ((List.range 64).filter fun i => x.getLsbD i).length
/-- The number of leading zero bits of a word: 64 for zero. -/
def clzWord (x : Word) : Nat := if x = 0 then 64 else 63 - Nat.log2 x.toNat

/-- CLZ (R224). -/
def execClz (d a : BitVec 5) (s : State) : Outcome := .next (s.resultX 1 d (BitVec.ofNat 64 (clzWord (s.xr a))))
/-- POPC (R224). -/
def execPopc (d a : BitVec 5) (s : State) : Outcome := .next (s.resultX 1 d (BitVec.ofNat 64 (popWord (s.xr a))))

/-- MUL (R225). -/
def execMul (d a b : BitVec 5) (s : State) : Outcome := .next (s.resultX 3 d (s.xr a * s.xr b))
/-- MULH: the upper half of the signed product (R225). -/
def execMulh (d a b : BitVec 5) (s : State) : Outcome :=
  .next (s.resultX 3 d (BitVec.ofInt 64 ((s.xr a).toInt * (s.xr b).toInt / 2 ^ 64)))
/-- MULHU: the upper half of the unsigned product (R225). -/
def execMulhu (d a b : BitVec 5) (s : State) : Outcome :=
  .next (s.resultX 3 d (BitVec.ofNat 64 ((s.xr a).toNat * (s.xr b).toNat / 2 ^ 64)))

/-- SEL (R226): c[CS] as it stands in the execution ic. -/
def execSel (d a b : BitVec 5) (c : BitVec 4) (s : State) : Outcome :=
  .next (s.resultX 1 d (if cread s.msq c then s.xr a else s.xr b))

/-- ADDI (R223). -/
def execAddi (d a : BitVec 5) (i : BitVec 16) (s : State) : Outcome := .next (s.resultX 1 d (s.xr a + sx i))
/-- ANDI (R223). -/
def execAndi (d a : BitVec 5) (i : BitVec 16) (s : State) : Outcome := .next (s.resultX 1 d (s.xr a &&& zx i))
/-- ORI (R223). -/
def execOri (d a : BitVec 5) (i : BitVec 16) (s : State) : Outcome := .next (s.resultX 1 d (s.xr a ||| zx i))
/-- XORI (R223). -/
def execXori (d a : BitVec 5) (i : BitVec 16) (s : State) : Outcome := .next (s.resultX 1 d (s.xr a ^^^ zx i))
/-- SHLI (R223). -/
def execShli (d a : BitVec 5) (i : BitVec 6) (s : State) : Outcome := .next (s.resultX 1 d (s.xr a <<< i.toNat))
/-- SHRI (R223). -/
def execShri (d a : BitVec 5) (i : BitVec 6) (s : State) : Outcome := .next (s.resultX 1 d (s.xr a >>> i.toNat))
/-- SARI (R223). -/
def execSari (d a : BitVec 5) (i : BitVec 6) (s : State) : Outcome := .next (s.resultX 1 d ((s.xr a).sshiftRight i.toNat))

/-- LIW (R227): the extension word, sign-extended. -/
def execLiw (d : BitVec 5) (e : BitVec 2) (s : State) : Outcome := .next (s.resultX 1 d (sx (extWord s.cur e.toNat)))
/-- LID (R227): an extension pair, the low word in the even syllable. -/
def execLid (d : BitVec 5) (e : BitVec 1) (s : State) : Outcome :=
  .next (s.resultX 1 d (extWord s.cur (2 * e.toNat + 1) ++ extWord s.cur (2 * e.toNat)))

/-- A scalar relation by compare code (R196, R228). -/
def scalarRel (cc : BitVec 3) (a o : Word) : Bool :=
  match cc.toNat with
  | 0 => a = o
  | 1 => a ≠ o
  | 2 => a.slt o
  | 3 => !a.slt o
  | 4 => a.ult o
  | 5 => !a.ult o
  | 6 => a &&& o ≠ 0
  | _ => a &&& o = 0

/-- CMP (R228). -/
def execCmp (c : BitVec 4) (a : BitVec 5) (k : BitVec 3) (b : BitVec 5) (s : State) : Outcome :=
  .next (s.resultC c (scalarRel k (s.xr a) (s.xr b)))
/-- CMPI (R228). -/
def execCmpi (c : BitVec 4) (a : BitVec 5) (k : BitVec 3) (i : BitVec 13) (s : State) : Outcome :=
  .next (s.resultC c (scalarRel k (s.xr a) (sx i)))

/-- A truth table of two bits (R192). -/
def lopBit (l : BitVec 4) (a b : Bool) : Bool := l.getLsbD ((if a then 2 else 0) + (if b then 1 else 0))

/-- CSET (R229). -/
def execCset (d a b l : BitVec 4) (s : State) : Outcome :=
  .next (s.resultC d (lopBit l (cread s.msq a) (cread s.msq b)))

/-- LD (R230). -/
def execLd (d a : BitVec 5) (z : BitVec 2) (g : BitVec 1) (o : BitVec 13) (s : State) : Outcome :=
  let n := 2 ^ z.toNat
  let v := peekBytes s.msq.ss (scalarEa (s.xr a) o n) n
  let w := BitVec.ofNat 64 v
  let ext := if g = 1 then BitVec.ofInt 64 (if 2 ^ (8 * n - 1) ≤ v then (v : Int) - 2 ^ (8 * n) else v) else w
  .next (s.resultX 3 d ext)
/-- ST (R230). -/
def execSt (x a : BitVec 5) (z : BitVec 2) (o : BitVec 13) (s : State) : Outcome :=
  let n := 2 ^ z.toNat
  .next (s.result s.cur.master 1 0 (.ss (scalarEa (s.xr a) o n) n (s.xr x)))

/-- MBR (R231). -/
def execMbr (d : BitVec 5) (m : BitVec 4) (s : State) : Outcome := .next (s.resultX 2 d (vrd s.msq.mb m.toNat 0))
/-- MBW (R231). -/
def execMbw (x : BitVec 5) (m : BitVec 4) (s : State) : Outcome :=
  .next (s.result s.cur.master 1 0 (.mb m (s.xr x)))

/-- sy.cid (R32). -/
def cidWord (s : State) (c : BitVec 3) : Word :=
  let (g, m, ms) := match (s.coach c).unit with
    | some u => (u.gsize.toNat, u.member.toNat, u.master.toNat)
    | none => (0, 0, c.toNat)
  BitVec.ofNat 64 (c.toNat + (c.toNat / 4) * 8 + g * 16 + m * 64 + ms * 256)

/-- A system register as SRR reads it on the master (R232). -/
def sysRead (s : State) (n : BitVec 12) : Word :=
  let m := s.cur.master
  let k := s.coach m
  let q := k.sq
  let flag (b : Bool) : Word := if b then 1 else 0
  match n.toNat with
  | 0x000 => cidWord s m
  | 0x001 => q.unitReg
  | 0x002 => q.gridReg
  | 0x003 => zx q.winBase
  | 0x004 => zx (q.rstk.headD 0) ||| BitVec.ofNat 64 (q.rstk.length * 2 ^ 15)
  | 0x005 => q.cyc
  | 0x006 => s.hub.pbeat
  | 0x010 => zx (q.bindNow k.ic).1
  | 0x011 => zx (q.bindNow k.ic).2
  | 0x018 => zx q.hb
  | 0x019 => zx q.hl
  | 0x01A => zx q.ho
  | 0x01B => zx q.ptr
  | 0x020 => zx (s.fflagOr m)
  | 0x021 => zx k.en.va.seed
  | 0x022 => zx k.en.vb.seed
  | 0x023 => zx k.en.vc.seed
  | 0x024 => flag (q.auditNow k.ic)
  | 0x025 => flag q.brk
  | 0x026 => zx q.padr
  | 0x028 => zx (vrd q.zs 0 0)
  | 0x029 => zx (vrd q.zs 1 0)
  | 0x02A => zx (vrd q.zs 2 0)
  | 0x02B => zx (vrd q.zs 3 0)
  | 0x030 =>
    let v := latchFor k.en s.cur.bno
    zx v ||| BitVec.ofNat 64 (latchK v * 2 ^ 16)
  | 0x031 => zx k.en.mgeom
  | 0x040 => zx q.epc
  | 0x041 => zx q.ecause
  | 0x042 => q.earg
  | 0x043 =>
    flag q.inh ||| BitVec.ofNat 64 (q.qlen.toNat * 2 + (if q.disc then 1024 else 0) + q.ldep.toNat * 2 ^ 11 +
      q.rdep.toNat * 2 ^ 14 + (if (if q.inh then !q.pending.isEmpty || q.preempt.isSome else q.pend) then 2 ^ 17 else 0))
  | _ => 0

/-- SRR (R233). -/
def execSrr (d : BitVec 5) (n : BitVec 12) (s : State) : Outcome := .next (s.resultX 2 d (sysRead s n))

/-- The minimum skew of a binding (R37). -/
def minSkew (gsize : BitVec 2) (b : Nat) : Nat :=
  if gsize = 1 then (if b = 0 then 0 else 12)
  else if gsize = 2 then (if b = 0 then 0 else if b = 1 || b = 3 then 12 else 24)
  else 0

/-- Whether a value of sy.gbind is allowed (R35). -/
def bindsOk (gsize : BitVec 2) (bind : BitVec 36) : Bool :=
  (List.range 9).all fun i =>
    let b := (bind.extractLsb' (4 * i) 4).toNat
    b < gangSize gsize || b = 15

/-- Whether values of sy.gbind and sy.gskew are allowed together (R35, R37). -/
def gangOk (gsize : BitVec 2) (bind : BitVec 36) (skew : BitVec 54) : Bool :=
  (List.range 9).all fun i =>
    let b := (bind.extractLsb' (4 * i) 4).toNat
    (b < gangSize gsize || b = 15) && minSkew gsize b ≤ (skew.extractLsb' (6 * i) 6).toNat

/-- The slots of R35 in which two settings differ. -/
def gangDiff (b b' : BitVec 36) (k k' : BitVec 54) : BitVec 9 :=
  BitVec.ofNat 9 (((List.range 9).map fun i =>
    if b.extractLsb' (4 * i) 4 = b'.extractLsb' (4 * i) 4 && k.extractLsb' (6 * i) 6 = k'.extractLsb' (6 * i) 6 then 0
    else 2 ^ i).sum)

/-- A write of a system register by a bundle (R233): it lands at the next ic; sy.gbind and sy.gskew govern 64 ics later
(R38), sy.audit 2 ics later (R183), sy.fflag and the seeds reach every member (R92, R95). Of two writes of sy.gbind or of sy.gskew in
one bundle the later one stands (R233). -/
def sysWrite (s : State) (n : BitVec 12) (v : Word) : State :=
  let m := s.cur.master
  let k := s.coach m
  if n = 0x010 || n = 0x011 then
    let now := k.sq.bindNow k.ic
    let bind := if n = 0x010 then v.truncate 36 else now.1
    let skew := if n = 0x011 then v.truncate 54 else now.2
    let g : GangWrite :=
      { bind := if n = 0x010 then some bind else none, skew := if n = 0x011 then some skew else none, due := k.ic + 64,
        slots := gangDiff bind now.1 skew now.2 }
    s.onSq m fun q =>
      { q.bindTake k.ic with gang := ((q.bindTake k.ic).gang.filter fun o => !(o.due = g.due && o.bind.isSome = g.bind.isSome)) ++ [g] }
  else if n = 0x024 then
    s.onSq m fun q => { q.auditTake k.ic with auditNext := (q.auditTake k.ic).auditNext ++ [(k.ic + 2, s.cur.seq, v.getLsbD 0)] }
  else if n = 0x020 || n = 0x021 || n = 0x022 || n = 0x023 then
    (s.members m).foldl (fun s c => s.result c 1 0 (.sy n v)) s
  else s.result m 1 0 (.sy n v)

/-- SRW (R233). -/
def execSrw (x : BitVec 5) (n : BitVec 12) (s : State) : Outcome := .next (sysWrite s n (s.xr x))
/-- SRSET (R233): the register as it stands, with the bits of x[XS] set. -/
def execSrset (x : BitVec 5) (n : BitVec 12) (s : State) : Outcome := .next (sysWrite s n (sysRead s n ||| s.xr x))
/-- SRCLR (R233): the register as it stands, with the bits of x[XS] cleared. -/
def execSrclr (x : BitVec 5) (n : BitVec 12) (s : State) : Outcome := .next (sysWrite s n (sysRead s n &&& ~~~(s.xr x)))

/-- Cluster of a CL field (R194). -/
def clOf (c : BitVec 2) : Cl := if c = 1 then .b else if c = 2 then .c else .a

/-- MVX (R235): on the master's cluster. -/
def execMvx (d : BitVec 5) (c : BitVec 2) (v : BitVec 5) (l : BitVec 6) (s : State) : Outcome :=
  .next (s.resultX 3 d (zx (laneOf (vsrc (s.coach s.cur.master).en (clOf c) v) l.toNat)))
/-- MXV (R235): one lane of the destination; on register 30 the other lanes present zero. -/
def execMxv (x : BitVec 5) (c : BitVec 2) (v : BitVec 5) (l : BitVec 6) (s : State) : Outcome :=
  let k : BitVec 64 := BitVec.ofNat 64 (2 ^ l.toNat)
  let w := ofLanes fun _ => (s.xr x).truncate 32
  let d : Dest := if v = 30 then .oport (BitVec.ofNat 6 (clOf c).num) (laneMask k) (w &&& laneMask k)
    else .vr (clOf c) v (laneMask k) w
  .next (s.result s.cur.master 3 0 d)

/-- The members that a binding field of sy.gbind names (R35), as coaches. -/
def boundTo (s : State) (m : BitVec 3) (b : Nat) : List (BitVec 3) :=
  let ms := s.members m
  if b = 15 then ms else (ms[b]?).toList

/-- An address-generator setup (R238): it reaches the members that BN names, SN ics later, after the routes of that ic. -/
def agSetup (s : State) (g : BitVec 6) (p : AgPart) : State :=
  let k := s.coach s.cur.master
  let now := k.sq.bindNow k.ic
  let sn := (now.2.extractLsb' 0 6).toNat
  (boundTo s s.cur.master (now.1.extractLsb' 0 4).toNat).foldl (fun s c => s.result c sn 0 (.ag g p)) s

/-- AGB (R236). -/
def execAgb (g : BitVec 6) (a : BitVec 5) (s : State) : Outcome := .next (agSetup s g (.base ((s.xr a).truncate 14)))
/-- AGL (R236). -/
def execAgl (g : BitVec 6) (l : BitVec 3) (b t : BitVec 5) (s : State) : Outcome :=
  .next (agSetup s g (.level l.toNat ((s.xr b).truncate 16) ((s.xr t).truncate 14)))
/-- AGP (R236, R237). -/
def execAgp (g : BitVec 6) (a : BitVec 5) (s : State) : Outcome := .next (agSetup s g (.pad ((s.xr a).truncate 28)))
/-- AGR (R236). -/
def execAgr (g : BitVec 6) (s : State) : Outcome := .next (agSetup s g .zero)

end Sys2Proof.Machine
end

