-- ==== Sys2Proof/Machine/Memory.lean ====
section
/-! DEFINITION. Memory spaces: the placement of HBM addresses, the page walk, pins, views, and words of HBM, second tier,
host memory and views as each accessor sees them (spec/07_memory.md, spec/09_ordering.md R149 to R152,
spec/25_fabric.md R361). -/

namespace Sys2Proof.Machine

open Sys2Proof

/-! ### HBM placement (R103) -/

/-- Stack and stack-local offset of an HPA, as one key: stack·2^36 + offset. -/
def hbmKey (mode : BitVec 2) (hpa : Nat) : Nat :=
  let lo := hpa % 4096
  let b12 := hpa / 4096
  if mode = 0 then ((b12 % 8) ^^^ (hpa / 32768 % 8)) * 2 ^ 36 + hpa / 32768 % 2 ^ 24 * 4096 + lo
  else if mode = 1 then
    (hpa / 2 ^ 38 % 2 * 4 + ((b12 % 4) ^^^ (hpa / 16384 % 4))) * 2 ^ 36 + hpa / 16384 % 2 ^ 24 * 4096 + lo
  else hpa % 2 ^ 39

/-- The HPA that a key stands for. -/
def hpaOf (mode : BitVec 2) (key : Nat) : Nat :=
  let st := key / 2 ^ 36
  let off := key % 2 ^ 36
  let hi := off / 4096
  let lo := off % 4096
  if mode = 0 then hi * 32768 + (st ^^^ (hi % 8)) * 4096 + lo
  else if mode = 1 then st / 4 * 2 ^ 38 + hi * 16384 + ((st % 4) ^^^ (hi % 4)) * 4096 + lo
  else key

/-- `n` bytes of HBM at an HPA, least significant first; the bytes lie in one 4 KiB block. -/
def State.hbmNat (s : State) (hpa n : Nat) : Nat := peekBytes s.hbm (hbmKey s.hub.mode hpa) n

/-- Put `n` bytes of HBM at an HPA within one 4 KiB block. -/
def State.hbmPut (s : State) (hpa n v : Nat) : State :=
  { s with hbm := pokeBytes s.hbm (hbmKey s.hub.mode hpa) n v }

/-! ### The page walk (R106, R107) -/

/-- A leaf: permissions, kind, whether shared, target, log2 of the page size, and the HPA of its entry. -/
structure Leaf where
  rd   : Bool
  wr   : Bool
  kind : Nat
  shrd : Bool
  tgt  : Nat
  size : Nat
  entry : Nat
  deriving DecidableEq, Repr

/-- The levels of a walk: lowest indexed bit, index bits, whether a leaf is permitted, alignment of the next table. -/
def walkLevels : List (Nat × Nat × Bool × Nat) :=
  [(48, 8, false, 4096), (39, 9, false, 4096), (30, 9, true, 4096), (21, 9, true, 256), (16, 5, true, 0)]

/-- Read a leaf entry. -/
def leafOf (e shift entry : Nat) : Except Nat Leaf :=
  let tgt := e / 2 ^ 16 % 2 ^ 40 * 2 ^ 16
  let kind := e / 16 % 8
  if e / 256 % 256 ≠ 0 || e / 2 ^ 56 ≠ 0 || 4 ≤ kind || tgt % 2 ^ shift ≠ 0 then .error 3
  else if (kind = 0 && 2 ^ 39 ≤ tgt) || (kind = 1 && 2 ^ 43 ≤ tgt) then .error 3
  else .ok { rd := e / 4 % 2 = 1, wr := e / 8 % 2 = 1, kind := kind, shrd := e / 128 % 2 = 1, tgt := tgt, size := shift,
             entry := entry }

/-- The table that a pointer entry leads to; none for an entry that ends the walk with cause 3 (R107). -/
def nextTable (e align : Nat) : Option Nat :=
  let nxt := e / 256 % 2 ^ 31 * 256
  if align = 0 || e / 4 % 64 ≠ 0 || e / 2 ^ 39 ≠ 0 || nxt % align ≠ 0 then none else some nxt

/-- Walk the levels from a table: a leaf, or the fault cause (R110). -/
def walkFrom (s : State) : List (Nat × Nat × Bool × Nat) → Nat → Nat → Except Nat Leaf
  | [], _, _ => .error 3
  | (shift, bits, leafOk, align) :: t, table, a =>
    let ad := table + 8 * (a / 2 ^ shift % 2 ^ bits)
    let key := hbmKey s.hub.mode ad
    if s.badHbm.any (fun b => b.1 = key / 4 || b.1 = key / 4 + 1) then .error 5
    else
      let e := s.hbmNat ad 8
      if e % 2 = 0 then .error 1
      else if e / 2 % 2 = 1 then (if leafOk then leafOf e shift ad else .error 3)
      else match nextTable e align with
        | some nxt => walkFrom s t nxt a
        | none => .error 3

/-- A translation record as it reads: BASE and LIMIT are multiples of 2^16 and ROOT is one of 2^11 (R104). -/
def JobRec.aligned (r : JobRec) : JobRec := { r with hb := r.hb >>> 16 <<< 16, hl := r.hl >>> 16 <<< 16, root := r.root >>> 11 <<< 11 }

/-- The translation record of a job (R104); without one, all zero. Log 30. -/
def Hub.job (h : Hub) (j : BitVec 8) : JobRec :=
  match h.jobs.find? (fun r => r.1 = j) with
  | some r => r.2.aligned
  | none => { hb := 0, hl := 0, ho := 0, root := 0 }

/-- Walk a job's tables for a DVA. -/
def State.walk (s : State) (root : Nat) (a : Nat) : Except Nat Leaf := walkFrom s walkLevels root a

/-- A walk that needs permissions: cause 2 where the leaf withholds one (R110). -/
def State.walkFor (s : State) (root a : Nat) (rd wr : Bool) : Except Nat Leaf :=
  match s.walk root a with
  | .ok l => if (rd && !l.rd) || (wr && !l.wr) then .error 2 else .ok l
  | .error e => .error e

/-- Where a DVA leads: the kinds of R107. -/
inductive Place where
  | hbm (hpa : Nat)
  | tier (a : Nat)
  | host (win off : Nat)
  | view (v off : Nat)
  deriving DecidableEq, Repr

/-- The place a leaf's kind and target give the aligned word of a DVA. -/
def placeOf (kind tgt size a : Nat) : Place :=
  let t := tgt + a / 4 * 4 % 2 ^ size
  if kind = 0 then .hbm t
  else if kind = 1 then .tier t
  else if kind = 2 then .host (t / 2 ^ 48 % 256) (t % 2 ^ 48)
  else .view (t / 2 ^ 48 % 256) (t % 2 ^ 48)

/-- Why an access does not go through: a translation miss (R109), a wait for an expansion or a migration, or the failure
of its item with a status code of R298 and a sub-code. -/
inductive Stop where
  | miss
  | wait
  | fail (status sub : Nat)
  deriving DecidableEq, Repr

/-- Whether a pin serves a DVA of a context. -/
def Pin.covers (p : Pin) (ctx : BitVec 12) (a : Nat) : Bool := p.ctx = ctx && p.page ≤ a && a < p.page + 2 ^ p.size

/-- Translate the word at a DVA for a command of a context on a coach (R102, R105, R109); `q` holds the context's window. A window's OFF
need not be a multiple of 4, so that the word may lie across two of HBM; no byte of it lies at 2^39 or beyond. -/
def State.itemPlace (s : State) (q : Seq) (c : BitVec 3) (ctx : BitVec 12) (a : Nat) (write : Bool) : Except Stop Place :=
  if q.hb.toNat ≤ a && a < q.hl.toNat then
    let hpa := (a + q.ho.toNat) % 2 ^ 56
    if 2 ^ 39 < hpa + 4 then .error .miss else .ok (.hbm hpa)
  else
    match (s.coach c).en.tlb.find? (fun p => p.covers ctx a) with
    | some p => if (write && p.wr) || (!write && p.rd) then .ok (placeOf p.kind.toNat p.tgt.toNat p.size a) else .error .miss
    | none => .error .miss

/-- The name of a page of a job in the lists of pages: job·2^56 + DVA. -/
def pageName (job : BitVec 8) (a : Nat) : Nat := job.toNat * 2 ^ 56 + a

/-- Whether a page of a job is under migration or expansion. -/
def Hub.onMove (h : Hub) (n : Nat) : Bool := h.moving.any (·.page = n) || h.expanding.any (·.page = n)

/-- Translate a DVA through a job's page tables for the hub, the host or a peer (R113, R385): the place and the name of
its page, or the fault cause. -/
def State.hubPlace (s : State) (job : BitVec 8) (a : Nat) (rd wr : Bool) : Except Nat (Place × Nat) :=
  match s.walkFor (s.hub.job job).root.toNat a rd wr with
  | .ok l => .ok (placeOf l.kind l.tgt l.size a, pageName job (a - a % 2 ^ l.size))
  | .error e => .error e

/-! ### Views (R117 to R119) -/

/-- A view entry of a job. -/
def Hub.viewEntry (h : Hub) (job : BitVec 8) (v : Nat) : BitVec 256 :=
  BitVec.ofNat 256 (((List.range 4).map fun w => (peek h.views (1024 * job.toNat + 4 * v + w)).toNat * 2 ^ (64 * w)).sum)

/-- A field of an entry. -/
def vf (g : BitVec 256) (lo n : Nat) : Nat := g.toNat / 2 ^ lo % 2 ^ n

/-- Element width in bits, elements per block row, rows and columns, tile sides, stack and first byte of an entry. -/
def vL (g : BitVec 256) : Nat := 2 ^ (vf g 40 2 + 2)
def vS (g : BitVec 256) : Nat := 2048 / vL g
def vRows (g : BitVec 256) : Nat := 64 * (vf g 64 20 + 1)
def vCols (g : BitVec 256) : Nat := (vf g 84 20 + 1) * vS g
def vTH (g : BitVec 256) : Nat := 2 ^ vf g 44 4
def vTW (g : BitVec 256) : Nat := 2 ^ vf g 48 4
def vStack (g : BitVec 256) : BitVec 3 := g.extractLsb' 36 3
def vSoff (g : BitVec 256) : Nat := vf g 0 36
/-- Bytes of a region's storage. -/
def vBytes (g : BitVec 256) : Nat := 16384 * (vf g 64 20 + 1) * (vf g 84 20 + 1)

/-- Whether an entry may be used (R117). -/
def vUsable (g : BitVec 256) : Bool :=
  vf g 39 1 = 1 && vf g 52 12 = 0 && vf g 104 152 = 0 && vf g 0 14 = 0 && vSoff g + vBytes g ≤ 2 ^ 36 &&
    (vf g 42 2 ≠ 2 || (vRows g % vTH g = 0 && vCols g % vTW g = 0))

/-- The view geometry of R149: the entry without VALID. -/
def vGeom (g : BitVec 256) : BitVec 256 := g &&& ~~~(BitVec.ofNat 256 (2 ^ 39))

/-- The element at logical index `n` of a matrix under a VKIND (the inverse of the table of R119). -/
def logicalRC (kind rows cols th tw e n : Nat) : Nat × Nat :=
  match kind with
  | 0 => (n / cols, n % cols)
  | 1 => (n % rows, n / rows)
  | 2 =>
    let t := n / (th * tw)
    let i := n % (th * tw)
    (t / (cols / tw) * th + i / tw, t % (cols / tw) * tw + i % tw)
  | _ => (n / (cols * e) * e + n % e, n / e % cols)

/-- The first bit of element (r, c) in its stack (R119). -/
def elemBit (g : BitVec 256) (r c : Nat) : Nat :=
  let blk := r / 64 * (vf g 84 20 + 1) + c / vS g
  let i := r % 64
  let p := c % vS g * vL g
  8 * (vSoff g + 16384 * blk + 256 * i) + 32 * ((p / 32 + i) % 64) + p % 32

/-- The bits of storage at a bit of a stack. -/
def storageBits (m : Store 8) (stack : BitVec 3) (bit size : Nat) : Nat :=
  peekBytes m (stack.toNat * 2 ^ 36 + bit / 8) ((size + 7) / 8) / 2 ^ (bit % 8) % 2 ^ size

/-- Put bits into storage. -/
def storagePut (m : Store 8) (stack : BitVec 3) (bit size v : Nat) : Store 8 :=
  let key := stack.toNat * 2 ^ 36 + bit / 8
  let n := (size + 7) / 8
  let old := peekBytes m key n
  let lo := old % 2 ^ (bit % 8)
  let hi := old / 2 ^ (bit % 8 + size) * 2 ^ (bit % 8 + size)
  pokeBytes m key n (hi + v % 2 ^ size * 2 ^ (bit % 8) + lo)

/-- Whether a view write lies over some bits. -/
def ViewWrite.over (w : ViewWrite) (stack : BitVec 3) (bit size : Nat) : Bool :=
  w.stack = stack && w.bit < bit + size && bit < w.bit + w.size

/-- A value of some bits with a view write's bits put over it. -/
def ViewWrite.onto (w : ViewWrite) (bit size old v : Nat) : Nat :=
  ((List.range size).map fun i =>
    let b := bit + i
    (if w.bit ≤ b && b < w.bit + w.size then v / 2 ^ (b - w.bit) % 2 else old / 2 ^ i % 2) * 2 ^ i).sum

/-- When a context last emptied its view read buffers (R150). -/
def State.emptiedAt (s : State) (ctx : BitVec 12) : Nat :=
  match s.viewEmptied.find? (fun e => e.1 = ctx) with
  | some e => e.2
  | none => 0

/-- What some bits held after each of a list of writes over them, in coherence order (R135). -/
def viewHistory (bit size : Nat) : List ViewWrite → Nat → List Nat
  | [], v => [v]
  | w :: t, v => v :: viewHistory bit size t (w.onto bit size v w.v.toNat)

/-- How many of a list of writes there are up to the last that a test names. -/
def upToLast (f : ViewWrite → Bool) (l : List ViewWrite) : Nat :=
  (l.zipIdx.foldl (fun n p => if f p.1 then p.2 + 1 else n) 0)

/-- What some bits held before the first write of the log over them, and after each of those writes. -/
def State.viewValues (s : State) (stack : BitVec 3) (bit size : Nat) : List Nat :=
  let log := s.viewLog.filter fun w => w.over stack bit size
  viewHistory bit size log (log.foldr (fun w v => w.onto bit size v w.prior.toNat) (storageBits s.hbm stack bit size))

/-- Whether every read of a context through a geometry, or of the storage image when `g` is none, returns a write or a later one
(R149, R150): a write through the same geometry, one of storage that no buffer held, one merged before the context last emptied its
buffers. -/
def State.viewBound (s : State) (ctx : BitVec 12) (g : Option (BitVec 256)) (w : ViewWrite) : Bool :=
  decide (some w.geom = g) || w.direct || (match w.merged with | some m => decide (m < s.emptiedAt ctx) | none => false)

/-- Read one location of some bits for a context (R137, R149 to R151): what it holds after the last write over it that the context
is bound to see or has come to see by now. A write that it has seen once it sees always, so that no read returns an older value than
a read before it (log 9). -/
def viewUnit (s : State) (ctx : BitVec 12) (g : Option (BitVec 256)) (stack : BitVec 3) (bit size draw : Nat) : Nat :=
  if s.viewLog.isEmpty then storageBits s.hbm stack bit size
  else
    let seen := fun (w : ViewWrite) => s.viewBound ctx g w || decide (Config.viewSeen w.n bit ctx g ≤ draw)
    (s.viewValues stack bit size).getD (upToLast seen (s.viewLog.filter fun w => w.over stack bit size)) 0

/-- Read an element for a context: a half-byte element is read with the other half of its byte, as one location (R131). -/
def viewBits (s : State) (ctx : BitVec 12) (g : Option (BitVec 256)) (stack : BitVec 3) (bit size draw : Nat) : Nat :=
  if size = 4 then viewUnit s ctx g stack (bit / 8 * 8) 8 draw / 2 ^ (bit % 8) % 16 else viewUnit s ctx g stack bit size draw

/-- The writes that merge when write `n` does: those before it that have not merged and over which it lies, and so on
(R149: merges keep the coherence order). -/
def mergeSet (n : Nat) (log : List ViewWrite) : List ViewWrite :=
  log.foldr (fun w l =>
    if w.merged.isNone && (w.n = n || (w.n < n && l.any fun o => o.over w.stack w.bit w.size)) then w :: l else l) []

/-- Merge a view write into storage (R149). -/
def mergeOne (s : State) (n : Nat) : State :=
  let l := mergeSet n s.viewLog
  let k := s.viewClock
  { s with
    hbm := l.foldl (fun m w => storagePut m w.stack w.bit w.size w.v.toNat) s.hbm,
    viewClock := k + 1,
    viewLog := s.viewLog.map fun o => if l.any (fun w => w.n = o.n) then { o with merged := some k } else o }

/-- Merge the view writes that a test names, in coherence order. -/
def State.mergeViews (s : State) (f : ViewWrite → Bool) : State :=
  ((s.viewLog.filter fun w => w.merged = none && f w).map (·.n)).foldl mergeOne s

/-- Let a merged write go that no reader may look behind any more: later writes over its bits keep what it left. -/
def dropFirst (w : ViewWrite) (log : List ViewWrite) : List ViewWrite :=
  (log.filter fun o => o.n ≠ w.n).map fun o =>
    if o.over w.stack w.bit w.size then { o with prior := BitVec.ofNat 32 (w.onto o.bit o.size o.prior.toNat w.v.toNat) } else o

/-- Let the writes go that had merged before every running context last emptied its buffers, the earliest first. -/
def State.pruneViews (s : State) : State :=
  let seen := fun (m : Nat) => s.coaches.toList.all fun k => match k.unit with
    | some u => decide (m < s.emptiedAt u.ctx)
    | none => true
  let old := fun (w : ViewWrite) => match w.merged with | some m => seen m | none => false
  { s with viewLog := (s.viewLog.takeWhile old).foldl (fun l w => dropFirst w l) s.viewLog }

/-- Empty a context's view read buffers (R150). -/
def State.emptyViews (s : State) (ctx : BitVec 12) : State :=
  let k := s.viewClock
  ({ s with viewClock := k + 1, viewEmptied := (ctx, k) :: s.viewEmptied.filter fun e => e.1 ≠ ctx }).pruneViews

/-- Write one element through a geometry for a context's item: it waits in the geometry's buffer (R149). -/
def State.viewWrite (s : State) (ctx : BitVec 12) (item : Nat) (g : BitVec 256) (stack : BitVec 3) (bit size v : Nat) : State :=
  let w : ViewWrite :=
    { n := s.viewClock, stack := stack, bit := bit, size := size, v := BitVec.ofNat 32 v,
      prior := BitVec.ofNat 32 (storageBits s.hbm stack bit size), geom := g, ctx := ctx, item := item, merged := none,
      direct := false, launch := none }
  { s with viewClock := s.viewClock + 1, viewLog := s.viewLog ++ [w] }

/-- Write storage, and the log too where writes through views lie over the bits: after all of them, or, for an atomic, before those
that have not merged (R149, R152). No merged write of a location follows one of it that has not merged. -/
def State.directWrite (s : State) (atomic : Bool) (stack : BitVec 3) (bit size v : Nat) : State :=
  let hbm := storagePut s.hbm stack bit size v
  if s.viewLog.any fun w => w.over stack bit size then
    let k := s.viewClock
    let w : ViewWrite :=
      { n := k, stack := stack, bit := bit, size := size, v := BitVec.ofNat 32 v,
        prior := BitVec.ofNat 32 (storageBits s.hbm stack bit size), geom := 0, ctx := 0, item := 0, merged := some k, direct := true,
        launch := none }
    let first := fun (o : ViewWrite) => !atomic || o.merged.isSome
    { s with hbm := hbm, viewClock := k + 1, viewLog := s.viewLog.filter first ++ w :: s.viewLog.filter fun o => !first o }
  else { s with hbm := hbm }

/-- A write of storage that no buffer holds (R149): the writes that wait under it merge first, since merges keep the coherence order
(log 9). -/
def State.storageWrite (s : State) (stack : BitVec 3) (bit size v : Nat) : State :=
  (s.mergeViews fun w => w.over stack bit size).directWrite false stack bit size v

/-! ### Error counters (R371) -/

/-- Count errors in a counter (key 8·block + counter), which saturates. -/
def State.countErrors (s : State) (block counter n : Nat) : State :=
  if n = 0 then s
  else
    let v := (peek s.plat.errors (8 * block + counter)).toNat + n
    { s with plat := { s.plat with errors := poke s.plat.errors (8 * block + counter) (BitVec.ofNat 64 (min v (2 ^ 64 - 1))) } }

/-- Count one error. -/
def State.countError (s : State) (block counter : Nat) : State := s.countErrors block counter 1

/-! ### Words of a place -/

/-- Who accesses: an item of a context, the hub for the host, a peer or itself, or a stack engine for an atomic (R152). -/
inductive Who where
  | item (ctx : BitVec 12) (id : Nat)
  | hub
  | atomic
  deriving DecidableEq, Repr

/-- The elements of a word at a logical byte offset of a view: their bits in the stack, their width and their place in
the word. -/
def viewElems (g : BitVec 256) (off : Nat) : List (Nat × Nat × Nat) :=
  let l := vL g
  (List.range (32 / l)).map fun j =>
    let rc := logicalRC (vf g 42 2) (vRows g) (vCols g) (vTH g) (vTW g) (32 / l) (8 * off / l + j)
    (elemBit g rc.1 rc.2, l, l * j)

/-- Read a word through an entry. -/
def State.viewWord (s : State) (w : Who) (g : BitVec 256) (els : List (Nat × Nat × Nat)) (draw : Nat) : Lane :=
  BitVec.ofNat 32 ((els.map fun e =>
    (match w with
      | .item ctx _ => viewBits s ctx (some (vGeom g)) (vStack g) e.1 e.2.1 draw
      | _ => storageBits s.hbm (vStack g) e.1 e.2.1) * 2 ^ e.2.2).sum)

/-- The latest value of some bits in coherence order, as a write of part of them finds it. -/
def State.viewLast (s : State) (stack : BitVec 3) (bit size : Nat) : Nat := (s.viewValues stack bit size).getLastD 0

/-- A location of a view that a word writes: first bit, size, mask and value. -/
structure ViewPart where
  bit  : Nat
  size : Nat
  mask : Nat
  v    : Nat
  deriving DecidableEq, Repr

/-- The parts of a view that a word writes, in the order of its elements: an element, or the two halves of one byte as one location
(R131). -/
def viewParts (els : List (Nat × Nat × Nat)) (mask v : Lane) : List ViewPart :=
  els.foldl (fun l e =>
    let p : ViewPart := { bit := e.1, size := e.2.1, mask := mask.toNat / 2 ^ e.2.2 % 2 ^ e.2.1, v := v.toNat / 2 ^ e.2.2 % 2 ^ e.2.1 }
    if p.mask = 0 then l
    else if p.size = 4 && l.any (fun o => o.bit / 8 = p.bit / 8) then
      l.map fun o =>
        if o.bit / 8 = p.bit / 8 then
          let at_ := fun (x : ViewPart) (n : Nat) => n * 2 ^ (x.bit % 8)
          { bit := p.bit / 8 * 8, size := 8, mask := at_ o o.mask + at_ p p.mask, v := at_ o o.v + at_ p p.v }
        else o
    else l ++ [p]) []

/-- Write the elements of a word that a mask reaches. Of an element that it reaches in part, as a byte-wise RDMA WRITE of the host
or a scale of an HCVT may, the other bits keep their value (log 51, DESIGN CHOICE). -/
def State.viewPut (s : State) (w : Who) (g : BitVec 256) (els : List (Nat × Nat × Nat)) (mask v : Lane) : State :=
  (viewParts els mask v).foldl (fun s p =>
    let x := if p.mask = 2 ^ p.size - 1 then p.v
      else (blend (BitVec.ofNat 32 p.mask) (BitVec.ofNat 32 p.v) (BitVec.ofNat 32 (s.viewLast (vStack g) p.bit p.size))).toNat
    match w with
    | .item ctx id => s.viewWrite ctx id (vGeom g) (vStack g) p.bit p.size x
    | _ => s.storageWrite (vStack g) p.bit p.size x) s

/-- Write bits of a word of storage that no view's entry leads to: a word written whole is one location, and one written in part is
written byte by byte, so that what waits over its other bytes is not disturbed (R131, R149). -/
def State.storageWord (s : State) (w : Who) (stack : BitVec 3) (bit : Nat) (mask v : Lane) : State :=
  let put := fun (s : State) (bit size x : Nat) => match w with
    | .atomic => s.directWrite true stack bit size x
    | _ => s.storageWrite stack bit size x
  if mask = BitVec.allOnes 32 then put s bit 32 v.toNat
  else
    (List.range 4).foldl (fun s i =>
      let part := (mask.extractLsb' (8 * i) 8).toNat
      let old := BitVec.ofNat 32 (s.viewLast stack (bit + 8 * i) 8)
      if part = 0 then s
      else put s (bit + 8 * i) 8 (blend (BitVec.ofNat 32 part) (BitVec.ofNat 32 (v.extractLsb' (8 * i) 8).toNat) old).toNat) s

/-- A word of the host window table (R361). -/
def Fabric.window (f : Fabric) (win i : Nat) : Word := peek f.windows (4 * win + i)

/-- A host window for `n` bytes from an offset: the host virtual address, or FORMAT or RANGE (R308, R361). -/
def hostAddr (f : Fabric) (win off n : Nat) : Except Stop Nat :=
  let w2 := f.window win 2
  if wfld w2 58 1 = 0 then .error (.fail 1 0)
  else if wfld (f.window win 1) 0 48 < off + n then .error (.fail 3 0)
  else .ok (((f.window win 0).toNat + off) % 2 ^ 64)

/-- The compressed page that holds a tier address (R125). -/
def Hub.compressedAt (h : Hub) (a : Nat) : Option Compressed := h.compressed.find? fun c => c.page = a / 65536 * 65536

/-- The view entry and byte offset of a word, or why its item fails (R117, R119). -/
def State.viewAt (s : State) (job : BitVec 8) (v off n : Nat) : Except Stop (BitVec 256) :=
  let g := s.hub.viewEntry job v
  if !vUsable g then .error (.fail 4 0)
  else if vBytes g < off + n then .error (.fail 3 0)
  else .ok g

/-- Whether an Ethernet port may send for a queue pair now: its traffic's priority is not paused, and the pair's rate, once CNPs have
lowered it, leaves room (R359). -/
def State.mayPost (s : State) (port : BitVec 2) (qp : BitVec 10) : Bool :=
  !s.fab.paused.contains (port, Config.rocePriority) &&
    !(s.fab.rates.any fun e => e.1 = port && e.2.1 = qp && decide (s.now < e.2.2.2))

/-- A queue pair has sent `n` bytes: with a lowered rate, in Mb/s, it sends again once they are gone at that rate (R359). -/
def State.paced (s : State) (port : BitVec 2) (qp : BitVec 10) (n : Nat) : State :=
  { s with fab := { s.fab with rates := s.fab.rates.map fun e =>
      if e.1 = port && e.2.1 = qp then (e.1, e.2.1, e.2.2.1, max s.now e.2.2.2 + 72000 * n / max 1 e.2.2.1) else e } }

/-- The Ethernet port and the queue pair of a host window (R361). -/
def Fabric.windowPort (f : Fabric) (w : Nat) : BitVec 2 := BitVec.ofNat 2 (wfld (f.window w 2) 56 2)
def Fabric.windowPair (f : Fabric) (w : Nat) : BitVec 10 := BitVec.ofNat 10 (wfld (f.window w 2) 32 24)

/-- Whether a word of a place can be accessed: registrations, views, pages that fail to expand, ports that are down, whose
completions report an error, and ports that may not send now (R117, R119, R126, R300, R359, R361, R366). -/
def State.placeOk (s : State) (job : BitVec 8) (p : Place) : Option Stop :=
  match p with
  | .hbm _ => none
  | .tier a =>
    if !s.plat.cxlUp.getLsbD (a / 2 ^ 41 % 4) then some (.fail 8 1)
    else match s.hub.compressedAt a with
      | some c => if c.hurt then some (.fail 8 0) else none
      | none => none
  | .host w o => match hostAddr s.fab w o 4 with
    | .ok _ =>
      if !s.plat.ethUp.getLsbD (s.fab.windowPort w).toNat then some (.fail 8 1)
      else if s.mayPost (s.fab.windowPort w) (s.fab.windowPair w) then none else some .wait
    | .error e => some e
  | .view v o => match s.viewAt job v o 4 with | .ok _ => none | .error e => some e

/-- The keys of the aligned words of HBM in which the word at an HPA lies: one, or two where a window's OFF is no multiple of 4
(R105). -/
def State.hbmWords (s : State) (hpa : Nat) : List Nat :=
  let key := fun (a : Nat) => hbmKey s.hub.mode a
  if hpa % 4 = 0 then [key hpa] else [key (hpa / 4 * 4), key (hpa / 4 * 4 + 4)]

/-- Read an aligned word of HBM by its key: an item reads the storage image, of which a DVA word is one location (R131, R150). -/
def State.readHbm (s : State) (w : Who) (key draw : Nat) : Lane :=
  match w with
  | .item ctx _ =>
    let st := BitVec.ofNat 3 (key / 2 ^ 36)
    if s.viewLog.any (fun v => v.over st (8 * (key % 2 ^ 36)) 32) then
      BitVec.ofNat 32 (viewUnit s ctx none st (8 * (key % 2 ^ 36)) 32 draw)
    else BitVec.ofNat 32 (peekBytes s.hbm key 4)
  | _ => BitVec.ofNat 32 (peekBytes s.hbm key 4)

/-- Write bits of an aligned word of HBM by its key; one written whole is free of error. -/
def State.writeHbm (s : State) (w : Who) (key : Nat) (mask v : Lane) : State :=
  let s := s.storageWord w (BitVec.ofNat 3 (key / 2 ^ 36)) (8 * (key % 2 ^ 36)) mask v
  if mask = BitVec.allOnes 32 then { s with badHbm := s.badHbm.filter fun b => b.1 ≠ key / 4, softHbm := s.softHbm.filter (· ≠ key / 4) } else s

/-- Read the word of a place, which `placeOk` admits. -/
def State.readWord (s : State) (w : Who) (job : BitVec 8) (p : Place) (draw : Nat) : Lane :=
  match p with
  | .hbm hpa =>
    (match s.hbmWords hpa with
    | [lo, hi] => (s.readHbm w lo draw >>> (8 * (hpa % 4))) ||| (s.readHbm w hi draw <<< (32 - 8 * (hpa % 4)))
    | l => s.readHbm w (l.headD 0) draw)
  | .tier a => BitVec.ofNat 32 (peekBytes s.tier (a / 4 * 4) 4)
  | .host h o => match hostAddr s.fab h (o / 4 * 4) 4 with
    | .ok a => BitVec.ofNat 32 (peekBytes s.host a 4)
    | .error _ => 0
  | .view v o =>
    let g := s.hub.viewEntry job v
    s.viewWord w g (viewElems g (o / 4 * 4)) draw

/-- Write bits of the word of a place, which `placeOk` admits. A word written whole is free of error. A device
write to host memory leaves the package (R153). -/
def State.writeWord (s : State) (w : Who) (job : BitVec 8) (p : Place) (mask v : Lane) : State :=
  match p with
  | .hbm hpa =>
    (match s.hbmWords hpa with
    | [lo, hi] =>
      let r := 8 * (hpa % 4)
      (s.writeHbm w lo (mask <<< r) (v <<< r)).writeHbm w hi (mask >>> (32 - r)) (v >>> (32 - r))
    | l => s.writeHbm w (l.headD 0) mask v)
  | .tier a =>
    let k := a / 4 * 4
    let new := blend mask v (BitVec.ofNat 32 (peekBytes s.tier k 4))
    let s := { s with tier := pokeBytes s.tier k 4 new.toNat }
    if mask = BitVec.allOnes 32 then { s with badTier := s.badTier.filter fun b => b.1 ≠ k / 4 } else s
  | .host h o => match hostAddr s.fab h (o / 4 * 4) 4 with
    | .ok a =>
      let new := blend mask v (BitVec.ofNat 32 (peekBytes s.host a 4))
      let t : State := { s with host := pokeBytes s.host a 4 new.toNat, out := s.out ++ [.hostWrite (BitVec.ofNat 64 a) new] }
      t.paced (s.fab.windowPort h) (s.fab.windowPair h) 4
    | .error _ => s
  | .view vi o =>
    let g := s.hub.viewEntry job vi
    s.viewPut w g (viewElems g (o / 4 * 4)) mask v

/-- The words of storage in which the elements of a word of a view lie: keys div 4, each once. -/
def elemKeys (g : BitVec 256) (els : List (Nat × Nat × Nat)) : List Nat :=
  (els.map fun e => ((vStack g).toNat * 2 ^ 36 + e.1 / 8) / 4).eraseDups

/-- A word whose access may meet an error, by key or address div 4: of HBM, of the second tier read or written, of host memory. -/
inductive WordKey where
  | hbm (k : Nat)
  | tier (k : Nat)
  | put (k : Nat)
  | host (k : Nat)
  deriving DecidableEq, Repr

/-- The words that a read of a word of a place reads. -/
def State.placeKeys (s : State) (job : BitVec 8) (p : Place) : List WordKey :=
  match p with
  | .hbm hpa => (s.hbmWords hpa).map fun k => .hbm (k / 4)
  | .tier a => [.tier (a / 4)]
  | .view v o => let g := s.hub.viewEntry job v; (elemKeys g (viewElems g (o / 4 * 4))).map .hbm
  | .host w o => match hostAddr s.fab w (o / 4 * 4) 4 with
    | .ok a => [.host (a / 4)]
    | .error _ => []

/-- The words whose completion a write of a word of a place waits for (R300, R363). -/
def State.putKeys (s : State) (job : BitVec 8) (p : Place) : List WordKey :=
  match p with
  | .tier a => [.put (a / 4)]
  | .host _ _ => s.placeKeys job p
  | _ => []

/-- Whether a word's access meets an error, and whether a retry clears it (R300). -/
def State.badAt (s : State) (p : WordKey) : Option Bool :=
  let l := fun (l : List (Nat × Bool)) (k : Nat) => (l.find? fun b => b.1 = k).map (·.2)
  match p with
  | .hbm k => l s.badHbm k
  | .tier k => l s.badTier k
  | .put k => l s.badPut k
  | .host k => l s.badHost k

/-- Whether a word's access meets an error that a second attempt meets again (R300). -/
def State.lastingAt (s : State) (p : WordKey) : Bool := s.badAt p = some false

/-- Take a transient error from its list, once the piece that met it is performed again (R300). -/
def State.clearBad (s : State) (p : WordKey) : State :=
  match p with
  | .hbm k => { s with badHbm := s.badHbm.filter fun b => b.1 ≠ k }
  | .tier k => { s with badTier := s.badTier.filter fun b => b.1 ≠ k }
  | .put k => { s with badPut := s.badPut.filter fun b => b.1 ≠ k }
  | .host k => { s with badHost := s.badHost.filter fun b => b.1 ≠ k }

/-- The error counter block of the die that detects an error of a word: a stack, or the hub for a failed CXL or RoCEv2 completion
(R371). -/
def WordKey.block : WordKey → Nat
  | .hbm k => 8 + 4 * k / 2 ^ 36
  | _ => 16

/-- Count what reads of HBM meet in a word: a corrected single-bit error, an uncorrectable one, the latter twice when the second
attempt meets it again (R18, R371). -/
def State.meetWord (s : State) (k : Nat) : State :=
  let b := WordKey.block (.hbm k)
  let n := match s.badAt (.hbm k) with | some true => 1 | some false => 2 | none => 0
  (if s.softHbm.contains k then s.countError b 0 else s).countErrors b 2 n

/-- Count what the accesses of some words meet in HBM. -/
def State.meetWords (s : State) (l : List WordKey) : State :=
  l.eraseDups.foldl (fun s p => match p with | .hbm k => s.meetWord k | _ => s) s

/-- Count a piece whose second attempt succeeded, by the first of its words that erred (R371). -/
def State.countAgain (s : State) (l : List WordKey) : State :=
  match l with
  | p :: _ => s.countError p.block 3
  | [] => s

/-- Count an item that fails because a word's error lasts (R371). -/
def State.countLasting (s : State) (p : WordKey) : State := s.countError p.block 4

/-- Perform a piece, whose words are given, once more: the errors that it met are cleared, and count once as transient (R300, R371). -/
def State.retry (s : State) (piece : List WordKey) : State :=
  let again := piece.filter fun p => (s.badAt p).isSome
  (again.foldl State.clearBad s).countAgain again

/-- The pieces to which some lists of words belong: one that has them all, or each its own. -/
def piecesOf (one : Bool) (l : List (List WordKey)) : List (List WordKey) := if one then [l.flatten] else l

/-- Perform some pieces' accesses for the hub, the host or a peer: false when an error of theirs lasts, which no item meets and
which counts in counter 4 where it is a failed completion; one that a second attempt clears is cleared, and counts as transient once
for its piece (R300, R371; log 41). -/
def State.readOk (s : State) (l : List (List WordKey)) : Bool × State :=
  let t := s.meetWords l.flatten
  match l.flatten.find? s.lastingAt with
  | some (.hbm _) => (false, t)
  | some p => (false, t.countLasting p)
  | none => (true, l.foldl State.retry t)

/-- The words of HBM, keys div 4, that a walk reads: each entry's two, to the last that it meets (R106). -/
def walkKeys (s : State) : List (Nat × Nat × Bool × Nat) → Nat → Nat → List Nat
  | [], _, _ => []
  | (shift, bits, _, align) :: t, table, a =>
    let ad := table + 8 * (a / 2 ^ shift % 2 ^ bits)
    let key := hbmKey s.hub.mode ad
    let e := s.hbmNat ad 8
    key / 4 :: (key / 4 + 1) ::
      if s.badHbm.any (fun b => b.1 = key / 4 || b.1 = key / 4 + 1) || e % 2 = 0 || e / 2 % 2 = 1 then []
      else match nextTable e align with
        | some nxt => walkKeys s t nxt a
        | none => []

/-- Count what a walk's reads of table entries meet (R18, R371). An uncorrectable error ends the walk at once (R106). -/
def State.countWalk (s : State) (root a : Nat) : State :=
  (walkKeys s walkLevels root a).foldl (fun t k =>
    (if s.softHbm.contains k then t.countError (WordKey.block (.hbm k)) 0 else t).countErrors (WordKey.block (.hbm k)) 2
      (if s.badHbm.any (·.1 = k) then 1 else 0)) s

/-- Count the walks for `n` bytes of a job's DVAs from an address on, one for each granule of 64 KiB that they touch (log 41). -/
def State.countWalks (s : State) (job : BitVec 8) (a n : Nat) : State :=
  (List.range (if n = 0 then 0 else (a % 65536 + n + 65535) / 65536)).foldl (fun s i =>
    s.countWalk (s.hub.job job).root.toNat ((a / 65536 + i) * 65536 % 2 ^ 56)) s

/-- The stack a place lies in. -/
def State.placeStack (s : State) (job : BitVec 8) (p : Place) : Option (BitVec 3) :=
  match p with
  | .hbm hpa => some (BitVec.ofNat 3 (hbmKey s.hub.mode hpa / 2 ^ 36))
  | .view v _ => some (vStack (s.hub.viewEntry job v))
  | _ => none

/-! ### Pages: moves and expansions (R103, R114 to R116, R125, R126) -/

/-- The valid entries of a table, as (index, entry). -/
def tableEntries (s : State) (table n : Nat) : List (Nat × Nat) :=
  (List.range n).filterMap fun i =>
    let e := s.hbmNat (table + 8 * i) 8
    if e % 2 = 1 then some (i, e) else none

/-- Every leaf below a table: DVA and leaf. -/
def leavesFrom (s : State) : List (Nat × Nat × Bool × Nat) → Nat → Nat → List (Nat × Leaf)
  | [], _, _ => []
  | (shift, bits, leafOk, align) :: t, table, a =>
    (tableEntries s table (2 ^ bits)).flatMap fun p =>
      let b := a + p.1 * 2 ^ shift
      if p.2 / 2 % 2 = 1 then
        (match leafOf p.2 shift (table + 8 * p.1) with
        | .ok l => if leafOk then [(b, l)] else []
        | .error _ => [])
      else match nextTable p.2 align with
        | some nxt => leavesFrom s t nxt b
        | none => []

/-- Every leaf of every job that has a translation record. -/
def State.leaves (s : State) : List (BitVec 8 × Nat × Leaf) :=
  s.hub.jobs.flatMap fun j => (leavesFrom s walkLevels j.2.aligned.root.toNat 0).map fun p => (j.1, p)

/-- Every pointer that a walk from a table may meet, with its HPA. -/
def pointersFrom (s : State) : List (Nat × Nat × Bool × Nat) → Nat → List (Nat × Nat)
  | [], _ => []
  | (_, bits, _, align) :: t, table =>
    (tableEntries s table (2 ^ bits)).flatMap fun p =>
      if p.2 / 2 % 2 = 1 then []
      else match nextTable p.2 align with
        | some nxt => (table + 8 * p.1, p.2) :: pointersFrom s t nxt
        | none => []

/-- A table and every table below it. -/
def tablesFrom (s : State) (table : Nat) : List Nat := table :: (pointersFrom s walkLevels table).map fun p => p.2 / 256 % 2 ^ 31 * 256

/-- The blocks of 4 KiB in which the page tables of every job stand, each with its size (R106). -/
def State.tableBlocks (s : State) : List (Nat × Nat) :=
  ((s.hub.jobs.flatMap fun j => tablesFrom s j.2.aligned.root.toNat).map fun t => (t / 4096 * 4096, 4096)).eraseDups

/-- The HPAs that a heap window reaches: the first, and how many (R105). -/
def JobRec.window (j : JobRec) : Nat × Nat :=
  let a := (j.hb.toNat + j.ho.toNat) % 2 ^ 56
  (a, min (j.hl.toNat - j.hb.toNat) (2 ^ 39 - a))

/-- The windows of every job that are not empty. -/
def Hub.windows (h : Hub) : List (Nat × Nat) := (h.jobs.map fun j => j.2.aligned.window).filter fun w => w.2 ≠ 0

/-- The HPAs of the fault ring (R111), where FBCTL gives it a size. -/
def Hub.faultRing (h : Hub) : List (Nat × Nat) :=
  let n := (h.fbctl.extractLsb' 0 4).toNat
  if n < 4 then [] else [(h.fbbase.toNat, 32 * 2 ^ n)]

/-- The valid view entries of every job. -/
def Hub.validViews (h : Hub) : List (BitVec 256) :=
  ((h.views.filter fun e => e.1 % 4 = 0 && e.2.getLsbD 39).map fun e =>
    h.viewEntry (BitVec.ofNat 8 (e.1 / 1024)) (e.1 % 1024 / 4))

/-- Whether a byte of HBM, by key, lies in the storage of a valid view. -/
def Hub.inView (h : Hub) (key : Nat) : Bool :=
  h.validViews.any fun g =>
    (vStack g).toNat * 2 ^ 36 + vSoff g ≤ key && key < (vStack g).toNat * 2 ^ 36 + vSoff g + vBytes g

/-- Whether some byte of a range of HPAs lies, under a mode, in the storage of a valid view. View storage and the blocks of R103 that
keep together have 4 KiB and more. -/
def Hub.onView (h : Hub) (mode : BitVec 2) (a n : Nat) : Bool :=
  (List.range ((a % 4096 + n + 4095) / 4096)).any fun i => h.inView (hbmKey mode (a / 4096 * 4096 + 4096 * i))

/-- Whether two ranges share a byte. -/
def meets (x y : Nat × Nat) : Bool := decide (x.1 < y.1 + y.2) && decide (y.1 < x.1 + x.2)

/-- A leaf's page. -/
def Leaf.range (l : Leaf) : Nat × Nat := (l.tgt, 2 ^ l.size)

/-- The ranges of HPAs in use: pages of leaves, page tables, heap windows, the fault ring, and the places kept for pages on the move.
View storage is apart from them. -/
def State.inUse (s : State) : List (Nat × Nat) :=
  ((s.leaves.filter fun l => l.2.2.kind = 0).map fun l => l.2.2.range) ++ s.tableBlocks ++ s.hub.windows ++ s.hub.faultRing ++
    (s.hub.moving ++ s.hub.expanding).map fun m => (m.dest, 2 ^ m.size)

/-- Whether a range of HPAs holds no byte that is in use, and no view storage under the present mode. -/
def State.hpaFree (s : State) (a n : Nat) : Bool :=
  !(s.inUse.any (meets (a, n))) && !s.hub.onView s.hub.mode a n

/-- The contents of a page that moves: (offset, byte) pairs. -/
abbrev Contents := List (Nat × BitVec 8)

/-- What the accesses that a move makes of some words meet: each is a piece of its own, performed once more where it meets an error. -/
def State.moveWords (s : State) (l : List WordKey) : State := l.foldl (fun s p => (s.readOk [[p]]).2) s

/-- The contents of a page of which the words at some offsets, div 4, could not be read or written at the second attempt either: the
spec gives them no value, and no mark of an error goes with them (R372), so that their values are free (log 66). -/
def Contents.losing (c : Contents) (lost : List Nat) (draw : Nat) : Contents :=
  c.filter (fun e => !lost.contains (e.1 / 4)) ++ lost.zipIdx.flatMap fun w =>
    (List.range 4).map fun j => (4 * w.1 + j, (Config.lostWord (draw + w.2)).extractLsb' (8 * j) 8)

/-- Put the bytes of a page at another place: (offset, byte) pairs put over a cleared range. -/
def putRange (m : Store 8) (key : Nat → Nat) (n : Nat) (l : List (Nat × BitVec 8)) (inRange : Nat → Bool) : Store 8 :=
  (l.filter fun e => e.1 < n).foldl (fun m e => poke m (key e.1) e.2) (wipe m inRange)

/-- Whether a key of HBM names a byte of a range of HPAs. -/
def inHpas (mode : BitVec 2) (a n key : Nat) : Bool := decide (a ≤ hpaOf mode key) && decide (hpaOf mode key < a + n)

/-- The words, of a list that the error lists have, that stand in a list of places. -/
def lastWords (l : List (Nat × Bool)) (here : Nat → Bool) : List Nat := (l.filter fun b => !b.2 && here b.1).map (·.1)

/-- The words in which a move may meet an error: those of lists of errors that stand in its range. -/
def errorWords (bad : List (Nat × Bool)) (soft : List Nat) (here : Nat → Bool) : List Nat :=
  ((bad.map (·.1) ++ soft).filter here).eraseDups

/-- Read the contents of a range of HPAs for a move, with what the reads meet (R300, R371). -/
def State.hbmContents (s : State) (a n : Nat) : Contents × State :=
  let mode := s.hub.mode
  let here := fun (w : Nat) => inHpas mode a n (4 * w)
  let at_ := fun (k : Nat) => hpaOf mode k - a
  let c : Contents := (s.hbm.filter fun e => inHpas mode a n e.1).map fun e => (at_ e.1, e.2)
  let lost := (lastWords s.badHbm here).map fun w => at_ (4 * w) / 4
  let t := s.moveWords ((errorWords s.badHbm s.softHbm here).map .hbm)
  (c.losing lost s.draw, { t with draw := s.draw + lost.length })

/-- Write the contents of a page over a range of HPAs: every word is written whole and free of error. -/
def State.hbmFill (s : State) (a n : Nat) (c : Contents) : State :=
  let mode := s.hub.mode
  let out := fun (w : Nat) => !inHpas mode a n (4 * w)
  { s with
    hbm := putRange s.hbm (fun o => hbmKey mode (a + o)) n c (inHpas mode a n),
    badHbm := s.badHbm.filter fun b => out b.1,
    softHbm := s.softHbm.filter out }

/-- Read the contents of a range of the second tier for a move, with what the completions report (R300, R371). -/
def State.tierContents (s : State) (t n : Nat) : Contents × State :=
  let here := fun (a : Nat) => decide (t ≤ a) && decide (a < t + n)
  let at4 := fun (w : Nat) => here (4 * w)
  let c : Contents := (s.tier.filter fun e => here e.1).map fun e => (e.1 - t, e.2)
  let lost := (lastWords s.badTier at4).map (· - t / 4)
  let u := s.moveWords ((errorWords s.badTier [] at4).map .tier)
  (c.losing lost s.draw, { u with draw := s.draw + lost.length })

/-- Write the contents of a page over a range of the second tier: every word is free of error, but one whose write's completion reports
an error at the second attempt too has a free value (R300, log 66). -/
def State.tierFill (s : State) (t n : Nat) (c : Contents) : State :=
  let here := fun (a : Nat) => decide (t ≤ a) && decide (a < t + n)
  let at4 := fun (w : Nat) => here (4 * w)
  let lost := (lastWords s.badPut at4).map (· - t / 4)
  let u := s.moveWords ((errorWords s.badPut [] at4).map .put)
  { u with
    draw := s.draw + lost.length,
    tier := putRange s.tier (fun o => t + o) n (c.losing lost s.draw) here,
    badTier := s.badTier.filter fun b => !at4 b.1 }

/-- A leaf entry with another kind and target. -/
def leafWith (e kind tgt : Nat) : Nat := e % 16 + kind * 16 + e / 128 % 2 * 128 + tgt

/-- A page has moved: every leaf within it names its new place, and so do the pins that hold the old one. -/
def State.remap (s : State) (l : Leaf) (kind tgt : Nat) : State :=
  let within := fun (k t n : Nat) => decide (k = l.kind) && decide (l.tgt ≤ t) && decide (t + 2 ^ n ≤ l.tgt + 2 ^ l.size)
  let names := (s.leaves.map fun o => o.2.2).filter fun o => within o.kind o.tgt o.size
  let s := (l :: names).foldl (fun (s : State) o => s.hbmPut o.entry 8 (leafWith (s.hbmNat o.entry 8) kind (tgt + (o.tgt - l.tgt)))) s
  let fix := fun p : Pin =>
    if within p.kind.toNat p.tgt.toNat p.size then
      { p with kind := BitVec.ofNat 3 kind, tgt := BitVec.ofNat 56 (tgt + (p.tgt.toNat - l.tgt)) }
    else p
  { s with coaches := s.coaches.map fun k => { k with en := { k.en with tlb := k.en.tlb.map fix } } }

/-- Whether some context pins a page that a leaf names, or a part of it (R108). -/
def State.pinnedLeaf (s : State) (l : Leaf) : Bool :=
  s.coaches.toList.any fun k => k.en.tlb.any fun p => p.kind.toNat = l.kind && meets (p.tgt.toNat, 2 ^ p.size) l.range

/-- Whether a page of HBM holds what is named by its HPA alone, so that it stays where it lies: a page table, a byte that some job's
heap window reaches, the fault ring (log 15). -/
def State.anchored (s : State) (l : Leaf) : Bool :=
  l.kind = 0 && (s.tableBlocks ++ s.hub.windows ++ s.hub.faultRing).any (meets l.range)

/-- Put a page that moves into the second tier at a tier address: compressed under R125, or whole. What stood there compressed before
is gone. -/
def State.intoTier (s : State) (l : Leaf) (t : Nat) (c : Contents) : State :=
  let small := s.hub.cmpEn && l.size = 16 && !l.shrd && !s.pinnedLeaf l && Config.sectors c ≤ 15
  let s := (s.tierFill t (2 ^ l.size) c).remap l 1 t
  let rest := s.hub.compressed.filter fun o => !meets (o.page, 65536) (t, 2 ^ l.size)
  { s with hub := { s.hub with compressed := rest ++ if small then [{ page := t, hurt := false }] else [] } }

/-- The thrash detector's record of a page; without one, no moves and no hold. -/
def Hub.movesOf (h : Hub) (n : Nat) : PageMoves :=
  match h.moves.find? (fun m => m.page = n) with
  | some m => m
  | none => { page := n, times := [], held := false }

/-- Keep a thrash record. -/
def Hub.setMoves (h : Hub) (m : PageMoves) : Hub := { h with moves := m :: h.moves.filter fun o => o.page ≠ m.page }

/-- Ask the thrash detector for a move of a page now (R116): whether it may be made, and the state after; a refused move
begins a hold. -/
def State.askMove (s : State) (n : Nat) : Bool × State :=
  let r := s.hub.movesOf n
  if r.held then (false, s)
  else
    let recent := r.times.filter fun t => s.now < t + s.hub.thw.toNat * Config.usTicks
    if s.hub.thn.toNat < recent.length + 1 then
      let h := s.hub.setMoves { r with times := [], held := true }
      let s : State := { s with hub := { h with thcnt := h.thcnt + 1 } }
      (false, s.timer (s.now + s.hub.tht.toNat * Config.usTicks) 0 (.thrashHoldExpiry n))
    else (true, { s with hub := s.hub.setMoves { r with times := recent ++ [s.now] } })

/-- Evict an unpinned 64 KiB page of HBM, none of whose bytes a view holds (R103), into the second tier, to make room (R126; which
one is a free choice, log 15):
its bytes move to a free tier page, compressed under R125, and its leaf names them. The HPA made free. -/
def State.evict (s : State) : Option Nat × State :=
  let can := s.leaves.filter fun l =>
    l.2.2.kind = 0 && l.2.2.size = 16 && !s.pinnedLeaf l.2.2 && !s.anchored l.2.2 && !s.hub.onView s.hub.mode l.2.2.tgt 65536
  let (i, s) := s.choose can.length
  match can[i]? with
  | none => (none, s)
  | some (job, a, l) =>
    let tries := (List.range 64).map fun j => Config.pick (s.draw + j) % 2 ^ 27 * 65536
    let free := tries.find? fun t => !(s.leaves.any fun o => o.2.2.kind = 1 && o.2.2.tgt < t + 65536 && t < o.2.2.tgt + 2 ^ o.2.2.size)
    let s := { s with draw := s.draw + 64 }
    match free with
    | none => (none, s)
    | some t =>
      let (ok, s) := s.askMove (pageName job a)
      if ok then
        let (c, s) := s.hbmContents l.tgt 65536
        (some l.tgt, s.intoTier l t c)
      else (none, s)

/-- The first of `n` addresses, `step` apart, that passes. -/
def firstAt (ok : Nat → Bool) (step a : Nat) : Nat → Option Nat
  | 0 => none
  | n + 1 => if ok a then some a else firstAt ok step (a + step) n

/-- A free page of HBM of 2^size bytes that the hub allocates, in a wanted stack's partition if one is named: a free
choice among those that `hpaFree` admits (log 15), or one that an eviction
makes free; none when there is none. -/
def State.allocPage (s : State) (size : Nat) (part : Option (BitVec 3)) : Option Nat × State :=
  let tries := (List.range 64).map fun i => Config.pick (s.draw + i) % 2 ^ (39 - size) * 2 ^ size
  let ok := fun a =>
    (match part with
      | none => true
      | some c =>
        if s.hub.mode = 1 then a / 2 ^ 38 = c.toNat / 4 else if s.hub.mode = 2 then a / 2 ^ 36 = c.toNat else true) &&
    s.hpaFree a (2 ^ size)
  let s := { s with draw := s.draw + 64 }
  match (tries.find? ok).or (firstAt ok (2 ^ size) 0 (2 ^ (39 - size))) with
  | some a => (some a, s)
  | none => if size = 16 && part.isNone then s.evict else (none, s)

/-- A free page of the second tier of 2^size bytes. -/
def State.tierPage (s : State) (size : Nat) : Option Nat :=
  firstAt (fun t => !(s.leaves.any fun o => o.2.2.kind = 1 && o.2.2.tgt < t + 2 ^ size && t < o.2.2.tgt + 2 ^ o.2.2.size))
    (2 ^ size) 0 (2 ^ (43 - size))

/-- A compressed page is expanded where it lies in the second tier: its storage there is whole again (R116, R125; log 52). -/
def State.expandHere (s : State) (page : Nat) : State :=
  { s with hub := { s.hub with compressed := s.hub.compressed.filter fun c => c.page ≠ page } }

/-- Begin the expansion of a compressed page that a job reaches at a DVA (R126): the waiting access is tried again once it
is done. False when no free HBM page is found. The expansion into HBM is a move (R116): one that the thrash detector refuses is
not made, and the page is expanded where it is held. -/
def State.beginExpansion (s : State) (job : BitVec 8) (a : Nat) : Bool × State :=
  let n := pageName job (a / 65536 * 65536)
  if s.hub.onMove n then (true, s)
  else
    let (p, s) := s.allocPage 16 none
    match p with
    | none => (false, s)
    | some d =>
      let (move, s) := s.askMove n
      if move then
        let (t, s) := s.choose 65536
        let s : State := { s with hub := { s.hub with
          expanding := s.hub.expanding ++ [{ page := n, job := job, dest := d, size := 16, part := none }] } }
        (true, s.timer (s.now + 5 * (t + 1)) 0 (.pageExpansion n))
      else
        (true, match s.walk (s.hub.job job).root.toNat a with
          | .ok l => s.expandHere l.tgt
          | .error _ => s)

/-- Whether the compressed page at a tier address can no longer be expanded (R126). -/
def Hub.hurtAt (h : Hub) (a : Nat) : Bool := match h.compressedAt a with | some c => c.hurt | none => false

/-- The place of a page that has moved into HBM: the one kept for it while that is still free under the present mode and views (R41,
R103), or another; none when there is none. -/
def State.destOf (s : State) (m : PageMove) : Option Nat × State :=
  if s.hpaFree m.dest (2 ^ m.size) then (some m.dest, s) else s.allocPage m.size m.part

/-- PAGE_EXPANSION (R126): the page's data stand in HBM and its leaf names them, unless another host's write has made it fail to
expand. -/
def execPageExpansion (page : Nat) (s : State) : Host.Outcome State Fault Refusal :=
  match s.hub.expanding.find? (fun m => m.page = page) with
  | none => .next s
  | some m =>
    let s := { s with hub := { s.hub with expanding := s.hub.expanding.filter fun e => e.page ≠ page } }
    match s.walk (s.hub.job m.job).root.toNat (page % 2 ^ 56) with
    | .error _ => .next s
    | .ok l =>
      if l.kind = 1 && l.size = 16 && !s.hub.hurtAt l.tgt then
        (match s.destOf m with
          | (some d, s) =>
            let (c, s) := s.tierContents l.tgt 65536
            .next (((s.hbmFill d 65536 c).remap l 0 d).expandHere l.tgt)
          | (none, s) => .next s)
      else .next s

/-- THRASH_HOLD_EXPIRY (R116): the hold ends and the count restarts at zero. -/
def execThrashHoldExpiry (page : Nat) (s : State) : Host.Outcome State Fault Refusal :=
  .next { s with hub := s.hub.setMoves { page := page, times := [], held := false } }

/-- PAGE_MIGRATION_COMPLETE (R114, R385): the page's bytes stand at their new place and its leaf names it; a page that
moves into HBM from a compressed tier page is no longer compressed. One that cannot be expanded (R126), that has been pinned in the
meantime (R108), or for which no place is left stays where it lies. -/
def execPageMigrationComplete (page : Nat) (s : State) : Host.Outcome State Fault Refusal :=
  match s.hub.moving.find? (fun m => m.page = page) with
  | none => .next s
  | some m =>
    let s := { s with hub := { s.hub with moving := s.hub.moving.filter fun e => e.page ≠ page } }
    match s.walk (s.hub.job m.job).root.toNat (page % 2 ^ 56) with
    | .error _ => .next s
    | .ok l =>
      let n := 2 ^ l.size
      if 1 < l.kind || l.size ≠ m.size || s.pinnedLeaf l || s.anchored l || (l.kind = 1 && s.hub.hurtAt l.tgt) then .next s
      else match s.destOf m with
        | (none, s) => .next s
        | (some d, s) =>
          if l.kind = 0 then
            let (c, s) := s.hbmContents l.tgt n
            .next ((s.hbmFill d n c).remap l 0 d)
          else
            let (c, s) := s.tierContents l.tgt n
            .next (((s.hbmFill d n c).remap l 0 d).expandHere l.tgt)

/-- What another CXL host reads in a word of the second tier (R126): under a compressed page its uncompressed value, a word of the
compressed image or zero, freely. No event of the package depends on it. -/
def State.otherHostReads (s : State) (a : Nat) : Lane :=
  let v := BitVec.ofNat 32 (peekBytes s.tier (a / 4 * 4) 4)
  match s.hub.compressedAt a with
  | none => v
  | some c =>
    let d := Config.pick s.draw % 3
    if d = 0 then v else if d = 1 then Config.compressedWord s.draw ((a - c.page) / 4) else 0

/-- OTHER_HOST_TIER_WRITE (R126): another CXL host writes a word; under a compressed page it is lost or harms the page. -/
def execOtherHostTierWrite (addr : BitVec 43) (v : BitVec 32) (s : State) : Host.Outcome State Fault Refusal :=
  let a := addr.toNat / 4 * 4
  match s.hub.compressedAt a with
  | none => .next (s.writeWord .hub 0 (.tier a) (BitVec.allOnes 32) v)
  | some c =>
    let (d, s) := s.choose 2
    .next (if d = 0 then s
      else { s with hub := { s.hub with
          compressed := s.hub.compressed.map fun o => if o.page = c.page then { o with hurt := true } else o } })

/-- VIEW_MERGE_TIMEOUT (R149): 16 µs after an item posted, its view writes merge. -/
def execViewMergeTimeout (id : Nat) (s : State) : Host.Outcome State Fault Refusal :=
  .next (s.mergeViews fun w => w.item = id)

end Sys2Proof.Machine
end

