-- ==== Sys2Proof/Machine/Link.lean ====
section
/-! DEFINITION. Flits: their bytes, CRC-32 and Reed-Solomon code, and what a port and its lanesets do to send one
(spec/25_fabric.md R340 to R356). -/

namespace Sys2Proof.Machine

open Sys2Proof

/-! ### The code of a flit (R341) -/

/-- Times x in GF(2^8) with field polynomial 0x11D. -/
def gfX (a : Nat) : Nat := if a < 128 then 2 * a else (2 * a) ^^^ 0x11D

/-- Product in GF(2^8), bit by bit of `b`. -/
def gfMulGo (a b acc : Nat) : Nat → Nat
  | 0 => acc
  | n + 1 => gfMulGo (gfX a) (b / 2) (if b % 2 = 1 then acc ^^^ a else acc) n

/-- Product in GF(2^8). -/
def gfMul (a b : Nat) : Nat := gfMulGo a b 0 8

/-- α^n. -/
def gfPow : Nat → Nat
  | 0 => 1
  | n + 1 => gfX (gfPow n)

/-- a^n by repeated product. -/
def gfExp (a : Nat) : Nat → Nat
  | 0 => 1
  | n + 1 => gfMul a (gfExp a n)

/-- Inverse: a^254. -/
def gfInv (a : Nat) : Nat := gfExp a 254

/-- Sum of two polynomials, lowest coefficient first. -/
def polyAdd : List Nat → List Nat → List Nat
  | [], b => b
  | a, [] => a
  | x :: a, y :: b => (x ^^^ y) :: polyAdd a b

/-- A polynomial times a number. -/
def polyScale (k : Nat) (a : List Nat) : List Nat := a.map (gfMul k)

/-- Product of two polynomials. -/
def polyMul : List Nat → List Nat → List Nat
  | [], _ => []
  | x :: a, b => polyAdd (polyScale x b) (0 :: polyMul a b)

/-- Value of a polynomial. -/
def polyEval (a : List Nat) (x : Nat) : Nat := a.foldr (fun c v => c ^^^ gfMul x v) 0

/-- The generator with roots α^0 to α^15, highest coefficient first, without its leading 1. -/
def rsGen : List Nat :=
  (((List.range 16).foldl (fun g i => polyMul g [gfPow i, 1]) [1]).reverse).drop 1

/-- One byte through the encoder's register, highest coefficient first. -/
def rsShift (reg : List Nat) (b : Nat) : List Nat :=
  let f := b ^^^ reg.headD 0
  List.zipWith (fun r g => r ^^^ gfMul f g) (reg.drop 1 ++ [0]) rsGen

/-- The 16 parity bytes of 240 bytes. -/
def rsParity (d : List Nat) : List Nat := d.foldl rsShift (List.replicate 16 0)

/-- The 16 syndromes of 256 bytes, the first byte the highest coefficient. -/
def rsSyndromes (c : List Nat) : List Nat :=
  (List.range 16).map fun i => c.foldl (fun v b => gfMul v (gfPow i) ^^^ b) 0

/-- The error locator by Berlekamp and Massey: locator, its shifted predecessor, degree, predecessor's discrepancy. -/
def rsLocate (syn : List Nat) : List Nat × Nat :=
  let step := fun (st : List Nat × List Nat × Nat × Nat) (n : Nat) =>
    let (lam, b, l, bd) := st
    let d := ((List.range (l + 1)).map fun i => if i ≤ n then gfMul (lam.getD i 0) (syn.getD (n - i) 0) else 0).foldl (· ^^^ ·) 0
    let b := 0 :: b
    if d = 0 then (lam, b, l, bd)
    else
      let lam' := polyAdd lam (polyScale (gfMul d (gfInv bd)) b)
      if 2 * l ≤ n then (lam', lam, n + 1 - l, d) else (lam', b, l, bd)
  let r := (List.range 16).foldl step ([1], [1], 0, 1)
  (r.1, r.2.2.1)

/-- The error values of a word with locator `lam`: (exponent, value) pairs, by Forney. -/
def rsErrors (syn lam : List Nat) : List (Nat × Nat) :=
  let om := (polyMul syn lam).take 16
  let dl := (List.range lam.length).map fun i => if i % 2 = 0 then lam.getD (i + 1) 0 else 0
  (List.range 255).filterMap fun e =>
    let xi := gfPow ((255 - e) % 255)
    if polyEval lam xi = 0 then some (e, gfMul (gfPow e) (gfMul (polyEval om xi) (gfInv (polyEval dl xi)))) else none

/-- The words that decoding may give, with the number of bytes corrected. Bytes 0 and 255 have one locator, so that an error there
may be split between them in any way that leaves at most 8 bytes corrected; the CRC decides. -/
def rsDecode (c : List Nat) : List (List Nat × Nat) :=
  let syn := rsSyndromes c
  let (lam, l) := if syn.all (· = 0) then ([1], 0) else rsLocate syn
  let errs := rsErrors syn lam
  if 8 < l || errs.length ≠ l then []
  else
    let ends := ((errs.find? fun e => e.1 = 0).map (·.2)).getD 0
    let inner := errs.filter fun e => e.1 ≠ 0
    let w := inner.foldl (fun w e => w.set (255 - e.1) (w.getD (255 - e.1) 0 ^^^ e.2)) c
    let fix := fun (x : Nat) =>
      ((w.set 0 (w.getD 0 0 ^^^ x)).set 255 (w.getD 255 0 ^^^ ends ^^^ x),
        inner.length + (if x = 0 then 0 else 1) + (if x = ends then 0 else 1))
    ((0 :: ends :: List.range 256).map fix).filter fun e => e.2 ≤ 8

/-- One byte through CRC-32 of IEEE 802.3, reflected. -/
def crcByte (crc b : Nat) : Nat :=
  (List.range 8).foldl (fun c _ => if c % 2 = 1 then (c / 2) ^^^ 0xEDB88320 else c / 2) (crc ^^^ b)

/-- CRC-32 of a list of bytes. -/
def crc32 (l : List Nat) : Nat := (l.foldl crcByte 0xFFFFFFFF) ^^^ 0xFFFFFFFF

/-- The low `n` bytes of a number, lowest first. -/
def bytesOf (v : Nat) : Nat → List Nat
  | 0 => []
  | n + 1 => v % 256 :: bytesOf (v / 256) n

/-- The number a list of bytes stands for, lowest first. -/
def natOf : List Nat → Nat
  | [] => 0
  | b :: t => b + 256 * natOf t

/-- The 256 bytes of a flit (R341). -/
def flitBytes (head : BitVec 64) (payload : BitVec 1792) (seq ack : BitVec 16) : List Nat :=
  let body := bytesOf head.toNat 8 ++ bytesOf payload.toNat 224 ++ bytesOf seq.toNat 2 ++ bytesOf ack.toNat 2
  let d := body ++ bytesOf (crc32 body) 4
  d ++ rsParity d

/-- A received flit: header, payload without the bytes beyond PLEN + 1, SEQ, ACK and the numbers of its corrected bytes when it is
good (R341). -/
def flitOpen (bits : Line) : Option (BitVec 64 × BitVec 1792 × BitVec 16 × BitVec 16 × List Nat) :=
  let c := bytesOf bits.toNat 256
  match (rsDecode c).find? (fun w => crc32 (w.1.take 236) = natOf ((w.1.drop 236).take 4)) with
  | some (w, _) =>
    let f := fun o k => natOf ((w.drop o).take k)
    let diff := (List.range 256).filter fun i => c.getD i 0 ≠ w.getD i 0
    some (BitVec.ofNat 64 (f 0 8), BitVec.ofNat 1792 (f 8 224 % 2 ^ (8 * (f 7 1 + 1))), BitVec.ofNat 16 (f 232 2), BitVec.ofNat 16 (f 234 2), diff)
  | none => none

/-! ### Ports (R345, R351, R352, R354) -/

/-- A port. -/
def State.port (s : State) (p : BitVec 3) : Port := s.fab.ports[p.toNat]'(p.isLt)

/-- Change a port. -/
def State.onPort (s : State) (p : BitVec 3) (f : Port → Port) : State :=
  { s with fab := { s.fab with ports := s.fab.ports.set p.toNat (f (s.port p)) p.isLt } }

/-- A laneset of a port. -/
def Port.lane (p : Port) (l : BitVec 3) : Laneset := p.lanes[l.toNat]'(l.isLt)

/-- Change a laneset. -/
def Port.onLane (p : Port) (l : BitVec 3) (f : Laneset → Laneset) : Port :=
  { p with lanes := p.lanes.set l.toNat (f (p.lane l)) l.isLt }

/-- The lanesets that are up, in ascending order. -/
def Port.ups (p : Port) : List (BitVec 3) := ((List.range 8).map (BitVec.ofNat 3)).filter fun l => (p.lane l).up

/-- The active slot's entry: PEERPKG, PEERPORT, DARK (R350). -/
def Port.entry (p : Port) : BitVec 14 := vrd p.active p.slot.toNat 0
def Port.peerPkg (p : Port) : BitVec 10 := p.entry.extractLsb' 0 10
def Port.peerPort (p : Port) : BitVec 3 := p.entry.extractLsb' 10 3
def Port.dark (p : Port) : Bool := p.entry.getLsbD 13
/-- Slots of the active calendar less one, and a slot's length in pod beats (R347). -/
def Port.nsm (p : Port) : Nat := (p.acal.extractLsb' 0 6).toNat
def Port.slotb (p : Port) : Nat := max 1 (p.acal.extractLsb' 6 10).toNat

/-- Count in a live counter of a laneset (R347): FTX 0, FRX 1, CSYM 2, UNC 3, RPLY 4, RMAP 5. -/
def Laneset.bump (l : Laneset) (i n : Nat) : Laneset := { l with count := vwr l.count i (vrd l.count i 0 + BitVec.ofNat 64 n) }

/-- Whether a rotor slot admits `n` flits from now on (R351): its relock window of 1.28 µs is over, and they end before its
last 64 ns, which end 2.048 µs after its last beat. -/
def State.roomFor (s : State) (p : Port) (n : Nat) : Bool :=
  if p.nsm = 0 then true
  else
    let beat := s.hub.dbeat.toNat - p.swBeat
    let left := p.slotb - beat % p.slotb
    decide (s.fab.lastBeat + 11520 ≤ s.now + 18432 * (beat % p.slotb)) &&
      decide (s.now + 72 * n + 576 ≤ s.fab.lastBeat + 18432 * left)

/-- Whether a rotor slot admits a flit now (R351). -/
def State.beforeGuard (s : State) (p : Port) : Bool := s.roomFor p 1

/-- The route table's entry for a package (R354). -/
def Fabric.route (f : Fabric) (n : BitVec 10) : BitVec 20 := peek f.routes n.toNat

/-- Whether a port may now carry a piece, or a short flit, toward a package (R354). -/
def State.portServes (s : State) (p : BitVec 3) (dpkg : BitVec 10) (short : Bool) : Bool :=
  let r := s.fab.route dpkg
  let o := s.port p
  r.getLsbD 0 && r.getLsbD (1 + p.toNat) && o.st = 2 && !o.dark &&
    (o.peerPkg = dpkg || (o.peerPkg = r.extractLsb' 9 10 && (short || r.getLsbD 19))) &&
    (o.peer = 2 || o.peer = 3) && !o.ups.isEmpty

/-- A port that may carry a piece toward a package: the lowest-numbered. -/
def State.portFor (s : State) (dpkg : BitVec 10) (short : Bool) : Option (BitVec 3) :=
  ((List.range 8).map (BitVec.ofNat 3)).find? fun p => s.portServes p dpkg short

/-- Whether a flit header's TYPE is short (R342). -/
def headShort (h : BitVec 64) : Bool := h.extractLsb' 0 4 = 2

/-- A header without BEAT, BNUM and PLEN (R342). -/
def mkHead (ty : Nat) (dpkg spkg : BitVec 10) (hlane : BitVec 4) (hops : BitVec 3) : BitVec 64 :=
  BitVec.ofNat 64 (ty + dpkg.toNat * 2 ^ 4 + spkg.toNat * 2 ^ 14 + hlane.toNat * 2 ^ 24 + hops.toNat * 2 ^ 28)

/-- The address-hash lane of a DVA (R142). -/
def dvaLane (a : Nat) : BitVec 4 := BitVec.ofNat 4 ((List.range 12).foldl (fun x j => x ^^^ (a / 2 ^ (4 * j + 8) % 16)) 0)

/-- Whether a source names this package's own pieces, or a piece that is performed again; and the source of a piece then. -/
def ownSrc (n : Nat) : Bool := 8 ≤ n && n < 16
def againSrc (n : Nat) : Bool := n = 9 || 16 ≤ n
def srcAgain (n : Nat) : Nat := if ownSrc n then 9 else 16 + n % 16

/-- The payload of a message, and its length minus 1: a relayed one goes on as it came (R354). -/
def msgPayload : LinkMsg → BitVec 1792
  | .raw _ pay _ => pay
  | m => Config.buildPayload m
def msgLength : LinkMsg → BitVec 8
  | .raw _ _ n => n
  | m => Config.payloadLen m

/-- A message as its destination reads it. -/
def msgOpened : LinkMsg → LinkMsg
  | .raw ty pay _ => Config.parsePayload ty pay
  | m => m

/-- Put a piece or an answer of this package in the hub's buffer (R354). -/
def State.enqueue (s : State) (short : Bool) (dpkg : BitVec 10) (hlane : BitVec 4) (m : LinkMsg) : State :=
  let h := mkHead (if short then 2 else 1) dpkg s.fab.pkgid hlane s.fab.rhops
  { s with fab := { s.fab with relay := s.fab.relay ++ [(h, m, 8)] } }

/-- Whether a SEQ is at or past another, modulo 2^16 (R343). -/
def seqPast (a b : BitVec 16) : Bool := decide ((a - b).toNat < 32768)

/-- The logical positions that cross on spare channels in the flit of a SEQ, as the peer has asked (R346). -/
def Laneset.spared (k : Laneset) (seq : BitVec 16) : List (BitVec 6 × BitVec 7) :=
  (k.txmap.filter fun e => seqPast seq e.2.2).map fun e => (e.1, e.2.1)

/-- A remap that is long in force stays so as SEQ wraps round. -/
def Laneset.keepSpared (k : Laneset) : Laneset :=
  { k with txmap := k.txmap.map fun e => if seqPast (k.txseq - 256) e.2.2 then (e.1, e.2.1, k.txseq - 256) else e }

/-- The remaps in force stay so in a new numbering of the laneset (log 45). -/
def Laneset.sparedAnew (k : Laneset) : List (BitVec 6 × BitVec 7 × BitVec 16) :=
  (k.spared (k.txseq - 1)).map fun e => (e.1, e.2, 0)

/-- A flit with its SEQ and the present ACK on the wire, for 8 ns (R341, R343). -/
def State.wire (s : State) (p l : BitVec 3) (f : SentFlit) : State :=
  let ls := (s.port p).lane l
  let pay := msgPayload f.msg &&& BitVec.ofNat 1792 (2 ^ (8 * ((f.head.extractLsb' 56 8).toNat + 1)) - 1)
  let bits := BitVec.ofNat 2048 (natOf (flitBytes f.head pay f.seq ls.rxseq))
  let now := s.now
  let s := s.onPort p fun o => o.onLane l fun k => { k with free := (if now < k.free + Config.icTicks then k.free else now) + 72 }
  s.send (.flit p l bits (ls.spared f.seq))

/-- Send a new flit on a laneset (R341, R343): numbered, with the ACK of what has arrived, kept until acknowledged. `wait` is the
header under which its piece waited. -/
def State.sendFlit (s : State) (p l : BitVec 3) (head wait : BitVec 64) (m : LinkMsg) (src : Nat) : State :=
  let ls := (s.port p).lane l
  let h := (head &&& 0x7FFFFFFF) ||| (if ls.beatDue then 0x80000000 else 0) ||| ((s.hub.dbeat.truncate 16 : BitVec 16).zeroExtend 64 <<< 32) |||
    ((msgLength m).zeroExtend 64 <<< 56)
  let f : SentFlit := { seq := ls.txseq, head := h, wait := wait, msg := m, naks := 0, src := src }
  let s := s.onPort p fun o => o.onLane l fun k =>
    { (k.keepSpared.bump 0 1) with txseq := k.txseq + 1, sent := k.sent ++ [f], beatDue := false }
  s.wire p l f

/-- Send a flit that is still kept again (R344). -/
def State.resend (s : State) (p l : BitVec 3) (f : SentFlit) : State :=
  (s.onPort p fun o => o.onLane l fun k => k.bump 4 1).wire p l f

/-- A link-control message on a laneset (R344, R346, R352). -/
def State.control (s : State) (p l : BitVec 3) (m : LinkMsg) : State :=
  s.onPort p fun o => o.onLane l fun k => { k with ctl := k.ctl ++ [m] }

/-- A link-control message on every laneset that is up. -/
def State.controlAll (s : State) (p : BitVec 3) (m : LinkMsg) : State :=
  (s.port p).ups.foldl (fun s l => s.control p l m) s

/-- TYPE of a message of the link itself (R342). -/
def ctlType : LinkMsg → Nat
  | .idle => 0
  | .marker => 3
  | .identity _ _ _ => 4
  | _ => 5

/-- Post a fabric event in both queues (R357): kind, port, laneset, channel, package. -/
def State.fabEvent (s : State) (kind port lane chan pkg : Nat) : State :=
  let e := BitVec.ofNat 64 (kind + port * 2 ^ 4 + lane * 2 ^ 7 + chan * 2 ^ 10 + pkg * 2 ^ 17 + s.hub.dbeat.toNat % 2 ^ 32 * 2 ^ 32)
  let f := s.fab
  let f := if f.evF.length < 256 then { f with evF := f.evF ++ [e] } else { f with lostF := f.lostF + 1 }
  let f := if f.evM.length < 256 then { f with evM := f.evM ++ [e] } else { f with lostM := f.lostM + 1 }
  { s with fab := f }

/-- Whether a message carries data of an item: it is returned when its laneset cannot deliver it (R352). -/
def isPiece : LinkMsg → Bool
  | .putLine _ _ => true
  | .remote _ => true
  | .ack _ _ _ _ _ _ => true
  | .reply _ _ _ _ _ => true
  | .raw _ _ _ => true
  | _ => false

/-- What returns to the hub's buffer of the flits that a laneset keeps: its pieces, in the order sent, with the hops that they had
there (R352, R354). -/
def Laneset.pieces (k : Laneset) : List (BitVec 64 × LinkMsg × Nat) :=
  (k.sent.filter fun f => isPiece f.msg).map fun f => (f.wait, f.msg, f.src)

/-- Return the unacknowledged pieces of a port to the hub's buffer (R352), in the order sent, ahead of what waits there. -/
def State.returnPieces (s : State) (p : BitVec 3) : State :=
  let back := ((List.range 8).map (BitVec.ofNat 3)).flatMap fun l => ((s.port p).lane l).pieces
  let s := s.onPort p fun o => { o with lanes := o.lanes.map fun k => { k with sent := k.sent.filter fun f => !isPiece f.msg } }
  { s with fab := { s.fab with relay := back ++ s.fab.relay } }

/-- Every laneset of a port goes down; its numbering starts again at the next lock (log 45). -/
def Port.lanesDown (o : Port) : Port :=
  { o with lanes := o.lanes.map fun k =>
      { k with up := false, lost := false, txseq := 1, rxseq := 0, heard := 0, sent := [], replay := [], ctl := [], nakking := false,
               marker := false, relock := none, switches := [], txmap := k.sparedAnew, power := [] } }

/-- Whether two pieces belong to one stream: destination, source package and HLANE (R354). -/
def sameStream (a b : BitVec 64) : Bool := a.extractLsb' 4 24 = b.extractLsb' 4 24

/-- The first waiting piece that may go, no earlier one of its stream waiting, and the rest. -/
def firstReady (can : BitVec 64 × LinkMsg × Nat → Bool) : List (BitVec 64 × LinkMsg × Nat) → List (BitVec 64 × LinkMsg × Nat) →
    Option ((BitVec 64 × LinkMsg × Nat) × List (BitVec 64 × LinkMsg × Nat))
  | _, [] => none
  | done, e :: t =>
    if can e && !done.any (fun d => sameStream d.1 e.1) then some (e, done ++ t) else firstReady can (done ++ [e]) t

/-- Whether `b` is the second half of the line whose first half is `a` (R310). -/
def restOf (a b : LinkMsg) : Bool :=
  match msgOpened a, msgOpened b with
  | .putLine false x, .putLine true y =>
    x.spkg = y.spkg && x.scoach = y.scoach && x.item = y.item && x.coach = y.coach && x.bank = y.bank && x.line = y.line
  | _, _ => false

/-- Flits of the piece that a message begins (R354): a line of a PUT takes two. -/
def flitsOf (m : LinkMsg) : Nat :=
  match msgOpened m with
  | .putLine false _ => 2
  | _ => 1

/-- Relay credits that the next hop of a port has advertised (R354), kept by port number. -/
def State.credit (s : State) (p : BitVec 3) : Nat :=
  ((s.fab.credits.find? fun c => c.1 = p.zeroExtend 10).map (·.2)).getD 0

/-- Whether a message takes a relay credit of its next hop (R354): a relayed one, and one of this package that the next hop
relays. -/
def State.takesCredit (s : State) (p : BitVec 3) (e : BitVec 64 × LinkMsg × Nat) : Bool :=
  !ownSrc e.2.2 || (s.port p).peerPkg ≠ e.1.extractLsb' 4 10

/-- Whether a message is the second half of a PUT's line (R310). -/
def isUpper (m : LinkMsg) : Bool := match msgOpened m with | .putLine true _ => true | _ => false

/-- Whether a message may go by a port as far as credits and hops say (R354): without hops a relayed one waits for a slot
direct to its destination. -/
def State.mayRelay (s : State) (p : BitVec 3) (e : BitVec 64 × LinkMsg × Nat) : Bool :=
  (!s.takesCredit p e || 0 < s.credit p) &&
    (ownSrc e.2.2 || 0 < (e.1.extractLsb' 28 3).toNat || (s.port p).peerPkg = e.1.extractLsb' 4 10)

/-- The port that carries a message from the hub's buffer now: the lowest-numbered that may, outside its relock window and its guard
(R351, R354). -/
def State.portNow (s : State) (e : BitVec 64 × LinkMsg × Nat) : Option (BitVec 3) :=
  ((List.range 8).map (BitVec.ofNat 3)).find? fun p =>
    s.portServes p (e.1.extractLsb' 4 10) (headShort e.1) && s.beforeGuard (s.port p) && s.mayRelay p e

/-- Whether a stream has a flit unacknowledged on a laneset other than `l` of port `p` (R345). -/
def State.streamElsewhere (s : State) (p l : BitVec 3) (h : BitVec 64) : Bool :=
  ((List.range 64).map fun i => (BitVec.ofNat 3 (i / 8), BitVec.ofNat 3 i)).any fun x =>
    x ≠ (p, l) && ((s.port x.1).lane x.2).sent.any fun f => isPiece f.msg && sameStream f.head h

/-- Relayed flits that came by a port and take a place of the relay buffer, which they keep until they are acknowledged (R354). -/
def State.placesHeld (s : State) (p : BitVec 3) : Nat :=
  let mine := fun (n : Nat) => decide (n % 16 = p.toNat)
  (s.fab.relay.filter fun e => mine e.2.2).length +
    (s.fab.ports.toList.map fun o => (o.lanes.toList.map fun k => (k.sent.filter fun f => isPiece f.msg && mine f.src).length).sum).sum

/-- A place of the relay buffer is free again: one credit goes to the port its flit came by, on one laneset (R354). -/
def State.freePlace (s : State) (p : BitVec 3) : State :=
  match (s.port p).ups with
  | l :: _ => s.control p l (.credit 1)
  | [] => s

/-- Send a message from the hub's buffer on a laneset, `rest` staying there (R354): the hops of a relayed one count down. -/
def State.sendWaiting (s : State) (p l : BitVec 3) (e : BitVec 64 × LinkMsg × Nat) (rest : List (BitVec 64 × LinkMsg × Nat)) : State :=
  let own := ownSrc e.2.2
  let cr := if s.takesCredit p e then s.fab.credits.map fun c => if c.1 = p.zeroExtend 10 then (c.1, c.2 - 1) else c else s.fab.credits
  let s := { s with fab := { s.fab with relay := rest, credits := cr } }
  let hops := e.1.extractLsb' 28 3
  let h := if own || hops = 0 then e.1 else e.1 - 0x10000000
  s.sendFlit p l h e.1 e.2.1 e.2.2

/-- The laneset that carries a stream of a port, by HLANE. -/
def Port.laneFor (o : Port) (h : BitVec 64) : Option (BitVec 3) := o.ups[(h.extractLsb' 24 4).toNat % max 1 o.ups.length]?

/-- Whether a message in the hub's buffer is the rest of a piece that a laneset of a port has begun (R310, R352): the second half of a
line whose first half it still keeps, or has had acknowledged. -/
def State.begunHere (s : State) (p l : BitVec 3) (e : BitVec 64 × LinkMsg × Nat) : Bool :=
  let o := s.port p
  let keeps := fun (k : Laneset) => k.sent.any fun f => restOf f.msg e.2.1
  let gone : Bool := !(s.fab.ports.toList.any fun o => o.lanes.toList.any keeps)
  let r := s.fab.route (e.1.extractLsb' 4 10)
  isUpper e.2.1 && !(s.fab.relay.any fun d => restOf d.2.1 e.2.1) &&
    (keeps (o.lane l) ||
      (gone && o.laneFor e.1 = some l && r.getLsbD (1 + p.toNat) && (o.peerPkg = e.1.extractLsb' 4 10 || o.peerPkg = r.extractLsb' 9 10)))

/-- The next link-control message of a laneset, which has something of its kind to send: a drain marker stays behind the rest of a piece
that the laneset has begun (R352). -/
def State.nextCtl (s : State) (p l : BitVec 3) : Option LinkMsg :=
  let behind := s.fab.relay.any (s.begunHere p l)
  ((s.port p).lane l).ctl.find? fun m => !(behind && m = .marker)

/-- Send the next link-control message of a laneset. -/
def State.ctlTurn (s : State) (p l : BitVec 3) : State :=
  match s.nextCtl p l with
  | some m =>
    let s := s.onPort p fun o => o.onLane l fun k => { k with ctl := k.ctl.erase m }
    s.sendFlit p l (mkHead (ctlType m) (s.port p).peerPkg s.fab.pkgid 0 0) 0 m 8
  | none => s

/-- Send what a laneset sends next (R342 to R344, R351, R354): a flit to be sent again, in SEQ order and, if it is of data, outside
the relock window and the guard, where link control goes ahead of it; the rest of a piece that it has begun, a link-control message, a
piece whose stream goes out on this laneset (R345), or an idle flit. A stream moves to another laneset only once all that it sent on
the old one is acknowledged. -/
def State.laneTurn (s : State) (p l : BitVec 3) : State :=
  let o := s.port p
  let k := o.lane l
  if s.now < k.free then s
  else
    match k.replay with
    | n :: t =>
      let on := s.onPort p fun o => o.onLane l fun k => { k with replay := t }
      (match k.sent.find? fun f => f.seq = n with
       | none => on
       | some f =>
         if !(isPiece f.msg && !s.beforeGuard o) then on.resend p l f
         else if (s.nextCtl p l).isNone || 128 ≤ k.sent.length then s
         else (s.ctlTurn p l).onPort p fun o => o.onLane l fun j => { j with replay := j.replay ++ [k.txseq] })
    | [] =>
    if 128 ≤ k.sent.length then s
    else
    let begun := fun (e : BitVec 64 × LinkMsg × Nat) => s.begunHere p l e && s.mayRelay p e && s.beforeGuard o
    match (if o.st = 2 || o.st = 3 then firstReady begun [] s.fab.relay else none) with
    | some (e, rest) => s.sendWaiting p l e rest
    | none =>
    if (s.nextCtl p l).isSome then s.ctlTurn p l
    else
      let can := fun (e : BitVec 64 × LinkMsg × Nat) =>
        decide (o.laneFor e.1 = some l) && decide (s.portNow e = some p) && s.roomFor o (flitsOf e.2.1) && !s.streamElsewhere p l e.1
      match (if o.st = 2 then firstReady can [] s.fab.relay else none) with
      | some (e, rest) => s.sendWaiting p l e rest
      | none => if k.up then s.sendFlit p l (mkHead 0 o.peerPkg s.fab.pkgid 0 0) 0 .idle 8 else s

/-- The fabric's turn: every laneset that is up or has its identity to send, on every port whose link runs. -/
def State.fabricTurn (s : State) : State :=
  ((List.range 8).map (BitVec.ofNat 3)).foldl (fun s p =>
    let o := s.port p
    let run := ((List.range 8).map (BitVec.ofNat 3)).filter fun l => (o.lane l).up || !(o.lane l).ctl.isEmpty
    if o.st = 1 || o.st = 2 || o.st = 3 || o.st = 4 || o.st = 6 then run.foldl (fun s l => s.laneTurn p l) s else s) s

end Sys2Proof.Machine
end

