-- ==== Sys2Proof/Machine/Queue.lean ====
section
/-! DEFINITION. The hub's own accesses of DVAs (spec/07_memory.md R385), levels of work and queues (spec/03_execution.md R45
to R47, R60, R61, R67). -/

namespace Sys2Proof.Machine

open Sys2Proof

/-! ### The hub's accesses (R385) -/

/-- The place of a DVA for the hub: a compressed page is expanded first (R126). An access that meets a page on the move, or one that its
port may not send yet (R359), has waited for that by now (`hubHeld`). None when the access is not performed; a port that is down fails its completion, which counts (R371). Log 43. -/
def State.hubReady (s : State) (job : BitVec 8) (a : Nat) (write : Bool) : Option Place × State :=
  match s.hubPlace job a (!write) write with
  | .error _ => (none, s)
  | .ok (.tier t, _) =>
    match s.hub.compressedAt t with
    | none => if s.placeOk job (.tier t) = none then (some (.tier t), s) else (none, s.countError 16 4)
    | some c =>
      if c.hurt then (none, s)
      else
        let (ok, s) := s.beginExpansion job a
        if ok then
          match execPageExpansion (pageName job (a / 65536 * 65536)) s with
          | .next s => (match s.hubPlace job a (!write) write with
            | .ok p => (some p.1, s)
            | .error _ => (none, s))
          | _ => (none, s)
        else (none, s)
  | .ok (p, _) => match s.placeOk job p with
    | none => (some p, s)
    | some .wait => (some p, s)
    | some (.fail 8 1) => (none, s.countError 16 4)
    | some _ => (none, s)

/-- Whether an access that the hub makes of `n` bytes has to wait: it meets a page under migration or expansion (R385), or the port of a
host window among them may not send now, its priority being paused or its pair slowed by a CNP (R359). -/
def State.hubHeld (s : State) (job : BitVec 8) (a n : Nat) (write : Bool) : Bool :=
  !(s.hub.moving.isEmpty && s.hub.expanding.isEmpty && s.fab.paused.isEmpty && s.fab.rates.isEmpty) && (List.range ((a % 4 + n + 3) / 4)).any fun i =>
    match s.hubPlace job ((a / 4 * 4 + 4 * i) % 2 ^ 56) (!write) write with
    | .ok p => s.hub.onMove p.2 || decide (s.placeOk job p.1 = some .wait)
    | .error _ => false

/-- Places of `n` consecutive aligned words. -/
def State.hubWords (s : State) (job : BitVec 8) (a : Nat) (write : Bool) : Nat → Option (List Place) × State
  | 0 => (some [], s)
  | n + 1 =>
    match s.hubReady job a write with
    | (none, s) => (none, s)
    | (some p, s) =>
      match s.hubWords job ((a + 4) % 2 ^ 56) write n with
      | (some l, s) => (some (p :: l), s)
      | (none, s) => (none, s)

/-- Read `n` consecutive aligned words; none when the read is not performed, or meets an error that lasts (R300). -/
def State.hubRead (s : State) (job : BitVec 8) (a n : Nat) : Option (List Lane) × State :=
  match (s.countWalks job a (4 * n)).hubWords job a false n with
  | (some l, s) =>
    let (ok, s) := s.readOk [l.flatMap (s.placeKeys job)]
    (if ok then some (l.map fun p => s.readWord .hub job p 0) else none, s)
  | (none, s) => (none, s)

/-- Write consecutive aligned words; false when the write is not performed, or its completion reports an error that lasts. -/
def State.hubWrite (s : State) (job : BitVec 8) (a : Nat) (v : List Lane) : Bool × State :=
  match (s.countWalks job a (4 * v.length)).hubWords job a true v.length with
  | (some l, s) =>
    let (ok, s) := s.readOk [l.flatMap (s.putKeys job)]
    if ok then (true, (l.zip v).foldl (fun s p => s.writeWord .hub job p.1 (BitVec.allOnes 32) p.2) s) else (false, s)
  | (none, s) => (false, s)

/-- The number that a list of words stands for, lowest first. -/
def natOfLanes : List Lane → Nat
  | [] => 0
  | a :: t => a.toNat + 2 ^ 32 * natOfLanes t

/-- The low `n` words of a number, lowest first. -/
def lanesOfNat (v : Nat) : Nat → List Lane
  | 0 => []
  | n + 1 => BitVec.ofNat 32 v :: lanesOfNat (v / 2 ^ 32) n

/-- Words that `n` bytes from a byte address on lie in. -/
def wordsAt (a n : Nat) : Nat := (a % 4 + n + 3) / 4

/-- Read `n` bytes at any byte address, as a number; none when the read is not performed. -/
def State.hubReadBytes (s : State) (job : BitVec 8) (a n : Nat) : Option Nat × State :=
  match s.hubRead job (a / 4 * 4) (wordsAt a n) with
  | (some w, s) => (some (natOfLanes w / 256 ^ (a % 4) % 256 ^ n), s)
  | (none, s) => (none, s)

/-- Write the `n` low bytes of a number at any byte address: whether the write was performed. -/
def State.hubWriteBytes (s : State) (job : BitVec 8) (a n v : Nat) : Bool × State :=
  match (s.countWalks job a n).hubWords job (a / 4 * 4) true (wordsAt a n) with
  | (some l, s) =>
    let (ok, s) := s.readOk [l.flatMap (s.putKeys job)]
    let masks := lanesOfNat ((256 ^ n - 1) * 256 ^ (a % 4)) (wordsAt a n)
    let vals := lanesOfNat (v % 256 ^ n * 256 ^ (a % 4)) (wordsAt a n)
    if ok then
      (true, (l.zip (masks.zip vals)).foldl
        (fun (s : State) (p : Place × Lane × Lane) => s.writeWord .hub job p.1 p.2.1 p.2.2) s)
    else (false, s)
  | (none, s) => (false, s)

/-! ### Levels (R45 to R47) -/

/-- Key of a level entry: graph n at n, phase n at 4,096 + n, job n at 5,120 + n. -/
def graphKey (n : Nat) : Nat := n
def phaseKey (n : Nat) : Nat := 4096 + n
def jobKey (n : Nat) : Nat := 5120 + n

/-- A level entry. -/
def Hub.level (h : Hub) (k : Nat) : BitVec 128 := peek h.levels k

/-- Replace a level entry. -/
def Hub.setLevel (h : Hub) (k : Nat) (v : BitVec 128) : Hub := { h with levels := poke h.levels k v }

/-- Fields of a level entry (R45). -/
def lvCount (e : BitVec 128) : BitVec 32 := e.extractLsb' 0 32
def lvTarget (e : BitVec 128) : BitVec 32 := e.extractLsb' 32 32
def lvParent (e : BitVec 128) : Nat := (e.extractLsb' 64 12).toNat
def lvValid (e : BitVec 128) : Bool := e.getLsbD 76
def lvDone (e : BitVec 128) : Bool := e.getLsbD 77
def lvCancelled (e : BitVec 128) : Bool := e.getLsbD 78

/-- The entries from a graph upward: graph, phase, job. A PARENT that names no entry (1,024 or more in a graph entry, 256 or more
in a phase entry) ends the chain: nothing lies above that entry. DESIGN CHOICE, log 56. -/
def Hub.chain (h : Hub) (gid : Nat) : List Nat :=
  let p := lvParent (h.level (graphKey gid))
  let j := lvParent (h.level (phaseKey p))
  graphKey gid :: (if p < 1024 then phaseKey p :: (if j < 256 then [jobKey j] else []) else [])

/-- Add 1 to COUNT along a chain (R47): it goes up only where the increment sets DONE, and stops at an entry with
VALID = 0. -/
def countUp (h : Hub) : List Nat → Hub
  | [] => h
  | k :: t =>
    let e := h.level k
    if lvValid e then
      let c := lvCount e + 1
      let done := !lvDone e && c = lvTarget e && lvTarget e ≠ 0
      let e' := setBit ((e &&& ~~~(0xFFFFFFFF : BitVec 128)) ||| c.zeroExtend 128) 77 (lvDone e || done)
      let h := h.setLevel k e'
      if done then countUp h t else h
    else h

/-- Add 1 to FAILED along a chain (R47); it stops at an entry with VALID = 0. -/
def failUp (h : Hub) : List Nat → Hub
  | [] => h
  | k :: t =>
    let e := h.level k
    if lvValid e then
      let f : BitVec 32 := e.extractLsb' 80 32 + 1
      failUp (h.setLevel k ((e &&& ~~~((0xFFFFFFFF : BitVec 128) <<< 80)) ||| (f.zeroExtend 128 <<< 80))) t
    else h

/-- Whether a launch submitted with a graph number lies under an entry marked as cancelled (R73). -/
def Hub.underCancel (h : Hub) (gid : Nat) : Bool := (h.chain gid).any fun k => lvCancelled (h.level k)

/-! ### Queues (R60, R61) -/

/-- A queue's registers. -/
def Hub.queue (h : Hub) (q : BitVec 6) : QueueRegs := h.queues[q.toNat]'(q.isLt)

/-- Change a queue's registers. -/
def State.onQueue (s : State) (q : BitVec 6) (f : QueueRegs → QueueRegs) : State :=
  { s with hub := { s.hub with queues := s.hub.queues.set q.toNat (f (s.hub.queue q)) q.isLt } }

/-- Fields of QCTL (R60). -/
def QueueRegs.lsize (r : QueueRegs) : Nat := (r.ctl.extractLsb' 0 5).toNat
def QueueRegs.tickets (r : QueueRegs) : Nat := (r.ctl.extractLsb' 5 10).toNat
def QueueRegs.pceil (r : QueueRegs) : Nat := (r.ctl.extractLsb' 15 2).toNat
def QueueRegs.job (r : QueueRegs) : BitVec 8 := r.ctl.extractLsb' 17 8
def QueueRegs.en (r : QueueRegs) : Bool := r.ctl.getLsbD 25
def QueueRegs.sized (r : QueueRegs) : Bool := 4 ≤ r.lsize && r.lsize ≤ 16

/-- DVA of a slot (R60). -/
def QueueRegs.slotAddr (r : QueueRegs) (i : BitVec 32) : Nat :=
  (r.base.toNat + 128 * (i.toNat % 2 ^ r.lsize)) % 2 ^ 56

/-- A slot could not be read or written: RGN becomes 1 and EN 0 (R61). -/
def State.regionFault (s : State) (q : BitVec 6) : State :=
  s.onQueue q fun r => { r with err := setBit r.err 4 true, ctl := setBit r.ctl 25 false }

/-- Whether a tail advance to `v` is accepted (R61). -/
def QueueRegs.tailOk (r : QueueRegs) (v : BitVec 32) : Bool :=
  r.sized && (v - r.head).toNat ≤ 2 ^ r.lsize && (v - r.tail).toNat ≤ 2 ^ r.lsize

/-- Submit the record in one slot: its GID is read (R50), and a launch under a cancelled entry is cancelled (R73). A slot
that cannot be read counts as GID 0. The launch keeps the JOB field as it stands here for its own accesses, its status area,
completion target and range list among them (DESIGN CHOICE, log 57). -/
def State.submit (s : State) (q : BitVec 6) (i : BitVec 32) : State :=
  let r := s.hub.queue q
  let (w, s) := s.hubRead r.job (r.slotAddr i + 20) 1
  let s := if w.isNone then s.regionFault q else s
  let gid := (natOfLanes (w.getD []) / 2 ^ 16) % 4096
  let l : Launch :=
    { queue := q, slot := i, gid := BitVec.ofNat 12 gid, job := r.job, words := 0, ranges := [], began := false, next := 0, gone := 0,
      exited := 0, failed := 0, cancelledN := 0, first := 0, refused := false, uncounted := false, cancelled := s.hub.underCancel gid,
      complete := false }
  { s with hub := { s.hub with launches := s.hub.launches ++ [l] } }

/-- Submit the records of `n` slots from a slot on. -/
def State.submitFrom (s : State) (q : BitVec 6) (i : BitVec 32) : Nat → State
  | 0 => s
  | n + 1 => (s.submit q i).submitFrom q (i + 1) n

/-- A tail advance (R61): accepted, it submits the slots from QTAIL on; refused, OVF becomes 1. -/
def State.tailAdvance (s : State) (q : BitVec 6) (v : BitVec 32) : Bool × State :=
  let r := s.hub.queue q
  if r.tailOk v then
    let s := s.onQueue q fun r => { r with tail := v }
    (true, s.submitFrom q r.tail (v - r.tail).toNat)
  else (false, s.onQueue q fun r => { r with err := setBit r.err 0 true })

/-- Whether ENQ's record would go to a slot whose access has to wait (R359, R385). -/
def State.enqueueHeld (s : State) (job : BitVec 8) (q : BitVec 6) : Bool :=
  let r := s.hub.queue q
  r.job = job && r.tailOk (r.tail + 1) && r.en && s.hubHeld r.job (r.slotAddr r.tail) 128 true

/-- ENQ's action at the hub (R67, R319): the record goes into slot QTAIL and the tail advances by 1. The sub-code of a
refusal, or none. -/
def State.enqueueLaunch (s : State) (job : BitVec 8) (q : BitVec 6) (rec : List Lane) : Option Nat × State :=
  let r := s.hub.queue q
  if r.job ≠ job then (some 1, s)
  else if !r.tailOk (r.tail + 1) then (some 2, (s.tailAdvance q (r.tail + 1)).2)
  else if !r.en then (some 3, s)
  else
    match s.hubWrite r.job (r.slotAddr r.tail) rec with
    | (false, s) => (some 4, s.regionFault q)
    | (true, s) => (none, (s.tailAdvance q (r.tail + 1)).2)

/-- QTAIL_WRITE (R61). -/
def execQtailWrite (q : BitVec 6) (v : BitVec 64) (s : State) : Host.Outcome State Fault Refusal :=
  .next (s.tailAdvance q (v.truncate 32)).2

/-! ### Platform events (R373) -/

/-- Post a platform event: the queue holds 256; a lost one is counted. -/
def State.hubEvent (s : State) (w0 w1 w2 w3 : Word) : State :=
  if s.plat.events.length < 256 then { s with plat := { s.plat with events := s.plat.events ++ [(w0, w1, w2, w3)] } }
  else { s with plat := { s.plat with hevlost := s.plat.hevlost + 1 } }

end Sys2Proof.Machine
end

