-- ==== Sys2Proof/Machine/Items.lean ====
section
/-! DEFINITION. Items: their descriptors and checks, the pieces they are made of, and which bank lines they write
(spec/21_async.md R295 to R320). -/

namespace Sys2Proof.Machine

open Sys2Proof

/-- Major opcodes of the commands that issue items (R204); an MTILE is marked by its SUB. -/
def majDcopy : BitVec 6 := 1
def majPut : BitVec 6 := 2
def majHgath : BitVec 6 := 3
def majHred : BitVec 6 := 4
def majHcvt : BitVec 6 := 5
def majHatom : BitVec 6 := 6
def majProbe : BitVec 6 := 7
def majFence : BitVec 6 := 8
def majFenceSc : BitVec 6 := 9
def majVsync : BitVec 6 := 10
def majEnq : BitVec 6 := 13
def majCload : BitVec 6 := 14
def majRsolve : BitVec 6 := 15
/-- The SUB that marks an MTILE among the items (model). -/
def subTile : BitVec 11 := 0x7FF

/-- Form and direction of a DCOPY (R303). -/
def Item.form (it : Item) : Nat := (it.sub.extractLsb' 0 3).toNat
def Item.dir (it : Item) : Nat := (it.sub.extractLsb' 3 2).toNat

/-- An item of a context. -/
def State.item (s : State) (m : BitVec 3) (id : Nat) : Option Item := (s.coach m).sq.items.find? (·.id = id)

/-- Replace an item. -/
def State.putItem (s : State) (m : BitVec 3) (it : Item) : State :=
  s.onSq m fun q => { q with items := q.items.map fun o => if o.id = it.id then it else o }

/-- Change an item. -/
def State.onItem (s : State) (m : BitVec 3) (id : Nat) (f : Item → Item) : State :=
  s.onSq m fun q => { q with items := q.items.map fun o => if o.id = id then f o else o }

/-- The context number and job of the unit that a coach's sequencer runs. -/
def State.ctxOf (s : State) (m : BitVec 3) : BitVec 12 := match (s.coach m).unit with | some u => u.ctx | none => 0
def State.jobOf (s : State) (m : BitVec 3) : BitVec 8 := match (s.coach m).unit with | some u => u.job | none => 0

/-- The name under which an item's view writes are logged: item and coach. -/
def viewItem (m : BitVec 3) (id : Nat) : Nat := 8 * id + m.toNat

/-! ### DCOPY (R303 to R309) -/

/-- A signed field of a descriptor word. -/
def sfld (w : Word) (lo n : Nat) : Int :=
  let v := wfld w lo n
  if v < 2 ^ (n - 1) then v else (v : Int) - 2 ^ n

/-- Count, memory stride and second-side stride of level `k` of 1 to 3; a level that the form does not carry has count 1
and strides 0 (R305). -/
def copyLevel (form : Nat) (d : List Word) (k : Nat) : Nat × Int × Int :=
  if (k = 1 && (form = 1 || form = 2 || form = 3)) || (2 ≤ k && (form = 2 || form = 3)) then
    let w := dword d (2 + k)
    (wfld w 0 16 + 1, sfld w 16 28, sfld w 44 20)
  else (1, 0, 0)

/-- Memory address, run length, valid bytes, of lin, str, nest, pad, rem and host. -/
def copyLen (d : List Word) : Nat := wfld (dword d 2) 0 32
def copyAddr (form : Nat) (d : List Word) : Nat := wfld (dword d 0) 0 (if form = 6 then 48 else 56)

/-- The runs of a DCOPY: memory start, second-side start in words, and whether the outer levels are valid (R305, R306). -/
def copyRuns (form : Nat) (d : List Word) : List (Int × Int × Bool) :=
  let l1 := copyLevel form d 1
  let l2 := copyLevel form d 2
  let l3 := copyLevel form d 3
  let ok := fun (k n : Nat) => form ≠ 3 || wfld (dword d 7) (16 * (k - 1)) 16 = 0 || n < wfld (dword d 7) (16 * (k - 1)) 16
  (List.range l3.1).flatMap fun (n3 : Nat) => (List.range l2.1).flatMap fun (n2 : Nat) => (List.range l1.1).map fun (n1 : Nat) =>
    ((copyAddr form d : Int) + (n1 : Int) * l1.2.1 + (n2 : Int) * l2.2.1 + (n3 : Int) * l3.2.1,
     (n1 : Int) * l1.2.2 + (n2 : Int) * l2.2.2 + (n3 : Int) * l3.2.2, ok 1 n1 && ok 2 n2 && ok 3 n3)

/-- Where a position's value comes from, or goes (out): a DVA, a pad word, an offset of a host registration, or elements
of a view region. -/
inductive Src where
  | mem (a : Nat)
  | pad (v : Lane)
  | host (off : Nat)
  | elems (e : List (Nat × Nat × Nat))
  deriving DecidableEq, Repr

/-- The pad word as it is written (R306). -/
def padValue (d : List Word) : Lane :=
  let n := 8 * 2 ^ wfld (dword d 6) 34 2
  let v := wfld (dword d 6) 0 32 % 2 ^ n
  BitVec.ofNat 32 (((List.range (32 / n)).map fun i => v * 2 ^ (n * i)).sum)

/-- The position `w` words into a run: its source; none for a pad position under pad-skip. -/
def runSrc (form : Nat) (d : List Word) (r : Int × Int × Bool) (w : Nat) : Option Src :=
  let a := (r.1 + 4 * w).toNat
  if form = 6 then some (.host a)
  else if form = 3 then
    let vlen := wfld (dword d 2) 32 24
    if r.2.2 && (vlen = 0 || 4 * w < vlen) then some (.mem a)
    else if wfld (dword d 6) 32 2 = 1 then some (.pad (padValue d))
    else none
  else some (.mem a)

/-- First bank word of the bank side (R304). -/
def bankStart (d : List Word) : Nat := 64 * wfld (dword d 1) 8 14 + wfld (dword d 1) 22 6
def bankOf (d : List Word) : BitVec 6 := BitVec.ofNat 6 (wfld (dword d 1) 0 6)

/-- Element offset and word count of a view rectangle (R307), and the elements of its word `w`. -/
def rectWords (g : BitVec 256) (d : List Word) : Nat := wfld (dword d 3) 0 32 * wfld (dword d 3) 32 32 * vL g / 32
def rectElems (g : BitVec 256) (d : List Word) (w : Nat) : List (Nat × Nat × Nat) :=
  let l := vL g
  (List.range (32 / l)).map fun j =>
    let rc := logicalRC (vf g 42 2) (wfld (dword d 3) 0 32) (wfld (dword d 3) 32 32) (vTH g) (vTW g) (32 / l) (32 * w / l + j)
    (elemBit g (wfld (dword d 2) 0 32 + rc.1) (wfld (dword d 2) 32 32 + rc.2), l, l * j)

/-- The numbers below a bound that are `r` modulo `m`. -/
def congruent (r m n : Nat) : List Nat := (List.range ((n + m - 1 - r) / m)).map fun k => r + k * m

/-- The positions of a DCOPY whose second side is bank word `t` of the 2^20 (R304, R305): their sources. -/
def bankSrcs (g : BitVec 256) (form : Nat) (d : List Word) (t : Nat) : List Src :=
  let m := 1048576
  if form = 4 then
    (congruent ((t + m - bankStart d % m) % m) m (rectWords g d)).map fun w => .elems (rectElems g d w)
  else
    (copyRuns form d).flatMap fun r =>
      let w0 := (((t : Int) - bankStart d - r.2.1) % (m : Int)).toNat
      (congruent w0 m (copyLen d / 4)).filterMap fun w => runSrc form d r w

/-- The positions of a DCOPY of direction mem whose second side is DVA `a`. -/
def memSrcs (form : Nat) (d : List Word) (a : Nat) : List Src :=
  let dad : Int := wfld (dword d 1) 0 56
  (copyRuns form d).filterMap fun r =>
    let o : Int := (a : Int) - dad - 4 * r.2.1
    if 0 ≤ o && o % 4 = 0 && o < copyLen d then runSrc form d r (o.toNat / 4) else none

/-- Whether a DCOPY writes or reads some word of bank line `l`. -/
def bankTouches (g : BitVec 256) (form : Nat) (d : List Word) (l : Nat) : Bool :=
  (List.range 64).any fun k => !(bankSrcs g form d (64 * l + k)).isEmpty

/-- Lines that a run of `n` words from bank word `t` touches, modulo 16,384. -/
def linesOf (t n : Nat) : List Nat :=
  if n = 0 then []
  else if 1048576 ≤ n + 63 then List.range 16384
  else (List.range ((t % 64 + n + 63) / 64)).map fun i => (t / 64 + i) % 16384

/-- The groups of a DCOPY: bank lines, runs of 32 words for the remote form, or 256-byte blocks for direction mem (R320). -/
def copyGroups (g : BitVec 256) (form dir : Nat) (d : List Word) : List Nat :=
  let runs := copyRuns form d
  let n := copyLen d / 4
  if dir = 2 then
    let dad : Int := wfld (dword d 1) 0 56
    let l := runs.flatMap fun r =>
      let a := (dad + 4 * r.2.1).toNat
      if n = 0 then [] else (List.range ((a % 256 + 4 * n + 255) / 256)).map fun i => a / 256 + i
    (if runs.length = 1 then l else l.eraseDups).filter fun b =>
      (List.range 64).any fun k => !(memSrcs form d (256 * b + 4 * k)).isEmpty
  else if form = 4 then (linesOf (bankStart d % 1048576) (rectWords g d))
  else if form = 5 then List.range ((n + 31) / 32)
  else
    let l := runs.flatMap fun r => linesOf (((bankStart d + r.2.1) % (1048576 : Int)).toNat) n
    let l := if runs.length = 1 then l else l.eraseDups
    if form = 3 then l.filter (bankTouches g form d) else l

/-- Words of run `j` of a remote DCOPY, and the bank lines it touches. -/
def remWords (d : List Word) (j : Nat) : Nat := min 32 (copyLen d / 4 - 32 * j)
def remLines (d : List Word) (j : Nat) : List Nat := linesOf ((bankStart d + 32 * j) % 1048576) (remWords d j)

/-! ### Checks (R297, R298): each gives the codes of the checks that fail -/

/-- One code when a condition holds. -/
def failIf (b : Bool) (c : Nat) : List Nat := if b then [c] else []

/-- The bank side (R304): its reserved bits and its bank. -/
def checkBankSide (k : Coach) (d : List Word) : List Nat :=
  let w := dword d 1
  let b := wfld w 0 6
  failIf (wfld w 6 2 ≠ 0 || wfld w 28 36 ≠ 0 || 48 ≤ b) 1 ++ failIf (b < 48 && !k.hasBank (BitVec.ofNat 6 b)) 5

/-- Smallest and largest first byte of a run over the levels, for a side with strides of unit `u`. -/
def reach (form : Nat) (d : List Word) (mem : Bool) : Int × Int :=
  let ext := fun k => let l := copyLevel form d k; ((l.1 : Int) - 1) * (if mem then l.2.1 else 4 * l.2.2)
  let e := [ext 1, ext 2, ext 3]
  ((e.map fun x => min x 0).sum, (e.map fun x => max x 0).sum)

/-- The forms lin, str, nest and pad (R305, R306): addresses are those of positions, of which a LEN below 4 has none. -/
def checkCopy (k : Coach) (form dir : Nat) (d : List Word) : List Nat :=
  let w0 := dword d 0
  let w2 := dword d 2
  let len := copyLen d
  let last : Int := 4 * (len / 4 : Nat) - 4
  let mlo := (copyAddr form d : Int) + (reach form d true).1
  let mhi := (copyAddr form d : Int) + (reach form d true).2 + last
  let dad : Int := wfld (dword d 1) 0 56
  let slo := dad + (reach form d false).1
  let shi := dad + (reach form d false).2 + last
  let out := fun (lo hi : Int) => decide (lo < 0) || decide (2 ^ 56 ≤ hi)
  failIf (wfld w0 56 8 ≠ 0 || (if form = 3 then wfld w2 56 8 ≠ 0 else wfld w2 32 32 ≠ 0)) 1 ++
  failIf (4 ≤ len && (out mlo mhi || (dir = 2 && out slo shi))) 1 ++
  failIf (form = 3 && (2 ≤ wfld (dword d 6) 32 2 || wfld (dword d 6) 34 2 = 3 || wfld (dword d 6) 36 28 ≠ 0 ||
    wfld (dword d 7) 48 16 ≠ 0)) 1 ++
  failIf (copyAddr form d % 4 ≠ 0 || len % 4 ≠ 0 || (form = 3 && wfld w2 32 24 % 4 ≠ 0)) 2 ++
  failIf ([1, 2, 3].any fun k => (copyLevel form d k).2.1 % 4 ≠ 0) 2 ++
  (if dir = 2 then failIf (wfld (dword d 1) 56 8 ≠ 0) 1 ++ failIf (dad % 4 ≠ 0) 2 else checkBankSide k d)

/-- The codes of a rectangle through a view entry (R117, R307). A rectangle without rows or columns passes the same checks before it
moves nothing (log 74, DESIGN CHOICE). -/
def viewCodes (g : BitVec 256) (d : List Word) : List Nat :=
  let rb := wfld (dword d 2) 0 32
  let cb := wfld (dword d 2) 32 32
  let nr := wfld (dword d 3) 0 32
  let nc := wfld (dword d 3) 32 32
  if vUsable g then
    failIf (vRows g < rb + nr || vCols g < cb + nc) 3 ++
    failIf ((vf g 42 2 = 2 && (nr % vTH g ≠ 0 || nc % vTW g ≠ 0)) || (vf g 42 2 = 3 && nr % (32 / vL g) ≠ 0)) 1 ++
    failIf (nr * nc * vL g % 32 ≠ 0) 2
  else [4]

/-- The form view (R307). -/
def checkView (k : Coach) (g : BitVec 256) (d : List Word) : List Nat :=
  failIf (wfld (dword d 0) 8 56 ≠ 0) 1 ++ checkBankSide k d ++ viewCodes g d

/-- The lowest of the codes of failed checks, 0 where none fails (R297). -/
def lowestCode (l : List Nat) : Nat := l.foldl (fun a b => if a = 0 then b else min a b) 0

/-- The forms rem and host (R308); a peer without a route cannot be reached (R354, R355). -/
def checkFar (s : State) (k : Coach) (form : Nat) (d : List Word) : List Nat :=
  let len := copyLen d
  let a := copyAddr form d
  let pkg : BitVec 10 := BitVec.ofNat 10 (wfld (dword d 3) 0 10)
  failIf (wfld (dword d 0) 56 8 ≠ 0 || wfld (dword d 2) 32 32 ≠ 0 || (form = 5 && wfld (dword d 3) 10 54 ≠ 0)) 1 ++
  failIf (a % 4 ≠ 0 || len % 4 ≠ 0) 2 ++ checkBankSide k d ++
  (if form = 5 then
    failIf (4 ≤ len && 2 ^ 56 < a + len / 4 * 4) 1 ++ failIf (pkg ≠ s.fab.pkgid && !(s.fab.route pkg).getLsbD 0) 7
  else
    match hostAddr s.fab (wfld (dword d 0) 48 8) a len with
    | .error (.fail c _) => [c]
    | _ => [])

/-- PUT (R310). -/
def checkPut (s : State) (k : Coach) (d : List Word) : List Nat :=
  let w0 := dword d 0
  let w1 := dword d 1
  let pkg : BitVec 10 := BitVec.ofNat 10 (wfld w0 0 10)
  let sb := wfld w1 0 6
  failIf (wfld w0 34 30 ≠ 0 || wfld w1 35 29 ≠ 0 || 48 ≤ wfld w0 14 6 || 48 ≤ sb || 16384 < wfld w1 20 15) 1 ++
  failIf (sb < 48 && !k.hasBank (BitVec.ofNat 6 sb)) 5 ++
  failIf (wfld w0 10 1 = 0 && pkg ≠ s.fab.pkgid && !(s.fab.route pkg).getLsbD 0) 7

/-- HGATH (R312). An IBANK of 48 to 63 is a reserved code and fails FORMAT (log 74, DEDUCED). -/
def checkGather (k : Coach) (d : List Word) : List Nat :=
  let rowb := wfld (dword d 2) 0 32
  let str := wfld (dword d 2) 32 32
  let ib := wfld (dword d 3) 0 6
  let rows := wfld (dword d 3) 36 24
  let base := wfld (dword d 0) 0 56
  failIf (wfld (dword d 0) 56 8 ≠ 0 || wfld (dword d 3) 60 4 ≠ 0 || wfld (dword d 4) 32 32 ≠ 0 || rowb < 4 || 2 ^ 22 < rowb ||
    rows = 0 || 48 ≤ ib || 2 ^ 56 < base + (rows - 1) * str + rowb) 1 ++
  failIf (rowb % 4 ≠ 0 || str % 4 ≠ 0 || base % 4 ≠ 0) 2 ++ checkBankSide k d ++
  failIf (ib < 48 && !k.hasBank (BitVec.ofNat 6 ib)) 5

/-- HRED (R313): reserved bits, and addresses, stride and length in multiples of 4 bytes. -/
def checkReduce (fmt : Nat) (d : List Word) : List Nat :=
  let w := fun i => dword d i
  failIf (wfld (w 0) 56 8 ≠ 0 || wfld (w 1) 56 8 ≠ 0 || wfld (w 2) 40 24 ≠ 0 || wfld (w 3) 56 8 ≠ 0) 1 ++
  failIf (wfld (w 0) 0 2 ≠ 0 || wfld (w 1) 0 2 ≠ 0 || wfld (w 3) 0 2 ≠ 0 || wfld (w 2) 0 32 * (fmtWidth fmt / 8) % 4 ≠ 0) 2

/-- Distance in bits of the elements of a format in memory: FP6 in containers of a byte, or dense (R79, R314). -/
def memStep (f : Nat) (dense : Bool) : Nat := if (f = 5 || f = 6) && dense then 6 else fmtStep f

/-- Whether a code is an MX element format (3 to 7). -/
def mxFmt (f : Nat) : Bool := 3 ≤ f && f ≤ 7

/-- HCVT (R314). Bits [63:56] of words 0, 1 and 3, which its table does not list, shall be zero as in the other descriptors, those of
word 3 with MXS 0 as well (log 74, DESIGN CHOICE). -/
def checkConvert (d : List Word) : List Nat :=
  let w2 := dword d 2
  let n := wfld w2 0 32
  let t := wfld w2 32 4
  let f := wfld w2 36 4
  let mx := wfld w2 44 1 = 1
  let dense := wfld w2 45 1 = 1
  failIf ([0, 1, 3].any (fun i => wfld (dword d i) 56 8 ≠ 0) || wfld w2 54 10 ≠ 0 || 13 < t || 13 < f || t = f || t = 8 ||
    (f = 8 && 2 ≤ t) || 4 < wfld w2 40 3 || wfld w2 46 8 = 255 ||
    (mx && (mxFmt t == mxFmt f || n % 32 ≠ 0))) 1 ++
  failIf (wfld (dword d 0) 0 2 ≠ 0 || wfld (dword d 1) 0 2 ≠ 0 || n * memStep t dense % 32 ≠ 0 || n * memStep f dense % 32 ≠ 0) 2

/-- HATOM (R315): `wide` for the 64-bit operations. -/
def checkAtom (wide : Bool) (d : List Word) : List Nat :=
  failIf (wfld (dword d 0) 56 8 ≠ 0 || wfld (dword d 3) 19 45 ≠ 0) 1 ++
  failIf (wfld (dword d 0) 0 56 % (if wide then 8 else 4) ≠ 0) 2

/-- Where a DVA leads that an item of coach `c` is to reach, as far as its context's pins tell. -/
def State.pinned (s : State) (m c : BitVec 3) (a : Nat) (write : Bool) : Option Place :=
  match s.itemPlace (s.coach m).sq c (s.ctxOf m) a write with
  | .ok p => some p
  | .error _ => none

/-- The target of an HATOM lies in a page of KIND 2 or 3: FORMAT (R315). -/
def State.checkAtomKind (s : State) (m c : BitVec 3) (d : List Word) : List Nat :=
  match s.pinned m c (wfld (dword d 0) 0 56) true with
  | some (.host _ _) => [1]
  | some (.view _ _) => [1]
  | _ => []

/-- The scales of an HCVT that lie in a page of KIND 3 start and end on element boundaries, or ALIGN (R119). Every other command
reaches a view in whole words, which are whole elements. -/
def State.checkScales (s : State) (m c : BitVec 3) (d : List Word) : List Nat :=
  let w2 := dword d 2
  let n := wfld w2 0 32 / 32
  let torn := fun (a past : Nat) => match s.pinned m c a (mxFmt (wfld w2 32 4)) with
    | some (.view v o) => (o + past) % max 1 (vL (s.hub.viewEntry (s.jobOf m) v) / 8) ≠ 0
    | _ => false
  failIf (wfld w2 44 1 = 1 && n ≠ 0 && (torn (wfld (dword d 3) 0 56) 0 || torn (wfld (dword d 3) 0 56 + n - 1) 1)) 2

/-- PROBE (R316). -/
def checkProbe (d : List Word) : List Nat :=
  failIf (wfld (dword d 0) 56 8 ≠ 0 || wfld (dword d 1) 48 16 ≠ 0 || 2 ^ 56 < wfld (dword d 0) 0 56 + wfld (dword d 1) 0 48) 1

/-- ENQ (R319). -/
def checkEnq (d : List Word) : List Nat := failIf (wfld (dword d 0) 24 40 ≠ 0 || dword d 1 ≠ 0) 1

/-- CLOAD (R320). -/
def checkCload (d : List Word) : List Nat :=
  failIf (wfld (dword d 0) 56 8 ≠ 0 || wfld (dword d 1) 29 35 ≠ 0 || 16384 < wfld (dword d 1) 0 14 + wfld (dword d 1) 14 15) 1 ++
  failIf (wfld (dword d 0) 0 6 ≠ 0) 2

/-- RSOLVE (R246): `write` for a write entry, `lim` the reservation of its kind. -/
def checkSolve (lim : Nat) (d : List Word) : List Nat :=
  let w0 := dword d 0
  let w1 := dword d 1
  failIf (wfld w0 63 1 ≠ 0 || wfld w1 29 35 ≠ 0 || wfld w0 0 9 = 0 || lim < wfld w0 0 9 || lim < wfld w0 9 9 ||
    48 ≤ wfld w0 18 6 || wfld w0 50 13 = 0 || wfld w1 12 13 = 0 || 4096 < wfld w0 38 12 + wfld w0 50 13 ||
    4096 < wfld w1 0 12 + wfld w1 12 13) 1

/-! ### Which lines and blocks an item writes (R182, R183) -/

/-- Bank words of HGATH's row `e` (R312). -/
def rowWords (d : List Word) : Nat := wfld (dword d 2) 0 32 / 4
def gatherCount (d : List Word) : Nat := wfld (dword d 3) 20 12 + 1

/-- Whether an item of master `m`'s context writes a bank line of a coach: a copy or a gather one of its own coach, a PUT one of any
coach of the package. An item whose checks failed writes nothing; one that failed later counts until it posts. -/
def State.writesLine (s : State) (m : BitVec 3) (it : Item) (c : BitVec 3) (b : BitVec 6) (l : BitVec 14) : Bool :=
  if it.sub = subTile || (it.phase = .failed && !it.acqDone) then false
  else if it.major = majPut then
    let w0 := dword it.desc 0
    (wfld w0 10 1 = 1 || wfld w0 0 10 = s.fab.pkgid.toNat) && wfld w0 11 3 = c.toNat && wfld w0 14 6 = b.toNat &&
      decide ((l.toNat + 16384 - wfld w0 20 14) % 16384 < wfld (dword it.desc 1) 20 15)
  else if it.coach ≠ c then false
  else if it.major = majDcopy && it.dir = 0 then
    bankOf it.desc = b && bankTouches (s.hub.viewEntry (s.jobOf m) (wfld (dword it.desc 0) 0 8)) it.form it.desc l.toNat
  else if it.major = majHgath then
    bankOf it.desc = b && (linesOf (bankStart it.desc % 1048576) (rowWords it.desc * gatherCount it.desc)).contains l.toNat
  else false

/-- Whether an unposted item of a context writes a bank line of a member. -/
def State.lineAwaited (s : State) (m c : BitVec 3) (b : BitVec 6) (l : BitVec 14) : Bool :=
  (s.coach m).sq.items.any fun it => s.writesLine m it c b l

/-- Whether an active MTILE writes an accumulator block (R290, R292). -/
def Tile.writes (t : Tile) (blk : BitVec 8) : Bool :=
  (List.range (t.br * t.bc)).any fun i => t.blk0 + 8 * (i / t.bc) + i % t.bc = blk.toNat

/-- Whether an unposted item writes an accumulator block of a member; one at or above ACCB is never written (R57, R282). -/
def State.blockAwaited (s : State) (c : BitVec 3) (blk : BitVec 8) : Bool :=
  (s.coach c).hasBlock blk && (s.coach c).en.tiles.any fun t => t.writes blk

end Sys2Proof.Machine
end

