-- ==== Sys2Proof/Machine/Pieces.lean ====
section
/-! DEFINITION. Performing the pieces of items, and how an item runs from its issue to its post
(spec/21_async.md R297 to R320, spec/09_ordering.md R139 to R154). -/

namespace Sys2Proof.Machine

open Sys2Proof

/-! ### Issue and failure -/

/-- Issue an item of master `m` on coach `c` (R297): the check for BUSY, then the other checks; a failed check moves
nothing. -/
def State.issueItem (s : State) (m c : BitVec 3) (major : BitVec 6) (sub : BitVec 11) (tok : BitVec 6) (acq rel : Bool)
    (scope : BitVec 4) (desc : List Word) (codes : List Nat) (todo : List Nat) (aux : List Word) (targets : List (BitVec 3)) :
    State :=
  let q := (s.coach m).sq
  let busy : Bool := decide (256 ≤ (q.items.filter fun i => i.coach = c).length)
  let code : Nat := if busy then 11 else lowestCode codes
  let hnd := s.cur.hnd
  let mem := s.memberOf c
  let it : Item :=
    { id := q.nextItem, major := major, sub := sub, tok := tok, acq := acq, rel := rel, scope := scope, desc := desc, coach := c,
      member := mem, targets := targets, hnd := hnd, phase := if code = 0 then .waiting else .failed, parked := false,
      acqDone := false, relDone := false, begun := false, todo := if code = 0 then todo else [], out := [],
      pieces := 0, wrote := false, status := BitVec.ofNat 8 code, lasting := false, subc := 0, addr := 0, flags := 0,
      oob := false, allow := none, aux := aux, stamp := 0 }
  s.onSq m fun q => { q with items := q.items ++ [it], nextItem := q.nextItem + 1 }

/-- Fail an item (R297): its begun pieces complete; a persistent data error, which the die that detected it counts (R371), is reported
(R373). -/
def State.failItem (s : State) (m : BitVec 3) (id status sub addr : Nat) (lasting : Bool) : State :=
  match s.item m id with
  | none => s
  | some it =>
    let s := s.putItem m { it with phase := .failed, todo := [], status := BitVec.ofNat 8 status, subc := BitVec.ofNat 8 sub,
                                   addr := BitVec.ofNat 56 addr, lasting := lasting }
    if lasting then
      s.hubEvent (BitVec.ofNat 64 (3 + it.coach.toNat * 2 ^ 8 + (s.ctxOf m).toNat * 2 ^ 16 + s.hub.pbeat.toNat % 2 ^ 32 * 2 ^ 32))
        (BitVec.ofNat 64 (it.major.toNat + status * 2 ^ 32)) 0 (BitVec.ofNat 64 addr)
    else s

/-- What stops an item at an address: a translation miss is fatal (R109), a wait leaves the piece for later; a data error of
the place, whose completion the second attempt meets again, is lasting (R300), and the hub counts it (R371). Log 41. -/
def State.stopItem (s : State) (m : BitVec 3) (it : Item) (e : Stop) (addr : Nat) : State :=
  match e with
  | .miss => s.soon m (.fatalContextError m 0x20)
  | .wait => s
  | .fail c sub =>
    (if c = 8 then s.countError 16 4 else s).failItem m it.id c (if c = 8 then 0 else sub) addr (decide (c = 8))

/-- Count pieces of an item as done and take a group from those under way, also of an item that has failed since (log 73, DESIGN
CHOICE). -/
def State.pieceDone (s : State) (m : BitVec 3) (id key n : Nat) : State :=
  s.onItem m id fun it => { it with out := it.out.erase key, pieces := it.pieces + n, wrote := true }

/-! ### Words -/

/-- Places of a list of DVAs for an item, or what stops the first that cannot be reached. -/
def State.places (s : State) (m : BitVec 3) (it : Item) (write : Bool) : List Nat → Except (Stop × Nat) (List Place)
  | [] => .ok []
  | a :: t =>
    match s.itemPlace (s.coach m).sq it.coach (s.ctxOf m) a write with
    | .error e => .error (e, a)
    | .ok p =>
      match s.placeOk (s.jobOf m) p with
      | some e => .error (e, a)
      | none =>
        match s.places m it write t with
        | .ok l => .ok (p :: l)
        | .error e => .error e

/-- Ready the places that are to be written, each with its address: the first compressed page among them is expanded (R126); a write
whose completion reports an error is made once more, and a lasting error fails the item (R300). `one` says that the words are those of
one piece. -/
def State.expandFirst (s : State) (m : BitVec 3) (one : Bool) (l : List (Place × Nat)) : Option (Stop × Nat) × State :=
  let c := l.find? fun p => match p.1 with
    | .tier t => (s.hub.compressedAt t).isSome
    | _ => false
  match c with
  | some (_, a) =>
    let (ok, s) := s.beginExpansion (s.jobOf m) a
    if ok then (some (.wait, a), s) else (some (.fail 6 0, a), s)
  | none =>
    let job := s.jobOf m
    match l.find? fun p => (s.putKeys job p.1).any s.lastingAt with
    | some (_, a) => (some (.fail 8 0, a), s)
    | none => (none, (s.readOk (piecesOf one (l.map fun p => s.putKeys job p.1))).2)

/-- Meet the errors of the words that some pieces read, each with its address (R300): a transient one is cleared by the second
attempt, a persistent one fails the item, and the block of the word that erred first counts either (R371). `one` says that the words
are those of one piece. The address that a failure gives is that of the word that failed, also within a piece of several words (log
73, DESIGN CHOICE). -/
def State.meetBad (s : State) (m : BitVec 3) (it : Item) (one : Bool) (l : List (List WordKey × Nat)) : Bool × State :=
  let t := s.meetWords (l.flatMap (·.1))
  match l.find? fun p => p.1.any s.lastingAt with
  | some p => (false, ((p.1.filter s.lastingAt).take 1 |>.foldl State.countLasting t).failItem m it.id 8 0 p.2 true)
  | none =>
    (true, (piecesOf one (l.map (·.1))).foldl State.retry t)

/-- Read a list of DVAs for an item; none when something stops it. -/
def State.readDvas (s : State) (m : BitVec 3) (it : Item) (as : List Nat) : Option (List Lane) × State :=
  match s.places m it false as with
  | .error e => (none, s.stopItem m it e.1 e.2)
  | .ok ps =>
    let (ok, s) := s.meetBad m it true ((ps.map (s.placeKeys (s.jobOf m))).zip as)
    if ok then
      let d := s.draw
      (some (ps.map fun p => s.readWord (.item (s.ctxOf m) (viewItem m it.id)) (s.jobOf m) p d), { s with draw := d + 1 })
    else (none, s)

/-- Write bits of a list of words for an item, all or none; false when something stops it. `one` says that they are those of one piece. -/
def State.writeDvas (s : State) (m : BitVec 3) (it : Item) (one : Bool) (l : List (Nat × Lane × Lane)) : Bool × State :=
  match s.places m it true (l.map (·.1)) with
  | .error e => (false, s.stopItem m it e.1 e.2)
  | .ok ps =>
    match s.expandFirst m one (ps.zip (l.map (·.1))) with
    | (some e, s) => (false, s.stopItem m it e.1 e.2)
    | (none, s) =>
      (true, (ps.zip l).foldl (fun s e =>
        s.writeWord (.item (s.ctxOf m) (viewItem m it.id)) (s.jobOf m) e.1 e.2.2.1 e.2.2.2) s)

/-- The FL port that a word from a stack enters through (R302): 13 to 16. -/
def fillPort (c : BitVec 3) (st : Option (BitVec 3)) : Nat :=
  match st with
  | none => 16
  | some k =>
    if k = c then 13
    else if k = (c &&& 4) ||| (((c &&& 3) + 1) &&& 3) then 14
    else if k = (c &&& 4) ||| (((c &&& 3) + 3) &&& 3) then 15
    else 16

/-- The place of a source, when it is one of memory; `pos` is the address its position has on the second side, by which a failure names
a source that has no DVA (R299). -/
def State.srcPlace (s : State) (m : BitVec 3) (it : Item) (write : Bool) (pos : Nat) (x : Src) : Except (Stop × Nat) (Option (Place × Nat)) :=
  match x with
  | .mem a =>
    match s.itemPlace (s.coach m).sq it.coach (s.ctxOf m) a write with
    | .error e => .error (e, a)
    | .ok p => match s.placeOk (s.jobOf m) p with | some e => .error (e, a) | none => .ok (some (p, a))
  | .host o =>
    let p := Place.host (wfld (dword it.desc 0) 48 8) o
    match s.placeOk (s.jobOf m) p with | some e => .error (e, pos) | none => .ok (some (p, pos))
  | _ => .ok none

/-- The places of a list of positions and their sources. -/
def State.srcPlaces (s : State) (m : BitVec 3) (it : Item) (write : Bool) :
    List (Nat × Src) → Except (Stop × Nat) (List (Nat × Src × Option (Place × Nat)))
  | [] => .ok []
  | x :: t =>
    match s.srcPlace m it write x.1 x.2 with
    | .error e => .error e
    | .ok p => match s.srcPlaces m it write t with
      | .ok l => .ok ((x.1, x.2, p) :: l)
      | .error e => .error e

/-- The words of storage that a position's source reads, with the address it has for a failure (R299, R300). -/
def State.srcKeys (s : State) (m : BitVec 3) (g : BitVec 256) (pos : Nat) (x : Src) (p : Option (Place × Nat)) : List WordKey × Nat :=
  match x, p with
  | .elems e, _ => ((elemKeys g e).map .hbm, pos)
  | _, some p => (s.placeKeys (s.jobOf m) p.1, p.2)
  | _, none => ([], pos)

/-- The value of a source, and the FL port it enters through (12 for a word that reads no memory). -/
def State.srcValue (s : State) (m : BitVec 3) (it : Item) (g : BitVec 256) (x : Src) (p : Option (Place × Nat)) : Lane × Nat :=
  let who := Who.item (s.ctxOf m) (viewItem m it.id)
  match x, p with
  | .pad v, _ => (v, 12)
  | .elems e, _ => (s.viewWord who g e s.draw, fillPort it.coach (some (vStack g)))
  | _, some p => (s.readWord who (s.jobOf m) p.1 s.draw, fillPort it.coach (s.placeStack (s.jobOf m) p.1))
  | _, none => (0, 12)

/-! ### Bank lines -/

/-- Queue an engine-path write of lanes of a bank line (R17). -/
def State.engWrite (s : State) (c : BitVec 3) (w : EngWrite) : State := s.onEn c fun e => { e with engq := e.engq ++ [w] }

/-- Queue the write of consecutive bank words from `t` for a group of an item: (value, port) pairs; `n` pieces are done
with the last line. A line takes the highest port that its words select, `lines` being what words of other groups select (R302). -/
def State.engWords (s : State) (m : BitVec 3) (it : Item) (bank : BitVec 6) (t : Nat) (vals : List (Lane × Nat)) (lines : Nat → Nat)
    (key n : Nat) : State :=
  let ls := linesOf (t % 1048576) vals.length
  let w := fun (i l : Nat) =>
    let at_ := fun k => ((64 * l + k + 1048576 - t % 1048576) % 1048576)
    let mask : BitVec 64 := BitVec.ofNat 64 (((List.range 64).filter fun k => at_ k < vals.length).map (2 ^ ·)).sum
    let port := (List.range 64).foldl (fun p k => max p (vals.getD (at_ k) (0, 13)).2) (max 13 (lines l))
    let v := ofLanes fun k => (vals.getD (at_ k) (0, 0)).1
    { bank := bank, line := BitVec.ofNat 14 l, mask := laneMask mask, v := v, port := port, full := true,
      item := some (m, it.id), key := key, n := if i + 1 = ls.length then n else 0, put := none, early := 0 : EngWrite }
  let s := (ls.zipIdx).foldl (fun s p => s.engWrite it.coach (w p.2 p.1)) s
  s.onItem m it.id fun o => { o with out := o.out ++ List.replicate ls.length key }

/-- Read lanes of a bank line for an item through the bank's engine read port (R17, R300): none when the port has served another
read in this ic, so that the read waits for a later one, or when the second attempt too meets an uncorrectable error in a wanted
lane. The coach counts what it meets (R18, R371); `each` says that every lane is a piece of its own, as for a DCOPY (R320). -/
def State.bankRead (s : State) (m : BitVec 3) (it : Item) (each : Bool) (b : BitVec 6) (l : Nat) (want : BitVec 64) : Option Line × State :=
  let k := s.coach it.coach
  let line := BitVec.ofNat 14 l
  if k.en.readIc.contains b then (none, s)
  else
    let s := s.onEn it.coach fun e => { e with readIc := e.readIc ++ [b] }
    let s := s.countErrors it.coach.toNat 0 (laneCount (softLanes k b line &&& want))
    let bad := lastingLanes k b line &&& want
    let once := badLanes k b line &&& want
    if bad ≠ 0 then (none, (s.countError it.coach.toNat 4).failItem m it.id 8 0 (64 * l + firstLane bad) true)
    else if once ≠ 0 then
      (some (earlyLine k b line), (s.countErrors it.coach.toNat 3 (if each then laneCount once else 1)).onEn it.coach fun e =>
        { e with onceBank := Machine.clearBad e.onceBank (bankKey b line) (laneMask once) })
    else (some (earlyLine k b line), s)

/-! ### The pieces of each command -/

/-- The view entry a DCOPY of form view uses now. -/
def State.copyView (s : State) (m : BitVec 3) (it : Item) : BitVec 256 :=
  s.hub.viewEntry (s.jobOf m) (wfld (dword it.desc 0) 0 8)

/-- The code with which a line of a DCOPY of form view fails when its entry, as it stands now, does not admit the rectangle; 0 for none
(R117, R118, R307). -/
def State.copyViewCode (s : State) (m : BitVec 3) (it : Item) : Nat :=
  if it.form = 4 then lowestCode (viewCodes (s.copyView m it) it.desc) else 0

/-- The address of a bank line of a DCOPY: 64 times the line, plus the lane at which the copy begins there (R299). -/
def lineAddr (d : List Word) (l : Nat) : Nat := if l = bankStart d / 64 then bankStart d else 64 * l

/-- Choose one source among those of a position. -/
def pickSrc (l : List Src) (draw : Nat) : Option Src := l[Config.pick draw % max 1 l.length]?

/-- DCOPY in: one bank line is read from its sources and queued for its bank (R305 to R309). -/
def State.copyIn (s : State) (m : BitVec 3) (it : Item) (l : Nat) : State :=
  let g := s.copyView m it
  let srcs := (List.range 64).filterMap fun k => (pickSrc (bankSrcs g it.form it.desc (64 * l + k)) (s.draw + k)).map fun x => (64 * l + k, x)
  let s := { s with draw := s.draw + 64 }
  if s.copyViewCode m it ≠ 0 then s.failItem m it.id (s.copyViewCode m it) 0 (lineAddr it.desc l) false
  else match s.srcPlaces m it false srcs with
  | .error e => s.stopItem m it e.1 e.2
  | .ok ps =>
    let (ok, s) := s.meetBad m it false (ps.map fun p => s.srcKeys m g p.1 p.2.1 p.2.2)
    if ok then
      let vals := ps.map fun p => (p.1 - 64 * l, s.srcValue m it g p.2.1 p.2.2)
      let port := vals.foldl (fun p v => max p v.2.2) 13
      let mask : BitVec 64 := BitVec.ofNat 64 ((vals.map fun v => 2 ^ v.1).sum)
      let v := ofLanes fun k => ((vals.find? fun v => v.1 = k).map fun v => v.2.1).getD 0
      let w : EngWrite :=
        { bank := bankOf it.desc, line := BitVec.ofNat 14 l, mask := laneMask mask, v := v, port := port, full := true,
          item := some (m, it.id), key := l, n := vals.length, put := none, early := 0 }
      let s := (s.engWrite it.coach w).onItem m it.id fun o => { o with todo := o.todo.erase l, out := o.out ++ [l] }
      { s with draw := s.draw + 1 }
    else s

/-- DCOPY out: one bank line's words are written to their places (R305 to R309). -/
def State.copyOut (s : State) (m : BitVec 3) (it : Item) (l : Nat) : State :=
  let g := s.copyView m it
  let dsts := (List.range 64).flatMap fun k => (bankSrcs g it.form it.desc (64 * l + k)).map fun x => (64 * l + k, x)
  let want : BitVec 64 := dsts.foldl (fun b d => b ||| BitVec.ofNat 64 (2 ^ (d.1 - 64 * l))) 0
  if s.copyViewCode m it ≠ 0 then s.failItem m it.id (s.copyViewCode m it) 0 (lineAddr it.desc l) false
  else match s.bankRead m it true (bankOf it.desc) l want with
  | (none, s) => s
  | (some v, s) =>
    match s.srcPlaces m it true dsts with
    | .error e => s.stopItem m it e.1 e.2
    | .ok ps =>
      match s.expandFirst m false (ps.filterMap fun p => p.2.2) with
      | (some e, s) => s.stopItem m it e.1 e.2
      | (none, s) =>
        let who := Who.item (s.ctxOf m) (viewItem m it.id)
        let s := ps.foldl (fun s p => match p.2.1, p.2.2 with
          | .elems e, _ => s.viewPut who g e (BitVec.allOnes 32) (laneOf v (p.1 - 64 * l))
          | _, some q => s.writeWord who (s.jobOf m) q.1 (BitVec.allOnes 32) (laneOf v (p.1 - 64 * l))
          | _, none => s) s
        s.onItem m it.id fun o => { o with todo := o.todo.erase l, pieces := o.pieces + ps.length, wrote := true }

/-- DCOPY mem: the words of one 256-byte block of the destination (R305). -/
def State.copyMem (s : State) (m : BitVec 3) (it : Item) (b : Nat) : State :=
  let srcs := (List.range 64).filterMap fun k =>
    (pickSrc (memSrcs it.form it.desc (256 * b + 4 * k)) (s.draw + k)).map fun x => (256 * b + 4 * k, x)
  let s := { s with draw := s.draw + 64 }
  match s.srcPlaces m it false srcs with
  | .error e => s.stopItem m it e.1 e.2
  | .ok ps =>
    let (ok, s) := s.meetBad m it false (ps.map fun p => s.srcKeys m 0 p.1 p.2.1 p.2.2)
    if ok then
      let vals := ps.map fun p => (p.1, BitVec.allOnes 32, (s.srcValue m it 0 p.2.1 p.2.2).1)
      let s := { s with draw := s.draw + 1 }
      match s.writeDvas m it false vals with
      | (true, s) => s.onItem m it.id fun o => { o with todo := o.todo.erase b, pieces := o.pieces + vals.length, wrote := true }
      | (false, s) => s
    else s

/-- The package an item's peer is, and whether its messages are short flits (R354). -/
def remPkg (it : Item) : BitVec 10 := BitVec.ofNat 10 (wfld (dword it.desc 3) 0 10)
def remShort (it : Item) : Bool := it.dir = 0 || copyLen it.desc ≤ 192

/-- The lines that a run of a remote DCOPY has read so far: `aux` holds its number and their lanes, one line an ic (R17). -/
def runLines (it : Item) (j : Nat) : List (List Word) :=
  match it.aux with
  | k :: t => if k.toNat = j then (List.range (t.length / 64)).map fun i => (t.drop (64 * i)).take 64 else []
  | [] => []

/-- Read the next line of a run; the words of the run once all of its lines are read. Another run's lines come first. -/
def State.runRead (s : State) (m : BitVec 3) (it : Item) (j : Nat) : Option (List Lane) × State :=
  let t := (bankStart it.desc + 32 * j) % 1048576
  let lines := remLines it.desc j
  let got := runLines it j
  let want := fun (l : Nat) => BitVec.ofNat 64 (((List.range 64).filter fun k => (64 * l + k + 1048576 - t) % 1048576 < remWords it.desc j).map (2 ^ ·)).sum
  if !it.aux.isEmpty && got.isEmpty then (none, s)
  else match lines[got.length]? with
    | none => (some [], s)
    | some l =>
      match s.bankRead m it true (bankOf it.desc) l (want l) with
      | (none, s) => (none, s)
      | (some v, s) =>
        let got := got ++ [(List.range 64).map fun k => zx (laneOf v k)]
        if got.length < lines.length then
          (none, s.onItem m it.id fun o => { o with aux := BitVec.ofNat 64 j :: got.flatten })
        else
          let word := fun i => ((got.getD (((t + i) / 64) - t / 64) []).getD ((t + i) % 64) 0).truncate 32
          (some ((List.range (remWords it.desc j)).map word), s.onItem m it.id fun o => { o with aux := [] })

/-- A DCOPY of form rem: one run of words is asked for, or sent (R154, R308). To its own package it takes the on-package
path (R354). -/
def State.copyRem (s : State) (m : BitVec 3) (it : Item) (j : Nat) : State :=
  let n := remWords it.desc j
  let a := copyAddr 5 it.desc + 128 * j
  let data := if it.dir = 1 then s.runRead m it j else (some [], s)
  match data with
  | (none, s) => s
  | (some ws, s) =>
    let r : RemoteReq :=
      { spkg := s.fab.pkgid, scoach := m, item := it.id, key := j, job := s.jobOf m, write := it.dir = 1, short := copyLen it.desc ≤ 192,
        dva := BitVec.ofNat 56 a, words := n, data := ws }
    let s := s.onItem m it.id fun o => { o with todo := o.todo.erase j, out := o.out ++ [j] }
    if remPkg it = s.fab.pkgid then s.later it.coach (.remoteDcopyRequest r)
    else s.enqueue (remShort it) (remPkg it) (dvaLane a) (.remote r)

/-- PUT: one line is sent (R310); a line for another package goes in two halves. -/
def State.putLine (s : State) (m : BitVec 3) (it : Item) (i : Nat) : State :=
  let w0 := dword it.desc 0
  let w1 := dword it.desc 1
  let l := (wfld w1 6 14 + i) % 16384
  match s.bankRead m it false (BitVec.ofNat 6 (wfld w1 0 6)) l (BitVec.allOnes 64) with
  | (none, s) => s
  | (some v, s) =>
    let pkg : BitVec 10 := BitVec.ofNat 10 (wfld w0 0 10)
    let here : Bool := wfld w0 10 1 = 1 || pkg = s.fab.pkgid
    let job := s.jobOf m
    let line : BitVec 14 := BitVec.ofNat 14 (wfld w0 20 14 + i)
    let p : PutLine :=
      { spkg := s.fab.pkgid, scoach := m, item := it.id, key := i, job := job, here := here, coach := BitVec.ofNat 3 (wfld w0 11 3),
        bank := BitVec.ofNat 6 (wfld w0 14 6), line := line, data := v }
    let s := s.onItem m it.id fun o => { o with todo := o.todo.erase i, out := o.out ++ [i] }
    if here then s.later it.coach (.putArrival p)
    else (s.enqueue false pkg (line.truncate 4) (.putLine false p)).enqueue false pkg (line.truncate 4) (.putLine true p)

/-- The table row that an index names (R312): its number, or none for a zero or strict row; and whether it is strict. -/
def gatherRow (it : Item) (x : Int) : Option Nat × Bool :=
  let n : Int := wfld (dword it.desc 3) 36 24
  let mode := (it.sub.extractLsb' 0 2).toNat
  if 0 ≤ x && x < n then (some x.toNat, false)
  else if mode = 0 then (none, false)
  else if mode = 1 then (some (min (max x 0) (n - 1)).toNat, false)
  else if mode = 2 then (some (x % n).toNat, false)
  else (none, true)

/-- Index of list entry `e` of an HGATH, once its line is read, and the entries still to do that name it in its window of 64 (R312). -/
def gatherIndex (it : Item) (e : Nat) : BitVec 32 := (it.aux.getD e 0).truncate 32
def gatherSame (it : Item) (e : Nat) : List Nat := it.todo.filter fun o => o / 64 = e / 64 && gatherIndex it o = gatherIndex it e

/-- The bank lines of an HGATH's row `e`, counted on past the bank's end: the first and the last. -/
def gatherLines (it : Item) (e : Nat) : Nat × Nat :=
  let t := bankStart it.desc + e * rowWords it.desc
  (t / 64, (t + rowWords it.desc - 1) / 64)

/-- The entries whose rows have words in such a line: the first and the last. -/
def gatherSharers (it : Item) (q : Nat) : Nat × Nat :=
  let rw := max 1 (rowWords it.desc)
  ((64 * q - bankStart it.desc) / rw, min (gatherCount it.desc - 1) ((64 * q + 63 - bankStart it.desc) / rw))

/-- The port of a bank line of an HGATH: the highest that the words of any of its rows select (R302). -/
def State.gatherPort (s : State) (m : BitVec 3) (it : Item) (q : Nat) : Nat :=
  let rw := max 1 (rowWords it.desc)
  let es := gatherSharers it q
  (List.range 64).foldl (fun p k =>
    let t := 64 * q + k - bankStart it.desc
    if bankStart it.desc ≤ 64 * q + k && es.1 ≤ t / rw && t / rw ≤ es.2 then
      match (gatherRow it (gatherIndex it (t / rw)).toInt).1 with
      | none => p
      | some r =>
        match s.places m it false [wfld (dword it.desc 0) 0 56 + r * wfld (dword it.desc 2) 32 32 + 4 * (t % rw)] with
        | .ok ps => (ps.map fun x => fillPort it.coach (s.placeStack (s.jobOf m) x)).foldl max p
        | .error _ => p
    else p) 13

/-- HGATH: the row of list entry `e` is read once, for every entry of its window of 64 that names the same index (R312). -/
def State.gatherPiece (s : State) (m : BitVec 3) (it : Item) (e : Nat) : State :=
  let same := gatherSame it e
  let (row, strict) := gatherRow it (gatherIndex it e).toInt
  let rw := rowWords it.desc
  let base := wfld (dword it.desc 0) 0 56
  let got : Option (List (Lane × Nat)) × State :=
    match row with
    | some r =>
      let as := (List.range rw).map fun j => base + r * wfld (dword it.desc 2) 32 32 + 4 * j
      let ports := match s.places m it false as with
        | .ok ps => ps.map fun p => fillPort it.coach (s.placeStack (s.jobOf m) p)
        | .error _ => []
      match s.readDvas m it as with
      | (some v, s) => (some (v.zip ports), s)
      | (none, s) => (none, s)
    | none => (some (List.replicate rw (if strict then (dword it.desc 4).truncate 32 else 0, 13)), s)
  match got with
  | (none, s) => s
  | (some v, s) =>
    let s := s.onItem m it.id fun o => { o with todo := o.todo.filter fun x => !same.contains x, oob := o.oob || strict }
    same.foldl (fun s o =>
      let q := (gatherLines it o).1
      s.engWords m it (bankOf it.desc) (bankStart it.desc + o * rw) v
        (fun l => s.gatherPort m it (q + (l + 16384 - q % 16384) % 16384)) o 1) s

/-- Bits of a packed stream at a DVA: the addresses of the words that hold bits `lo` to `lo` + n − 1. -/
def bitWords (a lo n : Nat) : List Nat :=
  (List.range ((lo + n + 31) / 32 - lo / 32)).map fun i => a + 4 * (lo / 32 + i)

/-- Reduce the encodings of one element (R313): 0 sum, 1 max, 2 min. -/
def reduceElem (op fmt rm : Nat) (l : List Nat) : Nat × BitVec 6 :=
  if isFp fmt then
    if op = 0 then
      let (x, iv) := sumNums rm (l.map (decodeNum fmt))
      let (r, fl) := roundNum fmt rm false x 0
      (r, fl ||| flIf iv flIV)
    else match l with
      | [] => (0, 0)
      | a :: t => (fpCanon fmt (t.foldl (fpMaxMin fmt (op = 1)) a), 0)
  else if op = 0 then (encodeInt fmt ((l.map (decodeInt fmt)).sum), 0)
  else match l with
    | [] => (0, 0)
    | a :: t =>
      (encodeInt fmt ((t.map (decodeInt fmt)).foldl (fun x y => if op = 1 then max x y else min x y) (decodeInt fmt a)), 0)

/-- HRED: one word of DST (R313). -/
def State.reducePiece (s : State) (m : BitVec 3) (it : Item) (i : Nat) : State :=
  let op := (it.sub.extractLsb' 0 2).toNat
  let fmt := (it.sub.extractLsb' 2 4).toNat
  let rm := (it.sub.extractLsb' 6 3).toNat
  let as := (List.range (wfld (dword it.desc 2) 32 8 + 1)).map fun k =>
    wfld (dword it.desc 1) 0 56 + k * wfld (dword it.desc 3) 0 56 + 4 * i
  match s.readDvas m it as with
  | (none, s) => s
  | (some v, s) =>
    let n := 32 / fmtWidth fmt
    let (r, fl) := laneElems fmt n fun j => reduceElem op fmt rm (v.map fun w => elemOf fmt w j)
    match s.writeDvas m it true [(wfld (dword it.desc 0) 0 56 + 4 * i, BitVec.allOnes 32, BitVec.ofNat 32 r)] with
    | (true, s) =>
      s.onItem m it.id fun o => { o with todo := o.todo.erase i, pieces := o.pieces + 1, wrote := true, flags := o.flags ||| fl }
    | (false, s) => s

/-- Convert an exact value under R267 and R314: an integer target from an integer source rounds first, then wraps or
clamps. -/
def convertNum (t f rm : Nat) (sat : Bool) (x : Num) : Nat × BitVec 6 :=
  if isInt t then
    if isInt f then
      match x with
      | .fin n mm e =>
        let (v, nx) := toInteger rm n mm e 0
        let (r, fl) := if sat then clampInt t v else (encodeInt t v, 0)
        (r, fl ||| flIf nx flNX)
      | _ => numToInt t rm x 0
    else numToInt t rm x 0
  else roundNum t rm sat x 0

/-- The exact value of a source element (R314). -/
def sourceNum (f b : Nat) : Num := if isInt f then intToNum (decodeInt f b) else decodeNum f b

/-- The elements of a piece of an HCVT: first element and count (R314). -/
def convertSpan (d : List Word) (i : Nat) : Nat × Nat :=
  let t := wfld (dword d 2) 32 4
  let step := memStep t (wfld (dword d 2) 45 1 = 1)
  if wfld (dword d 2) 44 1 = 1 then (32 * i, 32) else (32 * i / step, (32 * i + 31) / step - 32 * i / step + 1)

/-- HCVT: a block of 32 elements with MX scales, or one word of DST (R314). Scales that lie in a page of KIND 3 pinned after the item's
checks give ALIGN here (R119). -/
def State.convertPiece (s : State) (m : BitVec 3) (it : Item) (i : Nat) : State :=
  let d := it.desc
  let w2 := dword d 2
  let t := wfld w2 32 4
  let f := wfld w2 36 4
  let rm := wfld w2 40 3
  let sat : Bool := wfld w2 43 1 = 1
  let mx : Bool := wfld w2 44 1 = 1
  let dense : Bool := wfld w2 45 1 = 1
  let xsc : Int := (wfld w2 46 8 : Int) - 127
  let ts := memStep t dense
  let fs := memStep f dense
  let (e0, n) := convertSpan d i
  let scl := wfld (dword d 3) 0 56 + i
  let sw := bitWords (wfld (dword d 1) 0 56) (fs * e0) (fs * (n - 1) + fmtWidth f)
  let fromMx : Bool := mx && mxFmt f
  if s.checkScales m it.coach d ≠ [] then s.failItem m it.id 2 0 scl false
  else match s.readDvas m it (sw ++ if fromMx then [scl / 4 * 4] else []) with
  | (none, s) => s
  | (some ws, s) =>
    let scale : Nat := if fromMx then (ws.getD sw.length 0).toNat / 2 ^ (8 * (scl % 4)) % 256 else 127
    let bitsIn := natOfLanes (ws.take sw.length)
    let src : Nat → Num := fun j =>
      let b := bitsIn / 2 ^ (fs * e0 % 32 + fs * j) % 2 ^ fmtWidth f
      if scale = 255 then Num.nan else ((sourceNum f b).scale xsc).scale ((scale : Int) - 127)
    let nums := (List.range n).map src
    let toMx : Bool := mx && mxFmt t
    let x := mxScale t nums
    let elem := fun y => if toMx then mxElem t rm x y 0 else convertNum t f rm sat y
    let res := nums.map elem
    let fl := orFlags res
    let bits := (res.zipIdx.map fun r => r.1.1 % 2 ^ fmtWidth t * 2 ^ (ts * r.2)).sum
    let dst := wfld (dword d 0) 0 56
    let outs : List (Nat × Lane × Lane) :=
      if mx then (List.range ts).map fun k => (dst + 4 * (ts * i + k), BitVec.allOnes 32, BitVec.ofNat 32 (bits / 2 ^ (32 * k)))
      else [(dst + 4 * i, BitVec.allOnes 32, BitVec.ofNat 32 (bits / 2 ^ (32 * i - ts * e0)))]
    let outs := if toMx then outs ++ [(scl / 4 * 4, BitVec.ofNat 32 (255 * 2 ^ (8 * (scl % 4))), BitVec.ofNat 32 (x * 2 ^ (8 * (scl % 4))))]
      else outs
    match s.writeDvas m it true outs with
    | (true, s) =>
      s.onItem m it.id fun o => { o with todo := o.todo.erase i, pieces := o.pieces + 1, wrote := true, flags := o.flags ||| fl }
    | (false, s) => s

/-- The new value of an atomic: none for a compare that fails (R315). -/
def atomNew (op : Nat) (wide : Bool) (old opnd cmp : Nat) : Option Nat × BitVec 6 :=
  let w := if wide then 64 else 32
  let sg := fun v : Nat => (BitVec.ofNat w v).toInt
  match op with
  | 0 => (some ((old + opnd) % 2 ^ w), 0)
  | 1 => (some (if sg old < sg opnd then opnd else old), 0)
  | 2 => (some (if sg opnd < sg old then opnd else old), 0)
  | 3 => (some opnd, 0)
  | 4 => (if old = cmp then some opnd else none, 0)
  | 5 => let r := fpAdd 0 0 old opnd 0; (some r.1, r.2)
  | 6 => (some (fpMaxMin 0 true old opnd), 0)
  | _ => (some (fpMaxMin 0 false old opnd), 0)

/-- Operation and width of an HATOM's SUB (R205, R315). -/
def atomOp (it : Item) : Nat × Bool :=
  let n := it.sub.toNat
  if n < 10 then (n / 2, n % 2 = 1) else (n - 5, false)

/-- HATOM: the read-modify-write at the stack engine, and the returned value (R152, R315). A page of KIND 2 or 3 that was pinned
after the item's checks gives FORMAT too. -/
def State.atomPiece (s : State) (m : BitVec 3) (it : Item) : State :=
  let (op, wide) := atomOp it
  let a := wfld (dword it.desc 0) 0 56
  let as := if wide then [a, a + 4] else [a]
  if s.checkAtomKind m it.coach it.desc ≠ [] then s.failItem m it.id 1 0 a false
  else match s.places m it true as, s.places m it false as with
    | .error e, _ => s.stopItem m it e.1 e.2
    | _, .error e => s.stopItem m it e.1 e.2
    | .ok ps, .ok _ =>
      let (ok, s) := s.meetBad m it true ((ps.map (s.placeKeys (s.jobOf m))).zip as)
      if ok then
        match s.expandFirst m true (ps.zip as) with
        | (some e, s) => s.stopItem m it e.1 e.2
        | (none, s) =>
          let old := natOfLanes (ps.map fun p => s.readWord .atomic (s.jobOf m) p 0)
          let n := if wide then 2 else 1
          let (new, fl) := atomNew op wide old ((dword it.desc 1).toNat % 2 ^ (32 * n)) ((dword it.desc 2).toNat % 2 ^ (32 * n))
          let s := match new with
            | some v => (ps.zip (lanesOfNat v n)).foldl (fun (s : State) (e : Place × Lane) => s.writeWord .atomic (s.jobOf m) e.1 (BitVec.allOnes 32) e.2) s
            | none => s
          let w3 := dword it.desc 3
          let s := if wfld w3 18 1 = 1 then
              s.onSq m fun q => { q with ss := pokeBytes q.ss (wfld w3 0 18 / 8 * 8) 8 old }
            else s
          s.onItem m it.id fun o => { o with todo := [], pieces := 1, wrote := new.isSome, flags := o.flags ||| fl }
      else s

/-- The outermost body of some loop levels with its buffer, once it holds a bundle of the body as the code store has it (R173). -/
def holdBundle (loops : List LoopLevel) (buf : List (Nat × Bundle)) (x : Nat) (b : Bundle) : List (Nat × Bundle) :=
  match loops.getLast? with
  | some l => if l.first ≤ x && x ≤ l.last && !(buf.any fun e => e.1 = x) then buf ++ [(x, b)] else buf
  | none => buf

/-- Before a bundle of the code store is rewritten, an active body that holds it takes it as it stands: what issues changes only
after the level is popped (R173, log 53). -/
def Seq.keepBody (q : Seq) (x : Nat) : Seq :=
  if q.badCode.contains x then q
  else
    let b := peek q.code x
    { q with loopBuf := holdBundle q.loops q.loopBuf x b,
             held := q.held.map fun h => { h with loopBuf := holdBundle h.loops h.loopBuf x b } }

/-- CLOAD: one bundle of the master's code store (R320). -/
def State.codePiece (s : State) (m : BitVec 3) (it : Item) (i : Nat) : State :=
  let a := wfld (dword it.desc 0) 0 56 + 64 * i
  match s.readDvas m it ((List.range 16).map fun k => a + 4 * k) with
  | (none, s) => s
  | (some v, s) =>
    let x := wfld (dword it.desc 1) 0 14 + i
    let s := s.onSq m fun q =>
      { (q.keepBody x) with code := poke q.code x (BitVec.ofNat 512 (natOfLanes v)), badCode := q.badCode.filter (· ≠ x),
                            softCode := q.softCode.filter (· ≠ x) }
    s.onItem m it.id fun o => { o with todo := o.todo.erase i, pieces := o.pieces + 1, wrote := true }

/-- ENQ: the record and the tail advance, as one step (R319), once a slot in host memory may be written (R359). -/
def State.enqPiece (s : State) (m : BitVec 3) (it : Item) : State :=
  let rec_ := it.aux.flatMap fun w => [(w.truncate 32 : Lane), w.extractLsb' 32 32]
  if s.enqueueHeld (s.jobOf m) (BitVec.ofNat 6 (wfld (dword it.desc 0) 18 6)) then s
  else match s.enqueueLaunch (s.jobOf m) (BitVec.ofNat 6 (wfld (dword it.desc 0) 18 6)) rec_ with
  | (none, s) => s.onItem m it.id fun o => { o with todo := [], pieces := 1, wrote := true }
  | (some c, s) => s.failItem m it.id 9 c 0 false

/-- Write a fault record, unless R112 withholds it. A fault that repeats the page, context and kind of a record of this generation
is withheld as a repetition also while the ring is full or off, and sets no OVF (log 54, DESIGN CHOICE). -/
def State.recordFault (s : State) (page : Nat) (ctx : BitVec 12) (c : BitVec 3) (acc : BitVec 2) (cause : Nat) : State :=
  let h := s.hub
  let lsize := (h.fbctl.extractLsb' 0 4).toNat
  if h.fbrecs.any (fun r => r.page = page && r.ctx = ctx && r.acc = acc && r.gen = h.fbgen) then s
  else if !h.fbctl.getLsbD 4 || lsize < 4 || (h.fbtail - h.fbhead).toNat = 2 ^ lsize then { s with hub := { h with fbovf := true } }
  else
    let v := page + cause * 2 ^ 56 + ctx.toNat * 2 ^ 64 + c.toNat * 2 ^ 76 + acc.toNat * 2 ^ 79 + h.fbgen.toNat * 2 ^ 128
    let a := h.fbbase.toNat + 32 * (h.fbtail.toNat % 2 ^ lsize)
    let r : FaultRec := { idx := h.fbtail, page := page, ctx := ctx, acc := acc, gen := h.fbgen, cause := BitVec.ofNat 8 cause, denied := false }
    ({ s with hub := { h with fbtail := h.fbtail + 1, fbrecs := h.fbrecs ++ [r] } }).hbmPut a 32 v

/-- The access kinds of a PROBE's form: 1 read, 2 write, 3 both (R110, R316). -/
def probeAcc (it : Item) : BitVec 2 := it.sub.extractLsb' 0 2

/-- Pin a page for a context on a coach: one entry for all of its pins of one page (R108, R109). -/
def pinPage (e : Engine) (ctx : BitVec 12) (l : Leaf) (page : Nat) (acc : BitVec 2) : Engine :=
  match e.tlb.find? (fun p => p.ctx = ctx && p.page = page) with
  | some _ =>
    { e with tlb := e.tlb.map fun p =>
        if p.ctx = ctx && p.page = page then { p with rd := p.rd || acc.getLsbD 0, wr := p.wr || acc.getLsbD 1 } else p }
  | none =>
    { e with tlb := e.tlb ++ [{ ctx := ctx, page := page, size := l.size, rd := acc.getLsbD 0, wr := acc.getLsbD 1,
                                kind := BitVec.ofNat 3 l.kind, tgt := BitVec.ofNat 56 l.tgt }] }

/-- Whether a coach has room to pin a page for a context (R108). -/
def pinRoom (e : Engine) (ctx : BitVec 12) (page : Nat) : Bool :=
  decide (e.tlb.length < 4096) || e.tlb.any fun p => p.ctx = ctx && p.page = page

/-- PROBE: the walk of the page at its cursor, held in `aux` (R110). It starts at the ROOT that the job's translation record holds now,
also where software has changed the record since sy.ptr was loaded from it (DESIGN CHOICE, log 64). -/
def State.probePiece (s : State) (m : BitVec 3) (it : Item) : State :=
  let start := wfld (dword it.desc 0) 0 56
  let stop := start + wfld (dword it.desc 1) 0 48
  let a := (it.aux.headD 0).toNat
  let ctx := s.ctxOf m
  let acc := probeAcc it
  let root := (s.hub.job (s.jobOf m)).root.toNat
  if stop ≤ a || start = stop then s.onItem m it.id fun o => { o with todo := [] }
  else
    let s := s.countWalk root a
    match s.walkFor root a (acc.getLsbD 0) (acc.getLsbD 1) with
    | .error c =>
      if c = 5 then s.failItem m it.id 10 5 a false
      else
        let s := s.recordFault (a / 65536 * 65536) ctx it.coach acc c
        s.onItem m it.id fun o => { o with phase := .fault, subc := BitVec.ofNat 8 c }
    | .ok l =>
      let page := a - a % 2 ^ l.size
      if it.targets.all fun c => pinRoom (s.coach c).en ctx page then
        let s := it.targets.foldl (fun s c => s.onEn c fun e => pinPage e ctx l page acc) s
        s.onItem m it.id fun o => { o with pieces := o.pieces + 1, aux := [BitVec.ofNat 64 (page + 2 ^ l.size)],
                                           todo := if stop ≤ page + 2 ^ l.size then [] else o.todo }
      else s.failItem m it.id 10 4 a false

/-- PROBE of the release form: the context's pins of the pages of the range go (R108, R316). -/
def State.unpinPiece (s : State) (m : BitVec 3) (it : Item) : State :=
  let start := wfld (dword it.desc 0) 0 56
  let stop := start + wfld (dword it.desc 1) 0 48
  let ctx := s.ctxOf m
  let s := it.targets.foldl (fun s c => s.onEn c fun e =>
    { e with tlb := e.tlb.filter fun p => !(p.ctx = ctx && p.page < stop && start < p.page + 2 ^ p.size) }) s
  s.onItem m it.id fun o => { o with todo := [], pieces := o.pieces + 1 }

/-! ### RSOLVE (R245 to R248) -/

/-- RSOLVE: one line of the list is read (R248); the entries gather in `aux`, each line's in its place. -/
def State.listPiece (s : State) (m : BitVec 3) (it : Item) (i : Nat) : State :=
  let w0 := dword it.desc 0
  let l := (wfld w0 24 14 + i) % 16384
  match s.bankRead m it false (BitVec.ofNat 6 (wfld w0 18 6)) l (BitVec.allOnes 64) with
  | (none, s) => s
  | (some v, s) =>
    let put := fun (aux : List Word) => (List.range 64).foldl (fun a k => a.set (64 * i + k) (zx (laneOf v k))) aux
    s.onItem m it.id fun o => { o with todo := o.todo.erase i, aux := put o.aux }

/-- Entry `e` of a solver list held as lanes. -/
def listEntry (aux : List Word) (e : Nat) : Int :=
  let w := aux.getD (e / 2) 0
  ((if e % 2 = 0 then w.truncate 16 else w.extractLsb' 16 16) : BitVec 16).toInt

/-- The targets of R247 in list order: listed terminal, and its indexed terminal, or −1 for ZERO, −2 for STRICT; a
terminal left out does not appear. -/
def solveTargets (mode : Nat) (d : List Word) (aux : List Word) : List (Nat × Int) :=
  let fb := wfld (dword d 0) 38 12
  let n := wfld (dword d 0) 50 13
  let ob : Int := wfld (dword d 1) 0 12
  let oc : Int := wfld (dword d 1) 12 13
  (List.range n).filterMap fun e =>
    let i := listEntry aux e
    if i = -32768 then none
    else if 0 ≤ i && i < oc then some (fb + e, ob + i)
    else if mode = 0 then some (fb + e, -1)
    else if mode = 1 then some (fb + e, ob + min (max i 0) (oc - 1))
    else if mode = 2 then some (fb + e, ob + i % oc)
    else some (fb + e, -2)

/-- A line from bits given by a test. -/
def bitLine (f : Nat → Bool) : Line := BitVec.ofNat 2048 (((List.range 2048).map fun i => if f i then 2 ^ i else 0).sum)

/-- The image of a read entry (R247): the fan table, the enables and the template's control line; every switch straight. -/
def solveRead (map : List (Nat × Int)) (ctl : Line) : List Line :=
  let tbl : List (Nat × Nat) := map.map fun p => (p.1, (if p.2 = -1 then 3968 + p.1 % 64 else if p.2 = -2 then 3840 + p.1 % 64 else p.2.toNat))
  let fs := (tbl.map fun p => p.2 * 2 ^ (12 * p.1)).sum
  let en := (tbl.map fun p => 2 ^ p.1).sum
  List.replicate 23 0 ++ (List.range 24).map (fun i => BitVec.ofNat 2048 (fs / 2 ^ (2048 * i))) ++ [ctl] ++
    [BitVec.ofNat 2048 en, BitVec.ofNat 2048 (en / 2 ^ 2048)]

/-- The sources that a write entry routes (R247): (source, destination), the highest listed source keeping a
destination; and whether a repeat was met. -/
def solvePairs (map : List (Nat × Int)) : List (Nat × Nat) × Bool :=
  map.foldl (fun acc p =>
    if p.2 < 0 then acc
    else
      let d := p.2.toNat
      if acc.1.any (fun q => q.2 = d) then ((acc.1.filter fun q => q.2 ≠ d) ++ [(p.1, d)], true)
      else (acc.1 ++ [(p.1, d)], acc.2)) ([], false)

/-- Take a list's element of a free choice out of it (log 6). -/
def takeAny (draw : Nat) (l : List Nat) : Nat × List Nat :=
  let i := Config.pick draw % max 1 l.length
  (l.getD i 0, l.eraseIdx i)

/-- Fill a partial injection of 4,096 positions up to a permutation: unmapped sources take the unmapped destinations as free
choices give them. The list gives each source's destination. -/
def completePerm (draw : Nat) (l : List (Nat × Nat)) : List Nat :=
  let dst := l.foldl (fun (a : Array Nat) p => a.setIfInBounds p.1 (p.2 + 1)) (Array.replicate 4096 0)
  let used := l.foldl (fun (a : Array Bool) p => a.setIfInBounds p.2 true) (Array.replicate 4096 false)
  let free := (List.range 4096).filter fun d => !(used.getD d false)
  ((List.range 4096).foldl (fun (acc : List Nat × List Nat) p =>
    let d := dst.getD p 0
    if d = 0 then
      let t := takeAny (draw + p) acc.2
      (t.1 :: acc.1, t.2)
    else ((d - 1) :: acc.1, acc.2)) ([], free)).1.reverse

/-- Colour the sources of a subnetwork of 2^n positions with the half they take (the looping method): pairs of sources
and pairs of destinations get both halves, `first` being that of the source the loop starts from. `side` maps a source to 0 (none
yet), 1 or 2. -/
def loopFrom (perm inv : Array Nat) (top first : Nat) : Nat → Nat → Array Nat → Array Nat
  | 0, _, side => side
  | fuel + 1, p, side =>
    if side.getD p 0 ≠ 0 then side
    else
      let side := (side.setIfInBounds p first).setIfInBounds (p ^^^ top) (3 - first)
      loopFrom perm inv top first fuel (inv.getD ((perm.getD (p ^^^ top) 0) ^^^ top) 0) side

/-- Route a permutation of 2^n positions from stage `s` on; `base` is the subnetwork's fixed address bits. Each entry is
(stage, switch index) of a crossed switch. Which half each loop of a stage starts with is free (R9, R247, log 6). -/
def benes (draw : Nat) : Nat → Nat → Nat → List Nat → List (Nat × Nat)
  | 0, _, _, _ => []
  | 1, s, base, perm => if perm.getD 0 0 = 1 then [(s, switchIndex s base)] else []
  | n + 2, s, base, perm =>
    let half := 2 ^ (n + 1)
    let pa := perm.toArray
    let inv := (perm.zipIdx).foldl (fun (a : Array Nat) e => a.setIfInBounds e.1 e.2) (Array.replicate (2 * half) 0)
    let side := (List.range half).foldl (fun a p =>
      loopFrom pa inv half (1 + Config.pick (draw + 4096 * (s + 1) + base + p) % 2) (2 * half) p a) (Array.replicate (2 * half) 0)
    let sel := fun p => side.getD p 0 = 2
    let last := 22 - s
    let upper := (List.range half).map fun p => let src := if sel p then p + half else p; (pa.getD src 0) % half
    let lower := (List.range half).map fun p => let src := if sel p then p else p + half; (pa.getD src 0) % half
    let first := (List.range half).filterMap fun p => if sel p then some (s, switchIndex s (base + p)) else none
    let back := (List.range half).filterMap fun d =>
      if sel (inv.getD d 0) then some (last, switchIndex last (base + d)) else none
    first ++ back ++ benes draw (n + 1) (s + 1) base upper ++ benes draw (n + 1) (s + 1) (base + half) lower

/-- The image of a write entry (R247): enables of the mapped destinations, one of the settings of the switches that carry each
mapped source to its destination, and the template's control line. -/
def solveWrite (pairs : List (Nat × Nat)) (ctl : Line) (draw : Nat) : List Line :=
  let crossed := benes draw 12 0 0 (completePerm draw pairs)
  let en := (pairs.map fun p => 2 ^ p.2).sum
  (List.range 23).map (fun s => BitVec.ofNat 2048 ((crossed.filterMap fun c => if c.1 = s then some (2 ^ c.2) else none).sum)) ++
    [ctl] ++ [BitVec.ofNat 2048 en, BitVec.ofNat 2048 (en / 2 ^ 2048)]

/-- Free choices that one solve may take (model): 4,096 for the terminals it does not map, and for each stage's loops. -/
def solveDraws : Nat := 13 * 4096

/-- The image an RSOLVE builds, and whether its strict mode met an index out of range or a repeat (R247). -/
def solveImage (e : Engine) (it : Item) (draw : Nat) : List Line × Bool :=
  let mode := (it.sub.extractLsb' 0 2).toNat
  let write : Bool := it.sub.getLsbD 2
  let tmpl : BitVec 9 := BitVec.ofNat 9 (wfld (dword it.desc 0) 9 9)
  let ctl := e.routeLine write tmpl (if write then 23 else 47)
  let map := solveTargets mode it.desc it.aux
  let strict := map.any fun p => p.2 = -2
  if write then
    let (pairs, rep) := solvePairs map
    (solveWrite pairs ctl draw, strict || (mode = 3 && rep))
  else (solveRead map ctl, strict)

end Sys2Proof.Machine
end

