-- ==== Sys2Proof/Machine/Serve.lean ====
section
/-! DEFINITION. How items run from issue to post: waits for acquire and release, the choice of the next group of pieces,
holding, parking, fences, arrivals and acknowledgements, and the post (spec/21_async.md R297 to R311,
spec/09_ordering.md R139 to R154, spec/15_network_memslot.md R248, spec/25_fabric.md R355). -/

namespace Sys2Proof.Machine

open Sys2Proof

/-! ### Order of requests (R142) -/

/-- The destinations of a DCOPY's or PUT's group, each with its lane: a package's memory, or a coach's bank wall. -/
def State.groupLanes (s : State) (it : Item) (key : Nat) : List (Nat × BitVec 4) :=
  let own := s.fab.pkgid.toNat
  let srcLanes := fun (l : List Src) => l.filterMap fun x => match x with | .mem a => some (own, dvaLane a) | _ => none
  if it.major = majPut then
    let w0 := dword it.desc 0
    let pkg := if wfld w0 10 1 = 1 then own else wfld w0 0 10
    [(1024 + 8 * pkg + wfld w0 11 3, BitVec.ofNat 4 (wfld w0 20 14 + key))]
  else if it.form = 5 then
    let a := copyAddr 5 it.desc + 128 * key
    [((remPkg it).toNat, dvaLane a), ((remPkg it).toNat, dvaLane (a + 4 * remWords it.desc key - 4))]
  else if it.form = 4 || it.form = 6 then []
  else if it.dir = 2 then
    (own, dvaLane (256 * key)) ::
      (List.range 64).flatMap fun k => srcLanes (memSrcs it.form it.desc (256 * key + 4 * k))
  else (List.range 64).flatMap fun k => srcLanes (bankSrcs 0 it.form it.desc (64 * key + k))

/-- Whether an item is one of DCOPY and PUT. -/
def Item.ordered (it : Item) : Bool := it.sub ≠ subTile && (it.major = majDcopy || it.major = majPut)

/-- The words of memory that an HATOM of a master's context reads and writes: the location by which its order goes, whichever DVA
names it (R131, R142). -/
def State.atomCell (s : State) (m : BitVec 3) (it : Item) : List WordKey :=
  (List.range (if (atomOp it).2 then 2 else 1)).flatMap fun i =>
    match s.itemPlace (s.coach m).sq it.coach (s.ctxOf m) (wfld (dword it.desc 0) 0 56 + 4 * i) true with
    | .ok p => s.placeKeys (s.jobOf m) p
    | .error _ => []

/-- The requests for runs of remote DCOPYs that have still to be performed in this package. -/
def State.runsWaiting (s : State) : List RemoteReq :=
  (s.agenda.filterMap fun t => match t with | .op _ (.remoteDcopyRequest r) => some r | _ => none) ++
    s.timers.filterMap fun t => match t.2.2 with | .remoteDcopyRequest r => some r | _ => none

/-- Whether a group is a run of a remote DCOPY that lies in two blocks of 256 bytes, so that it goes on two lanes (R142). -/
def Item.twoLanes (it : Item) (key : Nat) : Bool :=
  it.sub ≠ subTile && it.major = majDcopy && it.form = 5 && 
    decide (256 < (copyAddr 5 it.desc + 128 * key) % 256 + 4 * remWords it.desc key)

/-- The groups of a DCOPY or PUT that a later one on the same lane has to wait for (R142): those still to begin, and of its runs those
that wait in this package to be performed. A request on two lanes is overtaken on neither, nor does it overtake: for it, or for a later
one when it is the later's, the run's end is waited for. -/
def State.groupsAhead (s : State) (m : BitVec 3) (o : Item) (two : Bool) : List Nat :=
  o.todo ++ if o.major = majDcopy && o.form = 5 then
    o.out.filter fun k => two || o.twoLanes k || s.runsWaiting.any fun r => r.spkg = s.fab.pkgid && r.scoach = m && r.item = o.id && r.key = k
  else []

/-- The lines of the index list that tell an HGATH's rows, and the ports of the bank lines of those that go together (R302, R312). -/
def gatherWindows (it : Item) (key : Nat) : List Nat :=
  let line := fun q => let es := gatherSharers it q; [es.1 / 64, es.2 / 64]
  (gatherSame it key).flatMap fun e => (let q := gatherLines it e; line q.1 ++ line q.2)

/-- Whether a group may begin now: no earlier DCOPY or PUT of the coach has a request to make on one of its lanes, no
earlier HATOM of the coach meets its location (R142), and the parts of an HGATH's list have been read that name its row and the rows
in whose bank lines it lies. -/
def State.groupReady (s : State) (m : BitVec 3) (it : Item) (key : Nat) : Bool :=
  let before := ((s.coach m).sq.items.takeWhile fun o => o.id ≠ it.id).filter fun o => o.coach = it.coach
  if it.ordered then
    let mine := s.groupLanes it key
    !(before.any fun o => o.ordered && (s.groupsAhead m o (it.twoLanes key)).any fun k => (s.groupLanes o k).any fun l => mine.contains l)
  else if it.major = majHatom then
    !(before.any fun o => o.sub ≠ subTile && o.major = majHatom && !o.todo.isEmpty && (s.atomCell m o).any (s.atomCell m it).contains)
  else if it.major = majHgath && key < 4096 then
    !it.todo.contains (4096 + key / 64) && (gatherWindows it key).all fun w => !it.todo.contains (4096 + w)
  else true

/-- HGATH: one line of the index list is read into `aux` (R312). -/
def State.indexPiece (s : State) (m : BitVec 3) (it : Item) (i : Nat) : State :=
  let w := dword it.desc 3
  match s.bankRead m it false (BitVec.ofNat 6 (wfld w 0 6)) ((wfld w 6 14 + i) % 16384) (BitVec.allOnes 64) with
  | (none, s) => s
  | (some v, s) =>
    let put := fun (aux : List Word) => (List.range 64).foldl (fun a k => a.set (64 * i + k) (zx (laneOf v k))) aux
    s.onItem m it.id fun o => { o with todo := o.todo.erase (4096 + i), aux := put o.aux }

/-- Perform one group of pieces of an item. -/
def State.perform (s : State) (m : BitVec 3) (it : Item) (key : Nat) : State :=
  if it.major = majDcopy then
    (if it.form = 5 then s.copyRem m it key
    else if it.dir = 0 then s.copyIn m it key
    else if it.dir = 1 then s.copyOut m it key
    else s.copyMem m it key)
  else if it.major = majPut then s.putLine m it key
  else if it.major = majHgath then (if 4096 ≤ key then s.indexPiece m it (key - 4096) else s.gatherPiece m it key)
  else if it.major = majHred then s.reducePiece m it key
  else if it.major = majHcvt then s.convertPiece m it key
  else if it.major = majHatom then s.atomPiece m it
  else if it.major = majProbe then (if probeAcc it = 0 then s.unpinPiece m it else s.probePiece m it)
  else if it.major = majEnq then s.enqPiece m it
  else if it.major = majCload then s.codePiece m it key
  else if it.major = majRsolve then s.listPiece m it key
  else s.onItem m it.id fun o => { o with todo := [] }

/-! ### Holding (R355) -/

/-- The package an item must reach over a port, and whether its messages fit short flits (R354). -/
def State.farTarget (s : State) (it : Item) : Option (BitVec 10 × Bool) :=
  if it.sub = subTile then none
  else if it.major = majDcopy && it.form = 5 then
    (if remPkg it = s.fab.pkgid then none else some (remPkg it, remShort it))
  else if it.major = majPut then
    let w0 := dword it.desc 0
    let pkg : BitVec 10 := BitVec.ofNat 10 (wfld w0 0 10)
    if wfld w0 10 1 = 1 || pkg = s.fab.pkgid then none else some (pkg, false)
  else none

/-- Whether a message belongs to an item of master `m`. -/
def ofItem (m : BitVec 3) (id : Nat) : LinkMsg → Bool
  | .putLine _ p => p.scoach = m && p.item = id
  | .remote r => r.scoach = m && r.item = id
  | _ => false

/-- Whether an item has a piece to send, or one that waits in the hub's buffer. -/
def State.hasUnsent (s : State) (m : BitVec 3) (it : Item) : Bool :=
  !it.todo.isEmpty || s.fab.relay.any fun e => ownSrc e.2.2 && ofItem m it.id e.2.1

/-- The address of a group of a remote DCOPY or a PUT: its first DVA, or 64 times its source line (R299; log 55). -/
def farAddr (it : Item) (key : Nat) : Nat :=
  if it.major = majPut then 64 * ((wfld (dword it.desc 1) 6 14 + key) % 16384) else copyAddr 5 it.desc + 128 * key

/-- The group that a message of an item carries. -/
def msgKey : LinkMsg → Option Nat
  | .putLine _ p => some p.key
  | .remote r => some r.key
  | _ => none

/-- The address of the first piece that an item has not sent, 0 for one that has begun none (R299). -/
def State.unsentAddr (s : State) (m : BitVec 3) (it : Item) : Nat :=
  if it.pieces = 0 && it.out.isEmpty then 0
  else
    match s.fab.relay.find? fun e => ownSrc e.2.2 && ofItem m it.id e.2.1 with
    | some e => farAddr it ((msgKey e.2.1).getD 0)
    | none => farAddr it (it.todo.headD 0)

/-- An item fails because it is held (R355): what it has not sent is taken back. -/
def State.failHeld (s : State) (m : BitVec 3) (it : Item) : State :=
  let a := s.unsentAddr m it
  let s := { s with fab := { s.fab with relay := s.fab.relay.filter fun e => !(ownSrc e.2.2 && ofItem m it.id e.2.1) } }
  (s.failItem m it.id 7 0 a false).onItem m it.id fun o => { o with out := [] }

/-- Flits of an item's group (R310, R354), and how many flits it has in the hub's buffer. -/
def Item.groupFlits (it : Item) : Nat := if it.major = majPut then 2 else 1
def State.flitsWaiting (s : State) (m : BitVec 3) (it : Item) : Nat :=
  (s.fab.relay.filter fun e => ownSrc e.2.2 && ofItem m it.id e.2.1).length

/-- Every item: those of the contexts on their coaches, and those that husks hold. -/
def State.everyItem (s : State) : List Item :=
  (s.coaches.toList ++ s.hub.husks.flatMap fun h => h.saved).flatMap fun k => k.sq.items

/-- Flits of a port's send buffer that items have taken, those in husks among them (R355). -/
def State.flitsTaken (s : State) (p : BitVec 3) : Nat :=
  (s.everyItem.map fun it => match it.allow with
    | some a => if a.1 = p then a.2 else 0
    | none => 0).sum

/-- Whether a remote item may send a group now: it takes its allowance of up to 16 flits of the 1,024 of its port's send buffer
before its first, and has no more than that many flits waiting (R355). -/
def State.allowance (s : State) (m : BitVec 3) (it : Item) : Bool × State :=
  match s.farTarget it, it.allow with
  | none, _ => (true, s)
  | some _, some a => (decide (s.flitsWaiting m it + it.groupFlits ≤ a.2), s)
  | some (pkg, short), none =>
    match s.portFor pkg short with
    | none => (false, s)
    | some p =>
      let n := min 16 (it.groupFlits * it.todo.length)
      if s.flitsTaken p + n ≤ 1024 then (true, s.onItem m it.id fun o => { o with allow := some (p, n) }) else (false, s)

/-- Examine a remote item: held when it has a piece that can use no port, sent again when one serves it. -/
def State.examine (s : State) (m : BitVec 3) (it : Item) : State :=
  match s.farTarget it with
  | none => s
  | some (pkg, short) =>
    if !s.hasUnsent m it then
      (if it.phase = .holding then s.onItem m it.id fun o => { o with phase := .running } else s)
    else if (s.portFor pkg short).isSome then
      (if it.phase = .holding then s.onItem m it.id fun o => { o with phase := .running } else s)
    else if !(s.fab.route pkg).getLsbD 0 then s.failHeld m it
    else if it.phase = .holding then s
    else
      let s := s.onItem m it.id fun o => { o with phase := .holding, stamp := s.now }
      s.timer (s.now + s.fab.hto.toNat * Config.usTicks) m (.holdTimeout m it.id s.now)

/-- HOLD_TIMEOUT (R355): an item held since `stamp` fails, and event kind 6 is posted. -/
def execHoldTimeout (c : BitVec 3) (id stamp : Nat) (s : State) : Host.Outcome State Fault Refusal :=
  match s.item c id with
  | none => .next s
  | some it =>
    if it.phase = .holding && it.stamp = stamp then
      let port := match s.farTarget it with
        | some (pkg, _) => ((List.range 8).find? fun p => (s.fab.route pkg).getLsbD (1 + p)).getD 0
        | none => 0
      .next ((s.failHeld c it).fabEvent 6 port 0 0 0)
    else .next s

/-! ### One item, for one ic -/

/-- Park an item (R337): of a copy's run that has not been sent, the lines read so far are read again. -/
def State.park (s : State) (m : BitVec 3) (it : Item) : State :=
  s.onItem m it.id fun o => { o with parked := true, aux := if o.major = majDcopy && o.sub ≠ subTile then [] else o.aux }

/-- Whether the context's items begin no further piece. -/
def Seq.stopping (q : Seq) : Bool := match q.phase with | .parking _ => true | _ => false

/-- Whether every earlier item of the context has posted. -/
def State.leads (s : State) (m : BitVec 3) (id : Nat) : Bool :=
  match (s.coach m).sq.items with
  | it :: _ => it.id = id
  | [] => true

/-- An RSOLVE, whose piece is the whole item (R320), and one that has begun it. -/
def Item.solves (it : Item) : Bool := it.sub ≠ subTile && it.major = majRsolve
def Item.solving (it : Item) : Bool := it.solves && decide (it.todo.length < (wfld (dword it.desc 0) 50 13 + 127) / 128)

/-- Whether an item's start waits for every earlier item (R143, R144, R145, R148, R151); an RSOLVE's release holds its post only
(R248). -/
def Item.waits (it : Item) : Bool :=
  it.sub ≠ subTile && (it.acq || (it.rel && !it.solves) || it.major = majFence || it.major = majFenceSc || it.major = majVsync)

/-- Whether some fixed-latency result of a bundle before `seq` has still to be written on a context (R148, step 1); what items
write is no such result. -/
def State.undrained (s : State) (m : BitVec 3) (seq : Nat) (hnd : Bool) : Bool :=
  ((s.members m).any fun c =>
    let e := (s.coach c).en
    (e.inflight.any fun r => !r.tile && r.seq < seq) || (e.skew.any fun o => o.frame.seq < seq) || (e.loader.any fun l => l.seq < seq) ||
      (e.switches.any fun w => w.item.isNone && w.seq < seq) || e.hitch.any fun l => l.seq < seq) ||
  match (s.coach m).sq.held with
  | some h => !hnd && ((h.queue.any fun p => p.2.seq < seq) || (h.skew.any fun o => o.frame.seq < seq) ||
      (h.loader.any fun p => p.2.seq < seq) || (h.switches.any fun p => p.2.seq < seq) || h.hitch.any fun p => p.2.seq < seq)
  | none => false

/-- The first part of a release (R143): view writes of the earlier items merge. -/
def State.relFirst (s : State) (m : BitVec 3) (it : Item) : State :=
  let ctx := s.ctxOf m
  let s := if it.rel && 4 ≤ it.scope.toNat && !it.relDone then s.mergeViews fun w => w.launch = none && w.ctx = ctx && w.item / 8 < it.id else s
  s.onItem m it.id fun o => { o with relDone := true }

/-- An acquire, by which view read buffers are emptied, and the first part of a release (R143, R144), which an RSOLVE performs before
its post (R248). -/
def State.beginOrder (s : State) (m : BitVec 3) (it : Item) : State :=
  let s := if it.acq && 4 ≤ it.scope.toNat && !it.acqDone then s.emptyViews (s.ctxOf m) else s
  let s := if it.solves then s else s.relFirst m it
  s.onItem m it.id fun o => { o with acqDone := true, phase := .running }

/-- Whether a package beat begins at this moment, or a pod beat is taken at it (R148, step 2). -/
def State.beatNow (s : State) (scope : BitVec 4) : Bool :=
  let begun := decide (s.now < s.lastPackageBeat + Config.icTicks) &&
    s.timers.any fun t => decide (t.1 = s.lastPackageBeat + 576) && decide (t.2.2 = .packageBeat)
  begun && (scope.toNat ≤ 4 || decide (s.fab.lastBeat = s.lastPackageBeat && s.lastPackageBeat ≠ 0))

/-- An item that performs no piece (R145, R148, R151): what it does once it leads. -/
def State.serveFence (s : State) (m : BitVec 3) (it : Item) : State :=
  let ctx := s.ctxOf m
  if it.major = majFence then
    let s := if 4 ≤ it.scope.toNat then s.mergeViews fun w => w.launch = none && w.ctx = ctx && w.item / 8 < it.id else s
    s.onItem m it.id fun o => { o with phase := .done, pieces := 1 }
  else if it.major = majVsync then
    let s := (s.mergeViews fun w => w.launch = none && w.ctx = ctx && w.item / 8 < it.id).emptyViews ctx
    s.onItem m it.id fun o => { o with phase := .done, pieces := 1 }
  else if s.undrained m ((it.aux.headD 0).toNat) it.hnd then s
  else
    let s := if 4 ≤ it.scope.toNat then s.mergeViews fun w => w.launch = none && w.ctx = ctx && w.item / 8 < it.id else s
    let s := s.onItem m it.id fun o => { o with phase := .drained s.now }
    if s.beatNow it.scope then s.soon m (.fenceScTick m it.id) else s

/-- The second part of a release (R143), and for an RSOLVE the first. -/
def State.endOrder (s : State) (m : BitVec 3) (it : Item) : State :=
  let s := if it.solves then s.relFirst m it else s
  if it.rel && 4 ≤ it.scope.toNat then s.mergeViews fun w => w.item = viewItem m it.id else s

/-- The post of an item (R139): it reaches the master after the crossing of the gang (log 20). -/
def State.bringPost (s : State) (m : BitVec 3) (it : Item) : State :=
  if it.coach = m then s.soon m (.itemPost m it.id)
  else
    let (d, s) := s.choose 2
    if d = 0 then s.soon m (.itemPost m it.id) else s

/-- Whether the solver of a coach may accept an item in this ic: 16 ics after its last acceptance (R248). -/
def State.solverFree (s : State) (c : BitVec 3) : Bool :=
  match (s.coach c).en.solverAt with
  | some a => decide (a + 16 ≤ (s.coach c).ic)
  | none => true

/-- One ic of an item: what it waits for, a freely chosen ready group, or its end (R139, R297, R337). -/
def State.serveItem (s : State) (m : BitVec 3) (id : Nat) : State :=
  match s.item m id with
  | none => s
  | some it =>
    if it.parked then s
    else
      let stop := (s.coach m).sq.stopping
      match it.phase with
      | .waiting =>
        if stop then s.park m it
        else if it.waits && !s.leads m id then s
        else if it.sub ≠ subTile && (it.major = majFence || it.major = majFenceSc || it.major = majVsync) then s.serveFence m it
        else s.beginOrder m it
      | .running =>
        if it.sub = subTile then s
        else
          let s := s.examine m it
          match s.item m id with
          | none => s
          | some it =>
            if it.phase ≠ .running then s
            else if it.todo.isEmpty && it.out.isEmpty then
              (if it.solves && !it.begun then (if s.solverFree it.coach then s.soon m (.rsolveAccept m id) else s)
              else if it.solves && it.rel && !s.leads m id then (if stop then s.park m it else s)
              else
                let s := s.endOrder m it
                let s := s.onItem m id fun o => { o with phase := .done }
                s.bringPost m it)
            else if stop && !it.solving then (if it.out.isEmpty then s.park m it else s)
            else
              let ready := it.todo.filter (s.groupReady m it)
              let (k, s) := s.choose (ready.length + 1)
              match ready[k]? with
              | some key =>
                let (ok, s) := s.allowance m it
                if ok then s.perform m it key else s
              | none => s
      | .holding => if stop && it.out.isEmpty then s.park m it else s.examine m it
      | .closing => s.onItem m id fun o => { o with phase := .done }
      | .fault => s
      | .drained _ => s
      | .failed => if it.out.isEmpty then (s.endOrder m it).bringPost m it else s
      | .done => s.bringPost m it

/-- One ic of a context's items. A list read of an RSOLVE comes before the reads of the others (R248); which of those comes first at
a read port is free (R17, log 6). -/
def State.service (s : State) (m : BitVec 3) : State :=
  let items := (s.coach m).sq.items
  let first := items.filter Item.solves
  let rest := items.filter fun it => !it.solves
  let (n, s) := if rest.length < 2 then (0, s) else s.choose rest.length
  ((first ++ rest.drop n ++ rest.take n).map (·.id)).foldl (fun s id => s.serveItem m id) s

/-! ### The post (R139, R179, R299) -/

/-- First byte of a token's status slot (R299). -/
def statusSlot (t : BitVec 6) : Nat := 0x3F800 + 32 * t.toNat

/-- The first 20 bytes of a failing item's status slot, FAILS aside (R299). -/
def statusWord (it : Item) (fl fails : Nat) : Nat :=
  it.status.toNat + (if it.lasting then 256 else 0) + (if it.wrote then 512 else 0) + fl * 1024 + it.major.toNat * 2 ^ 16 +
    it.member.toNat * 2 ^ 22 + it.subc.toNat * 2 ^ 24 + fails * 2 ^ 32 + it.addr.toNat * 2 ^ 64 + it.pieces % 2 ^ 32 * 2 ^ 128

/-- A store that lands in this ic loses to the item's write of `len` bytes of a status slot (R299). -/
def shieldSlot (ic a len : Nat) (ss : Store 8) (r : Result) : Result :=
  match r.dest with
  | .ss off n v =>
    if r.due = ic + 1 && off < a + len && a < off + n then
      { r with dest := .ss off n (BitVec.ofNat 64 (((List.range n).map fun i =>
          (if a ≤ off + i && off + i < a + len then (peek ss (off + i)).toNat else v.toNat / 256 ^ i % 256) * 256 ^ i).sum)) }
    else r
  | _ => r

/-- Write bytes of a status slot. -/
def State.putStatus (s : State) (m : BitVec 3) (a n v : Nat) : State :=
  s.onCoach m fun k =>
    let ss := pokeBytes k.sq.ss a n v
    { k with sq := { k.sq with ss := ss }, en := { k.en with inflight := k.en.inflight.map (shieldSlot k.ic a n ss) } }

/-- Condition bit that a strict HGATH or RSOLVE sets (R312, R248). -/
def Item.strictBit (it : Item) : BitVec 4 :=
  if it.major = majHgath then BitVec.ofNat 4 (wfld (dword it.desc 3) 32 4) else BitVec.ofNat 4 (wfld (dword it.desc 1) 25 4)

/-- ITEM_POST (R139, R297, R299): the status slot, the condition bit of a strict HGATH, the post, the trap of a failed
PROBE, and the limit of 16 µs for the item's view writes (R149). -/
def execItemPost (c : BitVec 3) (id : Nat) (s : State) : Outcome :=
  match s.item c id with
  | none => .next s
  | some it =>
    let a := statusSlot it.tok
    let old := peekBytes (s.coach c).sq.ss a 8
    let failed : Bool := it.status ≠ 0
    let fl := old / 1024 % 64 ||| it.flags.toNat
    let s := if failed then s.putStatus c a 32 (statusWord it fl ((old / 2 ^ 32 + 1) % 2 ^ 32))
      else if it.flags ≠ 0 then s.putStatus c (a + 1) 1 (fl * 4 + old / 256 % 4)
      else s
    let s := if it.oob && it.major = majHgath && it.sub ≠ subTile then s.onSq c fun q => cwrite q it.strictBit true else s
    let s := s.tokPost c (.add it.tok 1 failed)
    let s := if it.sub ≠ subTile && it.major = majCload then
        s.onCoach c fun k => { k with unit := k.unit.map fun u => { u with cload := true } }
      else s
    let s := if s.viewLog.any (fun w => w.item = viewItem c id && w.merged = none) then
        s.timer (s.now + 144000) c (.viewMergeTimeout (viewItem c id))
      else s
    let s := s.onSq c fun q => { q with items := q.items.filter fun o => o.id ≠ id }
    .next (if failed && it.major = majProbe && it.sub ≠ subTile then
        s.pend c { cause := 0x05, member := it.member, arg := BitVec.ofNat 64 (it.tok.toNat + it.subc.toNat * 64),
                   since := (s.coach c).ic, hnd := it.hnd }
      else s)

/-- FENCE_SC_TICK (R148): in the package domain the fence posts at its tick; in the pod domain at the next pod beat taken
after it (`begun` once it has its tick). -/
def execFenceScTick (c : BitVec 3) (id : Nat) (s : State) : Outcome :=
  match s.item c id with
  | none => .next s
  | some it =>
    match it.phase with
    | .drained _ =>
      if it.scope.toNat ≤ 4 || it.begun then
        .next (s.onItem c id fun o => { o with phase := .done, pieces := 1 })
      else .next (s.onItem c id fun o => { o with begun := true })
    | _ => .next s

/-- The fences of the package that a beat of a domain concerns. -/
def State.fencesDrained (s : State) (pod : Bool) : List (BitVec 3 × Nat) :=
  ((List.range 8).map (BitVec.ofNat 3)).flatMap fun c =>
    (s.coach c).sq.items.filterMap fun it => match it.phase with
      | .drained _ => if decide (4 < it.scope.toNat) = pod then some (c, it.id) else none
      | _ => none

/-! ### Acknowledgements and arrivals (R154, R310, R311) -/

/-- An outstanding group of an item, of `n` pieces, is acknowledged; `addr` is where it failed. A data error at the other end has
persisted through a second attempt (R300), and the die that detected it has counted it (R371). -/
def State.acked (s : State) (c : BitVec 3) (id key n : Nat) (status : BitVec 8) (addr : Nat) : State :=
  match s.item c id with
  | none => s
  | some it =>
    if !it.out.contains key then s
    else
      let s := s.onItem c id fun o => { o with out := o.out.erase key }
      if it.phase = .failed then s
      else if status = 0 then s.onItem c id fun o => { o with pieces := o.pieces + n, wrote := true }
      else s.failItem c id status.toNat 0 addr (decide (status = 8))

/-- PUT_ACKNOWLEDGEMENT (R154): the destination has written the line and set its full bit, or refused it. A refused line is named by
its source line, whose bank is on the item's side (R299; log 55). -/
def execPutAcknowledgement (c : BitVec 3) (id : Nat × Nat) (status : BitVec 8) (s : State) : Outcome :=
  let line := match s.item c id.1 with
    | some it => (wfld (dword it.desc 1) 6 14 + id.2) % 16384
    | none => 0
  .next (s.acked c id.1 id.2 1 status (64 * line))

/-- A run of a remote DCOPY is acknowledged (R154); an answer that was lost names no word, and the run's first stands for it (R299). -/
def State.ackedRun (s : State) (c : BitVec 3) (id key : Nat) (status : BitVec 8) (dva : BitVec 56) : State :=
  match s.item c id with
  | none => s
  | some it => s.acked c id key (remWords it.desc key) status (max (copyAddr 5 it.desc + 128 * key) dva.toNat)

/-- Acknowledge a PUT's line to its sender. -/
def State.answer (s : State) (p : PutLine) (status : BitVec 8) : State :=
  if p.spkg = s.fab.pkgid then s.soon p.scoach (.putAcknowledgement p.scoach (p.item, p.key) status)
  else s.enqueue true p.spkg 0 (.ack s.fab.pkgid p.scoach p.item p.key status 0)

/-- Acknowledge a run of a remote DCOPY to its sender; `a` is the DVA at which it failed. -/
def State.answerRun (s : State) (r : RemoteReq) (status : BitVec 8) (a : Nat) : State :=
  let dva := BitVec.ofNat 56 a
  if r.spkg = s.fab.pkgid then s.ackedRun r.scoach r.item r.key status dva
  else s.enqueue true r.spkg 0 (.ack s.fab.pkgid r.scoach r.item r.key status dva)

/-- Whether a coach accepts an arrival into a bank for a job (R311). -/
def State.accepts (s : State) (c : BitVec 3) (b : BitVec 6) (job : BitVec 8) : Bool :=
  match (s.coach c).unit with
  | some u => u.hasBank b && u.job = job
  | none => false

/-- PUT_ARRIVAL (R311): an accepted line waits for its bank's engine write port; a refused one writes nothing. -/
def execPutArrival (p : PutLine) (s : State) : Outcome :=
  .next <|
    if s.accepts p.coach p.bank p.job then
      let port : Nat := if p.spkg = s.fab.pkgid then 20 else 19
      s.engWrite p.coach { bank := p.bank, line := p.line, mask := BitVec.allOnes 2048, v := p.data, port := port, full := true,
                           item := none, key := 0, n := 0, put := some p, early := 0 }
    else s.answer p 5

/-- The data of a remote read come back to an item (R302): they wait for the bank's engine write port. -/
def State.dataBack (s : State) (c : BitVec 3) (id key : Nat) (data : List Lane) : State :=
  match s.item c id with
  | none => s
  | some it =>
    if it.out.contains key then
      let s := s.onItem c id fun o => { o with out := o.out.erase key }
      s.engWords c it (bankOf it.desc) (bankStart it.desc + 32 * key) (data.map fun v => (v, 18)) (fun _ => 13) key data.length
    else s

/-- The answer to a remote request, to its own package or another; it goes in short flits when the whole copy moves at most 192
bytes (R354). -/
def State.reply (s : State) (r : RemoteReq) (data : List Lane) : State :=
  if r.spkg = s.fab.pkgid then s.dataBack r.scoach r.item r.key data
  else s.enqueue r.short r.spkg (dvaLane r.dva.toNat) (.reply s.fab.pkgid r.scoach r.item r.key data)

/-- The places of a peer's access with their DVAs, or what stops the first word that cannot be reached and its DVA (R113, R126): a
refused translation or a page under migration makes the peer unreachable, a page under expansion is waited for, and what the
place itself refuses fails with its own code (R117, R119, R361, R363). -/
def State.peerPlaces (s : State) (job : BitVec 8) (a : Nat) (write : Bool) : Nat → Except (Stop × Nat) (List (Place × Nat))
  | 0 => .ok []
  | n + 1 =>
    match s.hubPlace job a (!write) write with
    | .error _ => .error (.fail 7 0, a)
    | .ok (p, page) =>
      if s.hub.moving.any (·.page = page) then .error (.fail 7 0, a)
      else if s.hub.expanding.any (·.page = page) then .error (.wait, a)
      else match s.placeOk job p with
        | some e => .error (e, a)
        | none => match s.peerPlaces job (a + 4) write n with
          | .ok l => .ok ((p, a) :: l)
          | .error e => .error e

/-- Perform the accesses of a peer's places, twice where one meets an error (R300): the DVA of one whose error lasts, which fails the
peer's item and which the die that detects it counts, a stack here and the hub in `readOk` (R371). -/
def State.peerOk (s : State) (r : RemoteReq) (ps : List (Place × Nat)) : Option Nat × State :=
  let keys := fun (p : Place × Nat) => if r.write then s.putKeys r.job p.1 else s.placeKeys r.job p.1
  let t := (s.readOk (ps.map keys)).2
  match (ps.flatMap keys).find? s.lastingAt with
  | some (.hbm k) => ((ps.find? fun p => (keys p).any s.lastingAt).map (·.2), t.countLasting (.hbm k))
  | _ => ((ps.find? fun p => (keys p).any s.lastingAt).map (·.2), t)

/-- Whether a request of the same coach that comes before a peer's request, on one of its lanes, still waits here: the later one is
performed after it (R142). -/
def State.behindRun (s : State) (r : RemoteReq) : Bool :=
  let lanes := fun (o : RemoteReq) => [dvaLane o.dva.toNat, dvaLane (o.dva.toNat + 4 * o.words - 4)]
  s.runsWaiting.any fun o => o.spkg = r.spkg && o.scoach = r.scoach && decide (o.item < r.item) && (lanes o).any fun l => (lanes r).contains l

/-- REMOTE_DCOPY_REQUEST (R154, R308): a peer's piece, or one of this package's own, is translated through the job's page
tables and performed; a refused translation answers UNREACHABLE, no free page for an expansion NOMEM, lasting bad data DATA. Log 42. -/
def execRemoteDcopyRequest (r : RemoteReq) (s : State) : Outcome :=
  let again := fun (s : State) => s.timer (s.now + Config.icTicks) r.scoach (.remoteDcopyRequest r)
  .next <|
    if s.behindRun r then again s
    else match s.peerPlaces r.job r.dva.toNat r.write r.words with
    | .error (.wait, _) => again s
    | .error (.miss, a) => (s.countWalks r.job r.dva.toNat (4 * r.words)).answerRun r 7 a
    | .error (.fail c _, a) =>
      let s := s.countWalks r.job r.dva.toNat (4 * r.words)
      (if c = 8 then s.countError 16 4 else s).answerRun r (BitVec.ofNat 8 c) a
    | .ok ps =>
      match ps.find? fun p => match p.1 with | .tier t => (s.hub.compressedAt t).isSome | _ => false with
      | some (_, a) =>
        let (ok, s) := s.beginExpansion r.job a
        if ok then again s else s.answerRun r 6 a
      | none =>
        match (s.countWalks r.job r.dva.toNat (4 * r.words)).peerOk r ps with
        | (some a, s) => s.answerRun r 8 a
        | (none, s) =>
          if r.write then
            let s := (ps.zip r.data).foldl (fun (s : State) (e : (Place × Nat) × Lane) =>
              s.writeWord .hub r.job e.1.1 (BitVec.allOnes 32) e.2) s
            s.answerRun r 0 0
          else s.reply r (ps.map fun p => s.readWord .hub r.job p.1 0)

/-! ### RSOLVE (R248) -/

/-- RSOLVE_ACCEPT (R248): the solver takes the template's control line as it stands and returns the solve 96 ics later; one item
in 16 ics, the others wait. -/
def execRsolveAccept (c : BitVec 3) (id : Nat) (s : State) : Outcome :=
  match s.item c id with
  | none => .next s
  | some it =>
    let e := (s.coach it.coach).en
    let ic := (s.coach it.coach).ic
    let (img, oob) := solveImage e it s.draw
    let sw : RouteSwitch :=
      { due := ic + 96, seq := 0, write := it.sub.getLsbD 2, route := BitVec.ofNat 9 (wfld (dword it.desc 0) 0 9), img := img,
        item := some (8 * id + c.toNat), cb := it.strictBit, oob := oob }
    if s.solverFree it.coach then
      let s := ({ s with draw := s.draw + solveDraws }).onEn it.coach fun e => { e with switches := e.switches ++ [sw], solverAt := some ic }
      .next (s.onItem c id fun o => { o with begun := true, out := [0], wrote := true })
    else .next s

/-- The entry that an accepted item's solve gives switches (R248); the item, where its context still has it, is performed. Log 38. -/
def State.solverSwitch (s : State) (c : BitVec 3) (id : Nat) : State :=
  let find := fun (d : BitVec 3) => (s.coach d).en.switches.find? fun w => w.item = some (8 * id + c.toNat) && w.due ≤ (s.coach d).ic
  match ((List.range 8).map (BitVec.ofNat 3)).find? fun d => (find d).isSome with
  | none => s
  | some d =>
    match find d with
    | none => s
    | some w =>
      let s := s.onEn d fun e =>
        let e := e.setRoute w.write w.route w.img
        { e with switches := e.switches.filter fun o => o.item ≠ w.item }
      match s.item c id with
      | none => s
      | some _ =>
        let s := s.onItem c id fun o => { o with out := [], pieces := 1, oob := w.oob }
        if w.oob then s.onSq c fun q => cwrite q w.cb true else s

/-- RSOLVE_SWITCH (R248): the entry switches for routes of this ic on, the item's piece is done, and a strict solve that
met an index out of range sets its condition bit. The event's coach is the master, its number the item's. Log 38. -/
def execRsolveSwitch (c : BitVec 3) (id : Nat) (s : State) : Outcome := .next (s.solverSwitch c id)

end Sys2Proof.Machine
end

