-- ==== Sys2Proof/Machine/Async.lean ====
section
/-! DEFINITION. The AX operations (spec/21_async.md R295 to R320, spec/15_network_memslot.md R245, R246). Each command
reads its descriptor at its execution ic and issues its item. -/

namespace Sys2Proof.Machine

open Sys2Proof

/-- The descriptor of a command: `n` words of the master's scalar store (R296). -/
def State.desc (s : State) (d : BitVec 5) (n : Nat) : List Word := descWords s.msq.ss (descBase (s.xr d)) n

/-- The physical token that a name designates in this ic (R178). -/
def State.tokHere (s : State) (t : BitVec 4) : BitVec 6 := tokName s.msq t

/-- Issue an item of the executing coach with a descriptor, its failed checks and its groups (R297). -/
def State.issue (s : State) (major : BitVec 6) (sub : BitVec 11) (t : BitVec 4) (a r : BitVec 1) (sc : BitVec 4) (desc : List Word)
    (codes : List Nat) (todo : List Nat) (aux : List Word) : State :=
  s.issueItem s.cur.master s.cur.coach major sub (s.tokHere t) (a = 1) (r = 1) sc desc codes todo aux [s.cur.coach]

/-- DCOPY (R303 to R309). -/
def dcopy (form : Nat) (d : BitVec 5) (t : BitVec 4) (a r : BitVec 1) (sc : BitVec 4) (i : BitVec 2) (s : State) : State :=
  let w := s.desc d 8
  let k := s.coach s.cur.coach
  let g := s.hub.viewEntry (s.jobOf s.cur.master) (wfld (dword w 0) 0 8)
  let codes := if form = 4 then checkView k g w else if form ≤ 3 then checkCopy k form i.toNat w else checkFar s k form w
  let todo := if codes.isEmpty then copyGroups g form i.toNat w else []
  s.issue majDcopy (BitVec.ofNat 11 (form + 8 * i.toNat)) t a r sc w codes todo []

/-- DCOPY of form lin (R305). -/
def execDcopyLin (d : BitVec 5) (t : BitVec 4) (a r : BitVec 1) (sc : BitVec 4) (i : BitVec 2) (s : State) : Outcome :=
  .next (dcopy 0 d t a r sc i s)
/-- DCOPY of form str (R305). -/
def execDcopyStr (d : BitVec 5) (t : BitVec 4) (a r : BitVec 1) (sc : BitVec 4) (i : BitVec 2) (s : State) : Outcome :=
  .next (dcopy 1 d t a r sc i s)
/-- DCOPY of form nest (R305). -/
def execDcopyNest (d : BitVec 5) (t : BitVec 4) (a r : BitVec 1) (sc : BitVec 4) (i : BitVec 2) (s : State) : Outcome :=
  .next (dcopy 2 d t a r sc i s)
/-- DCOPY of form pad (R306). -/
def execDcopyPad (d : BitVec 5) (t : BitVec 4) (a r : BitVec 1) (sc : BitVec 4) (i : BitVec 2) (s : State) : Outcome :=
  .next (dcopy 3 d t a r sc i s)
/-- DCOPY of form view (R307). -/
def execDcopyView (d : BitVec 5) (t : BitVec 4) (a r : BitVec 1) (sc : BitVec 4) (i : BitVec 2) (s : State) : Outcome :=
  .next (dcopy 4 d t a r sc i s)
/-- DCOPY of form rem (R308). -/
def execDcopyRem (d : BitVec 5) (t : BitVec 4) (a r : BitVec 1) (sc : BitVec 4) (i : BitVec 2) (s : State) : Outcome :=
  .next (dcopy 5 d t a r sc i s)
/-- DCOPY of form host (R308). -/
def execDcopyHost (d : BitVec 5) (t : BitVec 4) (a r : BitVec 1) (sc : BitVec 4) (i : BitVec 2) (s : State) : Outcome :=
  .next (dcopy 6 d t a r sc i s)

/-- PUT (R310): one group a line. -/
def execPut (d : BitVec 5) (t : BitVec 4) (a r : BitVec 1) (sc : BitVec 4) (s : State) : Outcome :=
  let w := s.desc d 2
  let codes := checkPut s (s.coach s.cur.coach) w
  .next (s.issue majPut 0 t a r sc w codes (if codes.isEmpty then List.range (wfld (dword w 1) 20 15) else []) [])

/-- HGATH (R312): one group a row, behind the line of the index list that names it (4,096 + line). -/
def execHgath (d : BitVec 5) (t : BitVec 4) (a r : BitVec 1) (sc : BitVec 4) (i : BitVec 2) (s : State) : Outcome :=
  let w := s.desc d 5
  let codes := checkGather (s.coach s.cur.coach) w
  let n := gatherCount w
  let lines := (n + 63) / 64
  let todo := if codes.isEmpty then (List.range lines).map (4096 + ·) ++ List.range n else []
  .next (s.issue majHgath (i.zeroExtend 11) t a r sc w codes todo (List.replicate (64 * lines) 0))

/-- HRED (R313): one group a word of the result. -/
def hred (op : Nat) (d : BitVec 5) (t : BitVec 4) (a r : BitVec 1) (sc : BitVec 4) (u : BitVec 3) (f : BitVec 4) (s : State) : State :=
  let w := s.desc d 4
  let codes := checkReduce f.toNat w
  let todo := if codes.isEmpty then List.range (wfld (dword w 2) 0 32 * fmtWidth f.toNat / 32) else []
  s.issue majHred (BitVec.ofNat 11 (op + 4 * f.toNat + 64 * u.toNat)) t a r sc w codes todo []

/-- HRED, sum (R313). -/
def execHredSum (d : BitVec 5) (t : BitVec 4) (a r : BitVec 1) (sc : BitVec 4) (u : BitVec 3) (f : BitVec 4) (s : State) : Outcome :=
  .next (hred 0 d t a r sc u f s)
/-- HRED, max (R313). -/
def execHredMax (d : BitVec 5) (t : BitVec 4) (a r : BitVec 1) (sc : BitVec 4) (u : BitVec 3) (f : BitVec 4) (s : State) : Outcome :=
  .next (hred 1 d t a r sc u f s)
/-- HRED, min (R313). -/
def execHredMin (d : BitVec 5) (t : BitVec 4) (a r : BitVec 1) (sc : BitVec 4) (u : BitVec 3) (f : BitVec 4) (s : State) : Outcome :=
  .next (hred 2 d t a r sc u f s)

/-- HCVT (R314): one group a block of 32 elements with MX scales, else a word of the result. -/
def execHcvt (d : BitVec 5) (t : BitVec 4) (a r : BitVec 1) (sc : BitVec 4) (s : State) : Outcome :=
  let w := s.desc d 4
  let codes := checkConvert w ++ s.checkScales s.cur.master s.cur.coach w
  let w2 := dword w 2
  let n := wfld w2 0 32
  let todo :=
    if !codes.isEmpty then []
    else if wfld w2 44 1 = 1 then List.range (n / 32)
    else List.range (n * memStep (wfld w2 32 4) (wfld w2 45 1 = 1) / 32)
  .next (s.issue majHcvt 0 t a r sc w codes todo [])

/-- HATOM (R315): `op` is SUB[3:0] of R205. -/
def hatom (op : Nat) (wide : Bool) (d : BitVec 5) (t : BitVec 4) (a r : BitVec 1) (sc : BitVec 4) (s : State) : State :=
  let w := s.desc d 4
  let codes := checkAtom wide w ++ s.checkAtomKind s.cur.master s.cur.coach w
  s.issue majHatom (BitVec.ofNat 11 op) t a r sc w codes [0] []

/-- HATOM, add on 32 or 64 bits (R315). -/
def execHatomAdd (d : BitVec 5) (t : BitVec 4) (a r : BitVec 1) (sc : BitVec 4) (w : BitVec 1) (s : State) : Outcome :=
  .next (hatom (0 + w.toNat) (w = 1) d t a r sc s)
/-- HATOM, max on 32 or 64 bits (R315). -/
def execHatomMax (d : BitVec 5) (t : BitVec 4) (a r : BitVec 1) (sc : BitVec 4) (w : BitVec 1) (s : State) : Outcome :=
  .next (hatom (2 + w.toNat) (w = 1) d t a r sc s)
/-- HATOM, min on 32 or 64 bits (R315). -/
def execHatomMin (d : BitVec 5) (t : BitVec 4) (a r : BitVec 1) (sc : BitVec 4) (w : BitVec 1) (s : State) : Outcome :=
  .next (hatom (4 + w.toNat) (w = 1) d t a r sc s)
/-- HATOM, xchg on 32 or 64 bits (R315). -/
def execHatomXchg (d : BitVec 5) (t : BitVec 4) (a r : BitVec 1) (sc : BitVec 4) (w : BitVec 1) (s : State) : Outcome :=
  .next (hatom (6 + w.toNat) (w = 1) d t a r sc s)
/-- HATOM, cas on 32 or 64 bits (R315). -/
def execHatomCas (d : BitVec 5) (t : BitVec 4) (a r : BitVec 1) (sc : BitVec 4) (w : BitVec 1) (s : State) : Outcome :=
  .next (hatom (8 + w.toNat) (w = 1) d t a r sc s)
/-- HATOM, add on FP32 (R315). -/
def execHatomAddFp32 (d : BitVec 5) (t : BitVec 4) (a r : BitVec 1) (sc : BitVec 4) (s : State) : Outcome :=
  .next (hatom 10 false d t a r sc s)
/-- HATOM, max on FP32 (R315). -/
def execHatomMaxFp32 (d : BitVec 5) (t : BitVec 4) (a r : BitVec 1) (sc : BitVec 4) (s : State) : Outcome :=
  .next (hatom 11 false d t a r sc s)
/-- HATOM, min on FP32 (R315). -/
def execHatomMinFp32 (d : BitVec 5) (t : BitVec 4) (a r : BitVec 1) (sc : BitVec 4) (s : State) : Outcome :=
  .next (hatom 12 false d t a r sc s)

/-- The members that a PROBE pins into: those its bundle's binding named at issue, carried by the frame, or those bound
now (R295). -/
def State.probeTargets (s : State) : List (BitVec 3) :=
  if s.cur.sb.isEmpty then
    boundTo s s.cur.master (((s.msq.bindNow (s.coach s.cur.master).ic).1.extractLsb' 24 4).toNat)
  else s.cur.sb.map fun w => w.truncate 3

/-- PROBE (R110, R316): `aux` holds the address at which the walk stands. -/
def probe (form : Nat) (d : BitVec 5) (t : BitVec 4) (a r : BitVec 1) (sc : BitVec 4) (s : State) : State :=
  let w := s.desc d 2
  let codes := checkProbe w
  let todo := if wfld (dword w 1) 0 48 = 0 then [] else [0]
  s.issueItem s.cur.master s.cur.master majProbe (BitVec.ofNat 11 form) (s.tokHere t) (a = 1) (r = 1) sc w codes todo
    [BitVec.ofNat 64 (wfld (dword w 0) 0 56)] s.probeTargets

/-- PROBE of form unpin (R316). -/
def execProbeUnpin (d : BitVec 5) (t : BitVec 4) (a r : BitVec 1) (sc : BitVec 4) (s : State) : Outcome := .next (probe 0 d t a r sc s)
/-- PROBE of form r (R316). -/
def execProbeR (d : BitVec 5) (t : BitVec 4) (a r : BitVec 1) (sc : BitVec 4) (s : State) : Outcome := .next (probe 1 d t a r sc s)
/-- PROBE of form w (R316). -/
def execProbeW (d : BitVec 5) (t : BitVec 4) (a r : BitVec 1) (sc : BitVec 4) (s : State) : Outcome := .next (probe 2 d t a r sc s)
/-- PROBE of form rw (R316). -/
def execProbeRw (d : BitVec 5) (t : BitVec 4) (a r : BitVec 1) (sc : BitVec 4) (s : State) : Outcome := .next (probe 3 d t a r sc s)

/-- FENCE (R145, R317). -/
def execFence (t sc : BitVec 4) (s : State) : Outcome := .next (s.issue majFence 0 t 0 0 sc [] [] [] [])
/-- FENCE.SC (R148, R317): `aux` holds the order of its bundle. -/
def execFenceSc (t sc : BitVec 4) (s : State) : Outcome :=
  .next (s.issue majFenceSc 0 t 0 0 sc [] [] [] [BitVec.ofNat 64 s.cur.seq])
/-- VSYNC (R151, R317). -/
def execVsync (t : BitVec 4) (s : State) : Outcome := .next (s.issue majVsync 0 t 0 0 0 [] [] [] [])

/-- TADV (R318). -/
def execTadv (d : BitVec 5) (t : BitVec 4) (s : State) : Outcome :=
  .next (s.tokPost s.cur.master (.add (s.tokHere t) ((s.xr d).truncate 24) false))
/-- TSET, set (R318). -/
def execTsetSet (d : BitVec 5) (t : BitVec 4) (s : State) : Outcome :=
  .next (s.tokPost s.cur.master (.set (s.tokHere t) (some ((s.xr d).truncate 24)) false))
/-- TSET, set with error (R318). -/
def execTsetSeterr (d : BitVec 5) (t : BitVec 4) (s : State) : Outcome :=
  .next (s.tokPost s.cur.master (.set (s.tokHere t) (some ((s.xr d).truncate 24)) true))
/-- TSET, clear error (R318): XD is ignored. -/
def execTsetClrerr (_d : BitVec 5) (t : BitVec 4) (s : State) : Outcome :=
  .next (s.tokPost s.cur.master (.set (s.tokHere t) none false))

/-- ENQ (R319): the record is read with the descriptor. -/
def execEnq (d : BitVec 5) (t : BitVec 4) (a r : BitVec 1) (sc : BitVec 4) (s : State) : Outcome :=
  let w := s.desc d 2
  .next (s.issue majEnq 0 t a r sc w (checkEnq w) [0] (descWords s.msq.ss (wfld (dword w 0) 0 18 / 8 * 8) 16))

/-- CLOAD (R320): one group a bundle. -/
def execCload (d : BitVec 5) (t : BitVec 4) (a r : BitVec 1) (sc : BitVec 4) (s : State) : Outcome :=
  let w := s.desc d 2
  let codes := checkCload w
  .next (s.issue majCload 0 t a r sc w codes (if codes.isEmpty then List.range (wfld (dword w 1) 14 15) else []) [])

/-- RSOLVE (R245, R246): one group a line of the list, before the solver. -/
def execRsolve (d : BitVec 5) (t : BitVec 4) (a r : BitVec 1) (sc : BitVec 4) (k : BitVec 1) (mo : BitVec 2) (s : State) : Outcome :=
  let w := s.desc d 2
  let lim := match (s.coach s.cur.coach).unit with
    | some u => if k = 1 then u.rwr else u.rrd
    | none => 0
  let codes := checkSolve lim w
  let lines := (wfld (dword w 0) 50 13 + 127) / 128
  let todo := if codes.isEmpty then List.range lines else []
  .next (s.issue majRsolve (BitVec.ofNat 11 (mo.toNat + 4 * k.toNat)) t a r sc w codes todo (List.replicate (64 * lines) 0))

end Sys2Proof.Machine
end

