-- ==== Sys2Proof/Machine/Network.lean ====
section
/-! DEFINITION. The network syllable, the M0 and M1 operations and the route loader (spec/11_bundle.md R163 to R165,
spec/15_network_memslot.md R240 to R252). -/

namespace Sys2Proof.Machine

open Sys2Proof

/-! ### What a read meets: audit and uncorrectable errors (R183, R321) -/

/-- A skewed slot's early read of a line under audit makes cause 0x04 pending (R183). -/
def State.auditLine (s : State) (c : BitVec 3) (b : BitVec 6) (l : BitVec 14) : State :=
  if s.cur.audit && s.lineAwaited s.cur.master c b l then
    s.pend s.cur.master
      { cause := 0x04, member := s.memberOf c, arg := BitVec.ofNat 64 (b.toNat * 2 + l.toNat * 128), since := s.icNow, hnd := s.cur.hnd }
  else s

/-- Reading a line: the single-bit errors are counted; a lane with an uncorrectable error makes cause 0x07 pending on the master,
and each is counted (R18, R321, R322, R371). -/
def State.meetLine (s : State) (c : BitVec 3) (b : BitVec 6) (l : BitVec 14) (hnd : Bool) : State :=
  let bad := badLanes (s.coach c) b l
  let s := s.countErrors c.toNat 0 (laneCount (softLanes (s.coach c) b l))
  if bad = 0 then s
  else
    (s.countErrors c.toNat 2 (laneCount bad)).pend (s.masterOf c)
      { cause := 0x07, member := s.memberOf c,
        arg := BitVec.ofNat 64 (b.toNat + l.toNat * 64 + firstLane bad * 2 ^ 20), since := (s.coach c).ic, hnd := hnd }

/-- What a fixed-latency read of a line in this ic does besides delivering lanes. -/
def State.lineRead (s : State) (c : BitVec 3) (b : BitVec 6) (l : BitVec 14) : State :=
  (s.auditLine c b l).meetLine c b l s.cur.hnd

/-! ### Read routes (R241, R242) -/

/-- What a source port of the read network presents, by lane (R21, R23, R24): bank lines as read, drain ports, hitch
inputs, ZS and SB. -/
def readSourceLane (e : Engine) (lines : List (Nat × Line)) (pad : Lane) (sb : List Word) (src : Nat) : Lane :=
  let p := src / 64
  let l := src % 64
  if p < 48 then ((lines.find? fun x => x.1 = p).map fun x => laneOf x.2 l).getD 0
  else if p < 56 then laneOf (peek e.oport (p - 43)) l
  else if p < 60 then laneOf (peek e.oport (p - 35)) l
  else if p = 60 then pad
  else if p = 61 then sbLane sb l
  else 0

/-- Whether a source's lanes take the latency of a bank (R175); reserved sources present zero at either. -/
def slowSource (src : Nat) : Bool := src < 3072 || 3968 ≤ src

/-- The lanes of a destination port that a test of their sources admits: mask and values. -/
def portLanes (img : Nat → Line) (port : Nat) (f : Nat → Bool) (v : Nat → Lane) : Line × Line :=
  let en := enableBits img false port
  let srcs := (List.range 64).map fun l => if en.getLsbD l then some (readSource img (64 * port + l)) else none
  let m := srcs.map fun o => match o with | some x => (if f x then (0xFFFFFFFF : Lane) else 0) | none => 0
  let w := srcs.map fun o => match o with | some x => (if f x then v x else 0) | none => 0
  (BitVec.ofNat 2048 (lanesNat m), BitVec.ofNat 2048 (lanesNat w))

/-- The bank ports of an executing read route: bank, line, and the generator whose pad extent applies (R242). -/
def readPorts (k : Coach) (img : Nat → Line) : List (Nat × BitVec 14 × Option AddrGen) :=
  (List.range 48).filterMap fun b => (readPort k k.en.ovR img b).map fun p => (b, p.1, p.2)

/-- A line as a read route delivers it, with pad lanes under PADEN (R123, R237). -/
def padLine (padr : BitVec 29) (paden : Bool) (pad : Lane) (g : Option AddrGen) (v : Line) : Line :=
  match g with
  | some g => if paden then ofLanes fun l => if g.padLane padr l then pad else laneOf v l else v
  | none => v

/-- A read route of an N syllable executes: each line is read, and lanes set out to the destination ports (R241). `made`
marks lanes that an MTILE's route carries (R294). A line that an audited M0 operation reads through its port has been judged with
that operation (R183). -/
def State.readRoute (s : State) (c : BitVec 3) (r : BitVec 9) (padsrc : BitVec 4) (paden made : Bool) : State :=
  let k := s.coach c
  let q := (s.coach (s.masterOf c)).sq
  let img := k.en.routeLine false r
  let ports := readPorts (if made then { k with en := { k.en with ovR := none } } else k) img
  let pad := padWord q padsrc
  let sb := if s.cur.sb.isEmpty then (List.range 32).map (fun i => xread q (BitVec.ofNat 5 i)) else s.cur.sb
  let lines := ports.map fun p => (p.1, padLine q.padr paden pad p.2.2 (readLine k (BitVec.ofNat 6 p.1) p.2.1))
  let audited := fun (b : BitVec 6) => !made && k.en.ovR.any fun o => o.aud && o.bank = b
  let s := ports.foldl (fun s p =>
    let b := BitVec.ofNat 6 p.1
    if audited b then s.meetLine c b p.2.1 s.cur.hnd else s.lineRead c b p.2.1) s
  let v := readSourceLane k.en lines pad sb
  let put := fun (s : State) (lat port : Nat) (f : Nat → Bool) =>
    let w := portLanes img port f v
    if w.1 = 0 then s
    else
      let res : Result := { due := k.ic + lat, seq := s.cur.seq, syl := s.cur.slot.syl, flags := 0, again := false, tile := made,
                            dest := .rin (BitVec.ofNat 6 port) w.1 w.2 }
      s.onEn c fun e => { e with inflight := insertResult res e.inflight }
  (List.range 54).foldl (fun s p => put (put s 6 p slowSource) 4 p fun x => !slowSource x) s

/-! ### Write routes (R241, R242, R252) -/

/-- What a source port of the write network presents (R22 to R24). -/
def writeSourceLane (e : Engine) (src : Nat) : Lane :=
  let p := src / 64
  if p < 13 || (21 ≤ p && p < 25) then laneOf (peek e.oport p) (src % 64) else 0

/-- The lanes of a destination port of the write network: (source port, mask, values) of each source port that drives
some of them. -/
def writeLanes (e : Engine) (img : Nat → Line) (port : Nat) (keepL : BitVec 64) : List (Nat × Line × Line) :=
  let en := enableBits img true port &&& keepL
  let srcs := ((List.range 64).filter fun l => en.getLsbD l).map fun l => (l, writeSource img (64 * port + l))
  let ports := (srcs.map fun x => x.2 / 64).eraseDups
  ports.map fun p =>
    let mine := srcs.filter fun x => x.2 / 64 = p
    (p, ofLanes (fun l => if mine.any (fun x => x.1 = l) then 0xFFFFFFFF else 0),
      ofLanes fun l => ((mine.find? fun x => x.1 = l).map fun x => writeSourceLane e x.2).getD 0)

/-- A write route of an N syllable executes (R175, R241): bank lanes and hitch-out lanes land 3 ics later. -/
def State.writeRoute (s : State) (c : BitVec 3) (r : BitVec 9) : State :=
  let k := s.coach c
  let img := k.en.routeLine true r
  let s := (List.range 48).foldl (fun s b =>
    match writePort k k.en.ovW img b with
    | some (line, m) => (writeLanes k.en img b m).foldl (fun s w => s.result c 3 0 (.bank (BitVec.ofNat 6 b) line w.2.1 w.2.2 w.1)) s
    | none => s) s
  (List.range 4).foldl (fun s h =>
    (writeLanes k.en img (48 + h) (BitVec.allOnes 64)).foldl (fun s w => s.result c 3 0 (.ho (BitVec.ofNat 2 h) w.2.1 w.2.2)) s) s

/-- The steps that an MTILE's route of this ic gives the generators take effect, ahead of those of a bundle's write route (R165,
R292). -/
def Engine.tileSteps (e : Engine) (ic : Nat) : Engine :=
  let step := fun (r : Result) => match r.dest with | .ag _ (.step _) => r.due ≤ ic | _ => false
  let now := e.inflight.filter step
  { e with
    inflight := e.inflight.filter fun r => !step r,
    ag := now.foldl (fun a r => match r.dest with
      | .ag g p => vwr a g.toNat ((vrd a g.toNat .reset).setup p)
      | _ => a) e.ag }

/-- NETWORK_SYLLABLE (R163 to R165, R241): the read route and the write route execute, then the selected generators step. A
null route does nothing. -/
def execNetworkSyllable (r w : BitVec 9) (st wt : BitVec 3) (p : BitVec 4) (_a e : BitVec 1) (s : State) : Outcome :=
  let c := s.cur.coach
  let k := s.coach c
  let rg := if r = 0 then [] else selectedGens (k.en.routeLine false r) false
  let wg := if w = 0 then [] else selectedGens (k.en.routeLine true w) true
  let s := if r = 0 then s else s.readRoute c r p (e = 1) false
  let s := if w = 0 then s else s.writeRoute c w
  let ic := s.icNow
  .next (s.onEn c fun e => stepGens (stepGens (e.tileSteps ic) rg st) wg wt)

/-! ### M0 and M1 (R249 to R251) -/

/-- The read route that the N syllable executing on a coach in this ic names: it follows the M0 operation on the agenda. -/
def State.routeAhead (s : State) (c : BitVec 3) : BitVec 9 :=
  (s.agenda.findSome? fun t => match t with
    | .op fr (.networkSyllable r _ _ _ _ _ _) => if fr.coach = c then some r else none
    | _ => none).getD 0

/-- Line number in a register (R249). -/
def State.lineIn (s : State) (x : BitVec 5) : BitVec 14 := (s.xr x).truncate 14

/-- An M0 operation reads its line (R249): where its port takes part the route delivers it, and the operation's own audit judges
it (R183); where it does not, the read happens all the same. A line in a bank outside the reservation is not read. -/
def readBank (b : BitVec 6) (x : BitVec 5) (rdi : Bool) (s : State) : State :=
  let c := s.cur.coach
  let l := s.lineIn x
  let o : Override := { bank := b, line := l, rdi := rdi, mask := BitVec.allOnes 64, aud := s.cur.audit }
  let s := s.onEn c fun e => { e with ovR := some o }
  let k := s.coach c
  match readPort k (some o) (k.en.routeLine false (s.routeAhead c)) b.toNat with
  | some p => s.auditLine c b p.1
  | none => if k.hasBank b then s.lineRead c b l else s

/-- RD (R249): the line override of this ic's read route; the read happens also when the port takes no part. -/
def execRd (b : BitVec 6) (x : BitVec 5) (s : State) : Outcome := .next (readBank b x false s)
/-- RDC (R249, R251): as RD, and the full bit clears at the end of this ic. -/
def execRdc (b : BitVec 6) (x : BitVec 5) (s : State) : Outcome :=
  let l := s.lineIn x
  .next ((readBank b x false s).result s.cur.coach 0 0 (.clr b l))
/-- RDI (R249): the generator's line plus the register; as RD where the port takes no part. -/
def execRdi (b : BitVec 6) (x : BitVec 5) (s : State) : Outcome := .next (readBank b x true s)
/-- WAITF (R250): it holds its bundle's issue and does nothing at its execution. -/
def execWaitf (_b : BitVec 6) (_x _n : BitVec 5) (s : State) : Outcome := .next s

/-- Queue an operation of the route loader (R243). The M0 operations of an ic come before the M1 operations, so of an RLOAD and an
RSAVE that execute in one ic on one coach the loader serves the RLOAD first (log 70, DESIGN CHOICE). -/
def queueLoad (load : Bool) (r : BitVec 9) (k : BitVec 1) (b : BitVec 6) (x : BitVec 5) (s : State) : State :=
  let l := s.lineIn x
  let n := imgLines (k = 1)
  let s := if load then (List.range n).foldl (fun s i => s.auditLine s.cur.coach b (l + BitVec.ofNat 14 i)) s else s
  let o : LoadOp := { load := load, write := k = 1, route := r, bank := b, line := l, exec := s.icNow, start := none, i := 0,
                      img := [], seq := s.cur.seq }
  s.onEn s.cur.coach fun e => { e with loader := e.loader ++ [o] }

/-- RLOAD (R243). -/
def execRload (r : BitVec 9) (k : BitVec 1) (b : BitVec 6) (x : BitVec 5) (s : State) : Outcome := .next (queueLoad true r k b x s)
/-- RSAVE (R243). -/
def execRsave (r : BitVec 9) (k : BitVec 1) (b : BitVec 6) (x : BitVec 5) (s : State) : Outcome := .next (queueLoad false r k b x s)

/-- The line override of this ic's write route. -/
def writeOver (b : BitVec 6) (x : BitVec 5) (mask : BitVec 64) (s : State) : State :=
  let l := s.lineIn x
  s.onEn s.cur.coach fun e => { e with ovW := some { bank := b, line := l, rdi := false, mask := mask, aud := false } }

/-- WR (R249). -/
def execWr (b : BitVec 6) (x : BitVec 5) (s : State) : Outcome := .next (writeOver b x (BitVec.allOnes 64) s)
/-- WRM (R249). -/
def execWrm (b : BitVec 6) (x m : BitVec 5) (s : State) : Outcome := .next (writeOver b x (s.xr m) s)

/-- Lines in a range's count register (R250). -/
def rangeCount (v : Word) : Nat := min (v.truncate 15 : BitVec 15).toNat 16384

/-- WRF (R251): the full bits of the range are set at the end of ic t + 3. -/
def execWrf (b : BitVec 6) (x n : BitVec 5) (s : State) : Outcome :=
  .next (s.result s.cur.coach 3 0 (.full b (s.lineIn x) (rangeCount (s.xr n))))

/-! ### The route loader (R243, R244) -/

/-- One ic of the route loader of a coach: its first operation starts or moves one line; a load's last line sets the switch
for ic a + n + 2, and a save takes the entry as it stands in ic a. A load's line takes the bank's engine read port. -/
def State.loaderTurn (s : State) (c : BitVec 3) : State :=
  let k := s.coach c
  match k.en.loader with
  | [] => s
  | o :: rest =>
    let a := o.start.getD k.ic
    let n := imgLines o.write
    let l := o.line + BitVec.ofNat 14 o.i
    let img := if !o.load && o.i = 0 then k.en.routeImg o.write o.route else o.img
    let hnd := (s.coach (s.masterOf c)).sq.inh
    let s := if o.load then (s.meetLine c o.bank l hnd).onEn c fun e => { e with readIc := e.readIc ++ [o.bank] } else s
    let img := if o.load then img ++ [readLine k o.bank l] else img
    let done : Bool := decide (n ≤ o.i + 1)
    let s := s.onEn c fun e =>
      { e with loader := if done then rest else { o with start := some a, i := o.i + 1, img := img } :: rest }
    if o.load then
      (if done then
        let sw : RouteSwitch := { due := a + n + 2, seq := o.seq, write := o.write, route := o.route, img := img, item := none, cb := 0, oob := false }
        s.onEn c fun e => { e with switches := e.switches ++ [sw] }
      else s)
    else
      let res : Result := { due := k.ic + 3, seq := o.seq, syl := o.syl, flags := 0, again := false, tile := false,
                            dest := .bank o.bank l (BitVec.allOnes 2048) (img.getD o.i 0) rsavePort }
      s.onEn c fun e => { e with inflight := insertResult res e.inflight }

/-- The entries whose loads are due by an ic switch (R243, R244). -/
def Engine.loadSwitch (e : Engine) (ic : Nat) : Engine :=
  let due := e.switches.filter fun w => w.item = none && w.due ≤ ic
  let e := due.foldl (fun (e : Engine) w => e.setRoute w.write w.route w.img) e
  { e with switches := e.switches.filter fun w => !(w.item = none && w.due ≤ ic) }

/-- ROUTE_LOAD_SWITCH (R243, R244): the entries whose loads are due switch, for routes executing in this ic or later. -/
def execRouteLoadSwitch (s : State) : Outcome :=
  let ic := s.icNow
  .next (s.onEn s.cur.coach fun e => e.loadSwitch ic)

end Sys2Proof.Machine
end

