-- ==== Sys2Proof/Machine/Vector.lean ====
section
/-! DEFINITION. The vector slots (spec/17_vector_sf.md R254 to R269). An operation acts on the cluster of its slot. -/

namespace Sys2Proof.Machine

open Sys2Proof

/-- The cluster of the slot being executed. -/
def State.cl (s : State) : Cl := slotCl s.cur.slot

/-- A source of the executing slot, by lane. -/
def State.vlane (s : State) (r : BitVec 5) (l : Nat) : Lane := laneOf (vsrc s.cen s.cl r) l

/-- The random bits of element `j` of lane `l`: those of the lane's generator in mode RST (R93). -/
def State.vrand (s : State) (rm : BitVec 3) (l j : Nat) : Nat := if rm = 5 then laneRandom (rngOf s.cen s.cl l) j else 0

/-- A result of lanes computed one by one, over a set of lanes (R254). -/
def vecLanes (lat : Nat) (d : BitVec 5) (m : BitVec 64) (g : Nat → Nat × BitVec 6) (s : State) : State :=
  let r := lineElems m g
  s.resultV s.cl lat d (laneMask m) r.1 r.2

/-- An operation on the elements of two sources in one format, with rounding (R256). -/
def vecFloat (op : Nat → Nat → Nat → Nat → Nat → Nat × BitVec 6) (w : BitVec 2) (d a b : BitVec 5) (k rm f : BitVec 3) (s : State) :
    State :=
  let m := modified s.cen s.cl w k
  let n := fmtElems f.toNat
  let s' := vecLanes 4 d m (fun l => laneElems f.toNat n fun j =>
    op f.toNat rm.toNat (elemOf f.toNat (s.vlane a l) j) (elemOf f.toNat (s.vlane b l) j) (s.vrand rm l j)) s
  s'.stepRng s.cl rm m n

/-- An operation on the elements of two sources that rounds nothing, with its latency. -/
def vecElems (lat f : Nat) (op : Nat → Nat → Nat × BitVec 6) (w : BitVec 2) (d a b : BitVec 5) (k : BitVec 3) (s : State) : State :=
  vecLanes lat d (modified s.cen s.cl w k) (fun l => laneElems f (fmtElems f) fun j =>
    op (elemOf f (s.vlane a l) j) (elemOf f (s.vlane b l) j)) s

/-- VADD (R256). -/
def execVadd (w : BitVec 2) (d a b : BitVec 5) (k r f : BitVec 3) (s : State) : Outcome := .next (vecFloat fpAdd w d a b k r f s)
/-- VSUB (R256). -/
def execVsub (w : BitVec 2) (d a b : BitVec 5) (k r f : BitVec 3) (s : State) : Outcome := .next (vecFloat fpSub w d a b k r f s)
/-- VMUL (R256). -/
def execVmul (w : BitVec 2) (d a b : BitVec 5) (k r f : BitVec 3) (s : State) : Outcome := .next (vecFloat fpMul w d a b k r f s)
/-- VMAX (R256, R91). -/
def execVmax (w : BitVec 2) (d a b : BitVec 5) (k f : BitVec 3) (s : State) : Outcome :=
  .next (vecElems 4 f.toNat (fun x y => (fpMaxMin f.toNat true x y, 0)) w d a b k s)
/-- VMIN (R256, R91). -/
def execVmin (w : BitVec 2) (d a b : BitVec 5) (k f : BitVec 3) (s : State) : Outcome :=
  .next (vecElems 4 f.toNat (fun x y => (fpMaxMin f.toNat false x y, 0)) w d a b k s)

/-- The sign of an element set to a value; a NaN gives the canonical NaN (R256). -/
def withSign (f : Nat) (sg : Bool → Bool) (x : Nat) : Nat :=
  if (decodeNum f x).isNan then fpNan f
  else
    let b := 2 ^ (fpEb f + fpMan f)
    x % b + fpSign f (sg (x / b % 2 = 1))

/-- VABS (R256). -/
def execVabs (w : BitVec 2) (d a : BitVec 5) (k f : BitVec 3) (s : State) : Outcome :=
  .next (vecElems 2 f.toNat (fun x _ => (withSign f.toNat (fun _ => false) x, 0)) w d a a k s)
/-- VNEG (R256). -/
def execVneg (w : BitVec 2) (d a : BitVec 5) (k f : BitVec 3) (s : State) : Outcome :=
  .next (vecElems 2 f.toNat (fun x _ => (withSign f.toNat (fun n => !n) x, 0)) w d a a k s)

/-- A set of lanes given by a test. -/
def laneSet (f : Nat → Bool) : BitVec 64 := BitVec.ofNat 64 (((List.range 64).map fun l => if f l then 2 ^ l else 0).sum)

/-- A compare into a mask: a modified lane's bit is one when the relation holds for every element (R258, R261). -/
def vecCompare (f : Nat) (rel : Nat → Nat → Bool) (w : BitVec 2) (d : BitVec 3) (a b : BitVec 5) (k : BitVec 3) (s : State) : State :=
  let m := modified s.cen s.cl w k
  let v := laneSet fun l => (List.range (fmtElems f)).all fun j => rel (elemOf f (s.vlane a l) j) (elemOf f (s.vlane b l) j)
  s.resultK s.cl 2 d m v

/-- VFCMP (R258). -/
def execVfcmp (w : BitVec 2) (d : BitVec 3) (a b : BitVec 5) (k c f : BitVec 3) (s : State) : Outcome :=
  .next (vecCompare f.toNat (fpRel f.toNat c.toNat) w d a b k s)

/-- The format of an IF code (R192). -/
def ifFmt (f : BitVec 3) : Nat := f.toNat + 8

/-- An exact integer into a format: clamped with SA, or modulo 2^n (R259). -/
def intResult (f : Nat) (sat : BitVec 1) (v : Int) : Nat × BitVec 6 := if sat = 1 then clampInt f v else (encodeInt f v, 0)

/-- An integer operation on the values of the elements. -/
def vecInt (op : Int → Int → Int) (w : BitVec 2) (d a b : BitVec 5) (k : BitVec 3) (sat : BitVec 1) (f : BitVec 3) (s : State) : State :=
  vecElems 2 (ifFmt f) (fun x y => intResult (ifFmt f) sat (op (decodeInt (ifFmt f) x) (decodeInt (ifFmt f) y))) w d a b k s

/-- VIADD (R259). -/
def execViadd (w : BitVec 2) (d a b : BitVec 5) (k : BitVec 3) (u : BitVec 1) (f : BitVec 3) (s : State) : Outcome :=
  .next (vecInt (· + ·) w d a b k u f s)
/-- VISUB (R259). -/
def execVisub (w : BitVec 2) (d a b : BitVec 5) (k : BitVec 3) (u : BitVec 1) (f : BitVec 3) (s : State) : Outcome :=
  .next (vecInt (· - ·) w d a b k u f s)
/-- VIMUL (R259). -/
def execVimul (w : BitVec 2) (d a b : BitVec 5) (k : BitVec 3) (u : BitVec 1) (f : BitVec 3) (s : State) : Outcome :=
  .next (vecInt (· * ·) w d a b k u f s)
/-- VIMULH (R259): the upper n bits of the exact product. -/
def execVimulh (w : BitVec 2) (d a b : BitVec 5) (k f : BitVec 3) (s : State) : Outcome :=
  .next (vecInt (fun x y => x * y / 2 ^ fmtWidth (ifFmt f)) w d a b k 0 f s)
/-- VIMAX (R259). -/
def execVimax (w : BitVec 2) (d a b : BitVec 5) (k f : BitVec 3) (s : State) : Outcome := .next (vecInt max w d a b k 0 f s)
/-- VIMIN (R259). -/
def execVimin (w : BitVec 2) (d a b : BitVec 5) (k f : BitVec 3) (s : State) : Outcome := .next (vecInt min w d a b k 0 f s)
/-- VIABS (R259). -/
def execViabs (w : BitVec 2) (d a : BitVec 5) (k : BitVec 3) (u : BitVec 1) (f : BitVec 3) (s : State) : Outcome :=
  .next (vecInt (fun x _ => x.natAbs) w d a a k u f s)

/-- VSHL of an element by an unsigned amount (R260). -/
def shlElem (f : Nat) (sat : BitVec 1) (x n : Nat) : Nat × BitVec 6 :=
  let v := decodeInt f x
  if n < fmtWidth f then intResult f sat (v * 2 ^ n)
  else if sat = 1 && v ≠ 0 then (encodeInt f (if v < 0 then intLo f else intHi f), flSA)
  else (0, 0)

/-- VSHR of an element (R260). -/
def shrElem (f x n : Nat) : Nat × BitVec 6 := if n < fmtWidth f then (x % 2 ^ fmtWidth f / 2 ^ n, 0) else (0, 0)

/-- VSAR of an element (R260). -/
def sarElem (f x n : Nat) : Nat × BitVec 6 := (encodeInt f (decodeInt f x / 2 ^ min n (fmtWidth f)), 0)

/-- VSHL (R260). -/
def execVshl (w : BitVec 2) (d a b : BitVec 5) (k : BitVec 3) (u : BitVec 1) (f : BitVec 3) (s : State) : Outcome :=
  .next (vecElems 2 (ifFmt f) (shlElem (ifFmt f) u) w d a b k s)
/-- VSHR (R260). -/
def execVshr (w : BitVec 2) (d a b : BitVec 5) (k f : BitVec 3) (s : State) : Outcome :=
  .next (vecElems 2 (ifFmt f) (shrElem (ifFmt f)) w d a b k s)
/-- VSAR (R260). -/
def execVsar (w : BitVec 2) (d a b : BitVec 5) (k f : BitVec 3) (s : State) : Outcome :=
  .next (vecElems 2 (ifFmt f) (sarElem (ifFmt f)) w d a b k s)

/-- An integer relation by compare code (R196, R261). -/
def intRel (f cc a b : Nat) : Bool :=
  let x := decodeInt f a
  let y := decodeInt f b
  match cc with
  | 0 => x = y
  | 1 => x ≠ y
  | 2 => x < y
  | 3 => x ≤ y
  | 4 => y < x
  | _ => y ≤ x

/-- VICMP (R261). -/
def execVicmp (w : BitVec 2) (d : BitVec 3) (a b : BitVec 5) (k c f : BitVec 3) (s : State) : Outcome :=
  .next (vecCompare (ifFmt f) (intRel (ifFmt f) c.toNat) w d a b k s)

/-- A bitwise operation on the lanes (R262). -/
def vecBits (op : Lane → Lane → Lane) (w : BitVec 2) (d a b : BitVec 5) (k : BitVec 3) (s : State) : State :=
  vecLanes 2 d (modified s.cen s.cl w k) (fun l => ((op (s.vlane a l) (s.vlane b l)).toNat, 0)) s

/-- VAND (R262). -/
def execVand (w : BitVec 2) (d a b : BitVec 5) (k : BitVec 3) (s : State) : Outcome := .next (vecBits (· &&& ·) w d a b k s)
/-- VOR (R262). -/
def execVor (w : BitVec 2) (d a b : BitVec 5) (k : BitVec 3) (s : State) : Outcome := .next (vecBits (· ||| ·) w d a b k s)
/-- VXOR (R262). -/
def execVxor (w : BitVec 2) (d a b : BitVec 5) (k : BitVec 3) (s : State) : Outcome := .next (vecBits (· ^^^ ·) w d a b k s)
/-- VANDN (R262). -/
def execVandn (w : BitVec 2) (d a b : BitVec 5) (k : BitVec 3) (s : State) : Outcome :=
  .next (vecBits (fun x y => x &&& ~~~y) w d a b k s)
/-- VSEL (R262): K selects; every lane below the width is modified. -/
def execVsel (w : BitVec 2) (d a b : BitVec 5) (k : BitVec 3) (s : State) : Outcome :=
  let sel := kread (s.cen.cluster s.cl) k
  .next (vecLanes 2 d (belowMask (widthLanes w)) (fun l => ((if sel.getLsbD l then s.vlane a l else s.vlane b l).toNat, 0)) s)
/-- VMOV (R262). -/
def execVmov (w : BitVec 2) (d a : BitVec 5) (k : BitVec 3) (s : State) : Outcome := .next (vecBits (fun x _ => x) w d a a k s)
/-- VLI (R263): the extension word into every modified lane. -/
def execVli (w : BitVec 2) (d : BitVec 5) (k : BitVec 3) (e : BitVec 2) (s : State) : Outcome :=
  .next (vecLanes 2 d (modified s.cen s.cl w k) (fun _ => ((extWord s.cur e.toNat).toNat, 0)) s)
/-- VKOP (R264). -/
def execVkop (w : BitVec 2) (d a b : BitVec 3) (o : BitVec 4) (s : State) : Outcome :=
  let x := kread (s.cen.cluster s.cl) a
  let y := kread (s.cen.cluster s.cl) b
  .next (s.resultK s.cl 2 d (belowMask (widthLanes w)) (laneSet fun l => o.getLsbD ((if x.getLsbD l then 2 else 0) + (if y.getLsbD l then 1 else 0))))

/-- The number of one bits among the low `n` of a number. -/
def popNat (x n : Nat) : Nat := ((List.range n).filter fun i => x / 2 ^ i % 2 = 1).length

/-- Leading zero bits of an `n`-bit element. -/
def clzNat (x n : Nat) : Nat := if x % 2 ^ n = 0 then n else n - 1 - Nat.log2 (x % 2 ^ n)

/-- VPOPC (R265). -/
def execVpopc (w : BitVec 2) (d a : BitVec 5) (k f : BitVec 3) (s : State) : Outcome :=
  .next (vecElems 3 (ifFmt f) (fun x _ => (popNat x (fmtWidth (ifFmt f)), 0)) w d a a k s)
/-- VCLZ (R265). -/
def execVclz (w : BitVec 2) (d a : BitVec 5) (k f : BitVec 3) (s : State) : Outcome :=
  .next (vecElems 3 (ifFmt f) (fun x _ => (clzNat x (fmtWidth (ifFmt f)), 0)) w d a a k s)
/-- VLCNT (R265): K is counted, and every lane below the width is modified. -/
def execVlcnt (w : BitVec 2) (d : BitVec 5) (k : BitVec 3) (s : State) : Outcome :=
  let m := kread (s.cen.cluster s.cl) k
  .next (vecLanes 3 d (belowMask (widthLanes w)) (fun l => (popNat m.toNat (l + 1), 0)) s)

/-- VFMA (R257). -/
def execVfma (f : BitVec 3) (w : BitVec 2) (d a b c : BitVec 5) (r : BitVec 3) (u : BitVec 1) (s : State) : Outcome :=
  let m := belowMask (widthLanes w)
  let n := fmtElems f.toNat
  let e := fun (x : BitVec 5) (l j : Nat) => elemOf f.toNat (s.vlane x l) j
  let s' := vecLanes 4 d m (fun l => laneElems f.toNat n fun j =>
    fpFma f.toNat r.toNat (u = 1) (e a l j) (e b l j) (e c l j) (s.vrand r l j)) s
  .next (s'.stepRng s.cl r m n)

/-! ### Conversions (R266 to R269) -/

/-- The bits of a lane that `n` elements of a format take from element `i` on. -/
def elemMask (f i n : Nat) : Nat := (2 ^ (fmtStep f * n) - 1) * 2 ^ (fmtStep f * i)

/-- A placed conversion (R267): `conv` gives produced element `j` of lane `l` from its source bits. The lanes below the
width take the produced elements; a narrowing leaves the others. -/
def vecConvert (tf sf : Nat) (part : Nat) (w : BitVec 2) (d a : BitVec 5) (rm : BitVec 3)
    (conv : Nat → Nat → Nat → Nat × BitVec 6) (s : State) : State :=
  let et := fmtElems tf
  let es := fmtElems sf
  let n := min et es
  let first := if es < et then part * es else 0
  let m := belowMask (widthLanes w)
  let r := lineElems m fun l =>
    let p := laneElems tf n fun j => conv l j (elemOf sf (s.vlane a l) (if et < es then part * et + j else j))
    (p.1 * 2 ^ (fmtStep tf * first), p.2)
  let mask := ofLanes fun l => if m.getLsbD l then BitVec.ofNat 32 (elemMask tf first n) else 0
  (s.resultV s.cl 4 d mask r.1 r.2).stepRng s.cl rm m n

/-- FP6 from containers to the dense form and back (R268): `nl` lanes as one number. -/
def packFp6 (nl v : Nat) : Nat :=
  ((List.range (4 * nl)).map fun i => v / 2 ^ (8 * i) % 64 * 2 ^ (6 * i)).sum
def unpackFp6 (nl v : Nat) : Nat :=
  ((List.range (4 * nl)).map fun i => v / 2 ^ (6 * i) % 64 * 2 ^ (8 * i)).sum

/-- VCVT (R266 to R268). -/
def execVcvt (w : BitVec 2) (d a : BitVec 5) (t f : BitVec 4) (r : BitVec 3) (u : BitVec 1) (p : BitVec 2) (s : State) : Outcome :=
  .next <|
    if t = f then
      let nl := widthLanes w
      let v := (vsrc s.cen s.cl a).toNat
      let x := if p = 1 then packFp6 nl v else unpackFp6 nl v
      s.resultV s.cl 4 d (laneMask (belowMask nl)) (BitVec.ofNat 2048 x) 0
    else vecConvert t.toNat f.toNat p.toNat w d a r (fun l j b => convElem t.toNat f.toNat r.toNat (u = 1) b (s.vrand r l j)) s

/-- The scales of the blocks of a source (R269): lanes below the width, 32 elements to a block. -/
def blockScales (tf sf nl : Nat) (v : Nat → Lane) : List Nat :=
  let e := fmtElems sf
  (List.range ((nl * e + 31) / 32)).map fun b =>
    mxScale tf ((List.range (min 32 (nl * e - 32 * b))).map fun i =>
      decodeNum sf (elemOf sf (v ((32 * b + i) / e)) ((32 * b + i) % e)))

/-- VMXS (R269). -/
def execVmxs (w : BitVec 2) (d a : BitVec 5) (t f : BitVec 4) (s : State) : Outcome :=
  let nl := widthLanes w
  let sc := blockScales t.toNat f.toNat nl (s.vlane a)
  .next (vecLanes 4 d (belowMask nl) (fun l =>
    let x := sc.getD (l * fmtElems f.toNat / 32) 0
    (x, flIf (x = 255) flIV)) s)
/-- VMXP (R269). -/
def execVmxp (w : BitVec 2) (d a : BitVec 5) (t f : BitVec 4) (r : BitVec 3) (p : BitVec 2) (s : State) : Outcome :=
  let sc := blockScales t.toNat f.toNat (widthLanes w) (s.vlane a)
  .next (vecConvert t.toNat f.toNat p.toNat w d a r (fun l j b =>
    mxElem t.toNat r.toNat (sc.getD ((l * fmtElems f.toNat + j) / 32) 0) (decodeNum f.toNat b) (s.vrand r l j)) s)
/-- VMXU (R269): the scale of a lane stands in bits [7:0] of VD. -/
def execVmxu (w : BitVec 2) (d a : BitVec 5) (t f : BitVec 4) (r : BitVec 3) (u : BitVec 1) (p : BitVec 2) (s : State) : Outcome :=
  .next (vecConvert t.toNat f.toNat p.toNat w d a r (fun l j b =>
    let x := (s.vlane d l).toNat % 256
    let v := if x = 255 then Num.nan else (decodeNum f.toNat b).scale ((x : Int) - 127)
    roundNum t.toNat r.toNat (u = 1) v (s.vrand r l j)) s)

end Sys2Proof.Machine
end

