-- ==== Sys2Proof/Machine/Special.lean ====
section
/-! DEFINITION. The special-function slot: estimates, tables, scans and compaction (spec/17_vector_sf.md R270 to R279,
spec/05_numbers.md R98 to R100). -/

namespace Sys2Proof.Machine

open Sys2Proof

/-- A source of an FS operation: FI, or a staging register (R270). -/
def fsrc (e : Engine) (r : BitVec 3) : Line := if r = 0 then peek e.rin 40 else vrd e.fs r.toNat 0

/-- A result of the F slot: it stands on FO or SO, and in the staging register named (R270). -/
def State.resultF (s : State) (port : BitVec 6) (lat : Nat) (d : BitVec 3) (v : Line) (fl : BitVec 6) : State :=
  let s := s.result s.cur.coach lat (flGroup 3 fl) (.oport port (BitVec.allOnes 2048) v)
  if d = 0 then s else s.result s.cur.coach lat 0 (.fs d v)

/-- An FS operation on the lanes of one source. -/
def sfLanes (lat : Nat) (op : Nat → Nat → Nat × BitVec 6) (d a : BitVec 3) (s : State) : State :=
  let v := fsrc s.cen a
  let r := lineElems (BitVec.allOnes 64) fun l => op l (laneOf v l).toNat
  s.resultF 3 lat d r.1 r.2

/-- An estimate: each lane draws a free value, taken when it is within the bound of R98 (log 12). -/
def sfEstimate (op : Nat → BitVec 32 → Nat × BitVec 6) (d a : BitVec 3) (s : State) : State :=
  let s' := sfLanes 8 (fun l b => op b (Config.estimate (s.draw + l))) d a s
  { s' with draw := s.draw + 64 }

/-- VEXP2 (R98, R99). -/
def execVexp2 (d a : BitVec 3) (s : State) : Outcome := .next (sfEstimate exp2Elem d a s)
/-- VLOG2 (R98, R99). -/
def execVlog2 (d a : BitVec 3) (s : State) : Outcome := .next (sfEstimate log2Elem d a s)
/-- VRCPE (R98, R99). -/
def execVrcpe (d a : BitVec 3) (s : State) : Outcome := .next (sfEstimate rcpeElem d a s)
/-- VRSQE (R98, R99). -/
def execVrsqe (d a : BitVec 3) (s : State) : Outcome := .next (sfEstimate rsqeElem d a s)

/-- A refinement step (R100). -/
def sfRefine (rsq : Bool) (d a b r : BitVec 3) (s : State) : State :=
  let y := fsrc s.cen b
  sfLanes 4 (fun l x => refineElem rsq r.toNat x (laneOf y l).toNat) d a s

/-- VRCPS (R100). -/
def execVrcps (d a b r : BitVec 3) (s : State) : Outcome := .next (sfRefine false d a b r s)
/-- VRSQS (R100). -/
def execVrsqs (d a b r : BitVec 3) (s : State) : Outcome := .next (sfRefine true d a b r s)
/-- VSQRT (R98, R99). -/
def execVsqrt (d a r : BitVec 3) (s : State) : Outcome := .next (sfLanes 12 (fun _ x => sqrtElem r.toNat x) d a s)
/-- FMOV (R271). -/
def execFmov (d a : BitVec 3) (s : State) : Outcome := .next (sfLanes 6 (fun _ x => (x, 0)) d a s)

/-! ### Tables (R272 to R274) -/

/-- Word `i` of a table. -/
def tableWord (e : Engine) (t : BitVec 6) (i : Nat) : Lane := laneOf (peek e.tables (16 * t.toNat + i / 64)) (i % 64)

/-- Whether a table is well-formed, with LO, SCALE and N (R272). -/
def tableHead (e : Engine) (t : BitVec 6) : Option (Num × Num × Nat) :=
  let n := (tableWord e t 2).toInt
  match decodeNum 0 (tableWord e t 0).toNat, decodeNum 0 (tableWord e t 1).toNat with
  | .fin a m x, .fin false k y => if k ≠ 0 && 1 ≤ n && n ≤ 1019 then some (.fin a m x, .fin false k y, n.toNat) else none
  | _, _ => none

/-- A node of a table. -/
def tableNode (e : Engine) (t : BitVec 6) (i : Nat) : Num := decodeNum 0 (tableWord e t (4 + i)).toNat

/-- FTBL of one element (R274): the interpolated value and whether an invalid operation met it. -/
def tableValue (e : Engine) (t : BitVec 6) (rm : Nat) (lo sc : Num) (n : Nat) (x : Num) : Num × Bool :=
  match (numMul (numAdd 0 x lo.neg).1 sc).1 with
  | .nan => (.nan, false)
  | .inf neg => (tableNode e t (if neg then 0 else n), false)
  | .fin neg m g =>
    if neg || m = 0 then (tableNode e t 0, false)
    else
      let (i, r, d) := floorAt m g 0
      if n ≤ i then (tableNode e t n, false)
      else if r = 0 then (tableNode e t i, false)
      else
        let k : Int := -(Nat.log2 d : Int)
        let a := numMul (.fin false (d - r) k) (tableNode e t i)
        let b := numMul (.fin false r k) (tableNode e t (i + 1))
        numAdd rm a.1 b.1

/-- FTBL (R274). -/
def execFtbl (d a r : BitVec 3) (f : BitVec 4) (t : BitVec 6) (s : State) : Outcome :=
  let e := s.cen
  let n := fmtElems f.toNat
  let v := fsrc e a
  let g := fun l => laneElems f.toNat n fun j =>
    match tableHead e t with
    | none => (fpNan f.toNat, flIV)
    | some (lo, sc, k) =>
      let x := decodeNum f.toNat (elemOf f.toNat (laneOf v l) j)
      if x.isNan then (fpNan f.toNat, 0)
      else
        let (y, iv) := tableValue e t r.toNat lo sc k x
        let (b, fl) := roundNum f.toNat r.toNat false y 0
        (b, fl ||| flIf iv flIV)
  let z := lineElems (BitVec.allOnes 64) g
  .next (s.resultF 3 6 d z.1 z.2)
/-- FTLD (R273): a part of a table changes as one for operations that execute in the next ic or later. -/
def execFtld (a : BitVec 3) (t : BitVec 6) (p : BitVec 4) (s : State) : Outcome :=
  .next (s.result s.cur.coach 0 0 (.tbl (16 * t.toNat + p.toNat) (fsrc s.cen a)))

/-! ### Scans (R275 to R278) -/

/-- The elements of a line in a scan format, in order (R275). -/
def scanElems (f : Nat) (v : Line) : List Nat :=
  (List.range (64 * fmtElems f)).map fun i => elemOf f (laneOf v (i / fmtElems f)) (i % fmtElems f)

/-- The terms of each output element (R276 to R278): those of its segment up to it, the carry first before the first head. -/
def scanTerms (carry : List Nat) : List (Nat × Bool) → List Nat → List (List Nat)
  | [], _ => []
  | (x, head) :: t, acc =>
    let acc := if head then [x] else acc ++ [x]
    acc :: scanTerms carry t acc

/-- One output element (R276): 0 sum, 1 maximum, 2 minimum. Log 21. -/
def scanElem (op f rm : Nat) (terms : List Nat) : Nat × BitVec 6 :=
  if isFp f then
    if op = 0 then
      let (x, iv) := sumNums rm (terms.map (decodeNum f))
      let (r, fl) := roundNum f rm false x 0
      (r, fl ||| flIf iv flIV)
    else match terms with
      | [] => (0, 0)
      | a :: t => (fpCanon f (t.foldl (fpMaxMin f (op = 1)) a), 0)
  else if op = 0 then (encodeInt f (terms.map (decodeInt f)).sum, 0)
  else match terms with
    | [] => (0, 0)
    | a :: t =>
      let v := (t.map (decodeInt f)).foldl (fun x y => if op = 1 then max x y else min x y) (decodeInt f a)
      (encodeInt f v, 0)

/-- A scan (R275 to R278): `seg` names the register of the heads, 0 for none; the carry is replaced at the execution ic. -/
def scan (op : Nat) (f : BitVec 4) (rm : BitVec 3) (c : BitVec 1) (seg d : BitVec 3) (s : State) : State :=
  let e := s.cen
  let n := fmtElems f.toNat
  let xs := scanElems f.toNat (peek e.rin 41)
  let heads := if seg = 0 then xs.map fun _ => false else (scanElems f.toNat (vrd e.fs seg.toNat 0)).map (· ≠ 0)
  let first := if c = 1 then [elemOf f.toNat e.carry 0] else []
  let res := (scanTerms first (xs.zip heads) first).map (scanElem op f.toNat rm.toNat)
  let lanes := (List.range 64).map fun l => BitVec.ofNat 32 (packElems f.toNat ((List.range n).map fun j => (res.getD (l * n + j) (0, 0)).1))
  let s := s.resultF 4 8 d (BitVec.ofNat 2048 (lanesNat lanes)) (orFlags res)
  s.onEn s.cur.coach fun e => { e with carry := BitVec.ofNat 32 (res.getD (64 * n - 1) (0, 0)).1 }

/-- PSUM (R276). -/
def execPsum (f : BitVec 4) (r : BitVec 3) (c : BitVec 1) (d : BitVec 3) (s : State) : Outcome := .next (scan 0 f r c 0 d s)
/-- PMAX (R276). -/
def execPmax (f : BitVec 4) (c : BitVec 1) (d : BitVec 3) (s : State) : Outcome := .next (scan 1 f 0 c 0 d s)
/-- PMIN (R276). -/
def execPmin (f : BitVec 4) (c : BitVec 1) (d : BitVec 3) (s : State) : Outcome := .next (scan 2 f 0 c 0 d s)
/-- PSUMS (R276, R277). -/
def execPsums (f : BitVec 4) (r : BitVec 3) (c : BitVec 1) (g d : BitVec 3) (s : State) : Outcome := .next (scan 0 f r c g d s)
/-- PMAXS (R276, R277). -/
def execPmaxs (f : BitVec 4) (c : BitVec 1) (g d : BitVec 3) (s : State) : Outcome := .next (scan 1 f 0 c g d s)
/-- PMINS (R276, R277). -/
def execPmins (f : BitVec 4) (c : BitVec 1) (g d : BitVec 3) (s : State) : Outcome := .next (scan 2 f 0 c g d s)

/-- CMPCT (R279): the list of the non-zero lanes; the base changes at the execution ic. -/
def execCmpct (c : BitVec 1) (d : BitVec 3) (s : State) : Outcome :=
  let e := s.cen
  let v := peek e.rin 41
  let kept := (List.range 64).filter fun l => laneOf v l ≠ 0
  let base := if c = 1 then e.cbase.toNat else 0
  let entry := fun i => match kept[i]? with | some l => (base + l) % 32768 | none => 0x8000
  let lane := fun l : Nat =>
    if l < 32 then BitVec.ofNat 32 (entry (2 * l) + 65536 * entry (2 * l + 1))
    else if l = 32 then BitVec.ofNat 32 kept.length
    else 0
  let s := s.resultF 4 10 d (ofLanes lane) 0
  .next (s.onEn s.cur.coach fun e => { e with cbase := BitVec.ofNat 15 (base + 64) })

end Sys2Proof.Machine
end

