-- ==== Sys2Proof/Machine/Matrix.lean ====
section
/-! DEFINITION. The matrix engine: format latch, slices, walks, clears, drains, preloads and tiles (spec/01_machine.md R28 to
R30, spec/05_numbers.md R96, R97, spec/19_matrix.md R280 to R294). -/

namespace Sys2Proof.Machine

open Sys2Proof

/-! ### Slices (R28, R29, R96, R97) -/

/-- Encodings of row `i` of A, for the first `kk` values of k. -/
def aRow (e : Engine) (f kk i : Nat) : List Nat :=
  let n := fmtElems f
  let port := peek e.rin (i / 4)
  (List.range kk).map fun k => elemOf f (laneOf port (16 * (i % 4) + k / n)) (k % n)

/-- Encodings of column `j` of B, for the first `kk` values of k. -/
def bCol (e : Engine) (f kk j : Nat) : List Nat :=
  let n := fmtElems f
  (List.range kk).map fun k => elemOf f (laneOf (peek e.rin (16 + k / n)) j) (k % n)

/-- The scale of row or column `l` over the block of 32 that holds k (R29); 1 without MX scaling. -/
def mxScaleOf (e : Engine) (mx : Bool) (port l k : Nat) : Num :=
  if mx then decodeNum 8 ((laneOf (peek e.rin port) l).toNat / 2 ^ (8 * (k / 32))) else .fin false 1 0

/-- Values with their scales, of a row of A or a column of B. -/
def scaled (e : Engine) (f : Nat) (mx : Bool) (port l : Nat) (v : List Nat) : List (Num × Num) :=
  (v.zip (List.range v.length)).map fun x => (decodeNum f x.1, mxScaleOf e mx port l x.2)

/-- One term of a slice, exact; true for 0 × inf. -/
def sliceTerm (x y : Num × Num) : Num × Bool :=
  let p := numMul x.1 y.1
  ((numMul (numMul p.1 x.2).1 y.2).1, p.2)

/-- The slice sum of one element as FP32, rounded once (R96). Log 21. -/
def sliceSum (a b : List (Num × Num)) : Nat × BitVec 6 :=
  let t := List.zipWith sliceTerm a b
  let (x, iv) := sumNums 0 (t.map (·.1))
  let (r, fl) := roundNum 0 0 false x 0
  (r, fl ||| flIf (iv || t.any (·.2)) flIV)

/-- The slice sum of one element under INT8, exact (R97). -/
def sliceInt (a b : List Nat) : Int := (List.zipWith (fun x y => decodeInt 11 x * decodeInt 11 y) a b).sum

/-- One row of a firing: base + slice sum in the lanes of a mask (R96, R97). -/
def fireRow (e : Engine) (latch : BitVec 9) (kk : Nat) (cols : List (List Nat)) (i : Nat) (base : Line) (m : BitVec 64) : Line × BitVec 6 :=
  let fa := (latch.extractLsb' 0 4).toNat
  let fb := (latch.extractLsb' 4 4).toNat
  let mx := latch.getLsbD 8
  let a := aRow e fa kk i
  if fa = 11 then
    lineElems m fun j => clampInt 9 (decodeInt 9 (laneOf base j).toNat + sliceInt a (cols.getD j []))
  else
    let as := scaled e fa mx 32 i a
    lineElems m fun j =>
      let p := sliceSum as (scaled e fb mx 33 j (cols.getD j []))
      let r := fpAdd 0 0 (laneOf base j).toNat p.1 0
      (r.1, r.2 ||| p.2)

/-- One row of a firing whose operands are all zero: the base and +0.0 in every element of a mask (R96, R97). -/
def idleRow (latch : BitVec 9) (base : Line) (m : BitVec 64) : Line × BitVec 6 :=
  lineElems m fun j =>
    if (latch.extractLsb' 0 4).toNat = 11 then ((laneOf base j).toNat, 0) else fpAdd 0 0 (laneOf base j).toNat 0 0

/-! ### Bases (R282, R294, R321) -/

/-- Results of MFIREs and firings to a block that consumed within the 7 ics before this one, whether or not a freeze has
captured them, the earliest first. -/
def State.forwards (s : State) (c : BitVec 3) (blk : BitVec 8) : List (List (BitVec 6 × Line × Line)) :=
  let k := s.coach c
  let held := match (s.coach (s.masterOf c)).sq.held with
    | some h => (h.queue.filter fun p => p.1 = c).map (·.2)
    | none => []
  (List.range 7).flatMap fun i =>
    (held ++ k.en.inflight).filterMap fun r => match r.dest with
      | .acc b rows (some at_) => if b = blk && at_ + 7 = k.ic + i then some rows else none
      | _ => none

/-- What forwarding gives one row: the elements it covers and their values. -/
def forwardRow (f : List (List (BitVec 6 × Line × Line))) (i : BitVec 6) : Line × Line :=
  f.foldl (fun a rows => match rows.find? fun r => r.1 = i with
    | some r => (a.1 ||| r.2.1, blend r.2.1 r.2.2 a.2)
    | none => a) (0, 0)

/-- Elements of an accumulator row with an uncorrectable error. -/
def badElems (k : Coach) (blk : BitVec 8) (i : BitVec 6) : BitVec 64 :=
  if k.hasBlock blk then lanesOf k.en.badAcc (accKey blk i) else 0

/-- Elements of an accumulator row with a single-bit error, which a read corrects and counts (R18, R371). -/
def softElems (k : Coach) (blk : BitVec 8) (i : BitVec 6) : BitVec 64 :=
  if k.hasBlock blk then lanesOf k.en.softAcc (accKey blk i) else 0

/-- Reading elements of a row: the single-bit errors are counted; the uncorrectable ones make cause 0x08 pending and are counted
(R18, R321, R371). -/
def State.meetRow (s : State) (c : BitVec 3) (blk : BitVec 8) (i : BitVec 6) (m : BitVec 64) (hnd : Bool) : State :=
  let bad := badElems (s.coach c) blk i &&& m
  let s := s.countErrors c.toNat 1 (laneCount (softElems (s.coach c) blk i &&& m))
  if bad = 0 then s
  else
    (s.countErrors c.toNat 2 (laneCount bad)).pend (s.masterOf c)
      { cause := 0x08, member := s.memberOf c, arg := BitVec.ofNat 64 (blk.toNat + i.toNat * 2 ^ 8 + firstLane bad * 2 ^ 14),
        since := (s.coach c).ic, hnd := hnd }

/-- A row as a read delivers it: elements with an uncorrectable error as zero (R321). -/
def readRow (k : Coach) (blk : BitVec 8) (i : BitVec 6) : Line := k.row blk i &&& ~~~(laneMask (badElems k blk i))

/-! ### A firing (R282, R283, R292) -/

/-- Fire what stands on the matrix ports into a block: `za` for a base of +0.0, `kk` the k used of the slice, `rr` and `cc`
the rows and columns written. A block outside the reservation takes nothing and raises no flag (R57). Operands of zero
on a base of zero give +0.0, which is why a firing on ports where nothing stands is not worked out term by term: its slice sum is
+0.0 (R96). -/
def State.fire (s : State) (c : BitVec 3) (blk : BitVec 8) (latch : BitVec 9) (seq : Nat) (za : Bool) (kk rr cc : Nat) (made hnd : Bool) :
    State :=
  let k := s.coach c
  if !k.hasBlock blk then s
  else
    let e := k.en
    let kk := min kk (latchK latch)
    let m := belowMask (min cc 64)
    let lm := laneMask m
    let f := if za then [] else s.forwards c blk
    let idle := (List.range 34).all fun p => peek e.rin p = 0
    let cols := if idle then [] else (List.range 64).map (bCol e (latch.extractLsb' 4 4).toNat kk)
    let fire := fun (i : Nat) (base : Line) =>
      if idle then (if base &&& lm = 0 then (0, 0) else idleRow latch base m) else fireRow e latch kk cols i base m
    let one := fun (i : Nat) =>
      let r := BitVec.ofNat 6 i
      let w := forwardRow f r
      let base := if za then 0 else blend w.1 w.2 (readRow k blk r)
      (r, ~~~(maskLanes w.1), fire i base)
    let rows := (List.range (min rr 64)).map one
    let fl := rows.foldl (fun a x => a ||| x.2.2.2) 0
    let s := if za then s else rows.foldl (fun s x => s.meetRow c blk x.1 (x.2.1 &&& m) hnd) s
    let res : Result := { due := k.ic + 8, seq := seq, syl := 8, flags := flGroup 4 fl, again := false, tile := made,
                          dest := .acc blk (rows.map fun x => (x.1, lm, x.2.2.1)) (some k.ic) }
    s.onEn c fun e => { e with inflight := insertResult res e.inflight }

/-! ### Walks (R284, R285) -/

/-- The block and the length of a walk at position `p` (R285). -/
def walkAt (g : BitVec 57) (blk : BitVec 8) (p : Nat) : BitVec 8 × Nat :=
  let bw := (g.extractLsb' 0 3).toNat + 1
  let bh := (g.extractLsb' 3 3).toNat + 1
  let (bi, bj) := if g.getLsbD 6 then (p % bh, p / bh) else (p / bw, p % bw)
  (blk + BitVec.ofNat 8 (8 * bi + bj), bw * bh)

/-- The block of an MFIRE, and sy.mgeom after it. -/
def walkFire (g : BitVec 57) (blk : BitVec 8) : BitVec 8 × BitVec 57 :=
  if g.getLsbD 8 then
    let p := (g.extractLsb' 16 6).toNat
    let w := walkAt g blk p
    (w.1, (g &&& ~~~((0x3F : BitVec 57) <<< 16)) ||| (BitVec.ofNat 57 ((p + 1) % w.2) <<< 16))
  else (blk, g)

/-- The block and row group of an MDRN or MPRE whose enable is bit `en` and whose counter stands at bit `lo`, and sy.mgeom
after it. -/
def walkRows (g : BitVec 57) (en lo : Nat) (blk : BitVec 8) (rg : BitVec 3) : BitVec 8 × BitVec 3 × BitVec 57 :=
  if g.getLsbD en then
    let p := (g.extractLsb' lo 9).toNat
    let w := walkAt g blk (p / 8)
    (w.1, rg + BitVec.ofNat 3 p, (g &&& ~~~((0x1FF : BitVec 57) <<< lo)) ||| (BitVec.ofNat 57 ((p + 1) % (8 * w.2)) <<< lo))
  else (blk, rg, g)

/-- Put the walk geometry of the executing coach. -/
def State.putGeom (s : State) (g : BitVec 57) : State := s.onEn s.cur.coach fun e => { e with mgeom := g }

/-! ### The operations (R281 to R288) -/

/-- MFIRE (R283). -/
def execMfire (b : BitVec 8) (z : BitVec 1) (s : State) : Outcome :=
  let e := s.cen
  let w := walkFire e.mgeom b
  let s := s.fire s.cur.coach w.1 (latchFor e s.cur.bno) s.cur.seq (z = 1) 128 64 64 false s.cur.hnd
  .next (s.putGeom w.2)

/-- The value of the format latch that an MFMT's fields give (R280, R281). -/
def mfmtLatch (a b : BitVec 4) (m : BitVec 1) : BitVec 9 := a.zeroExtend 9 ||| (b.zeroExtend 9 <<< 4) ||| (m.zeroExtend 9 <<< 8)

/-- MFMT (R281): the value governs the operations of bundles issued 4 or more later. What governs no operation that is still
to execute is let go: skews reach back 64 bundles (R36). -/
def execMfmt (a b : BitVec 4) (m : BitVec 1) (s : State) : Outcome :=
  let n := s.cur.bno
  let lo := if s.cur.hnd then 0 else n - 64
  .next (s.onEn s.cur.coach fun e =>
    { e with latch := latchFor e lo, latchQ := insertLatch (n + 4, s.cur.seq, mfmtLatch a b m) (e.latchQ.filter fun p => lo < p.1) })

/-- MGEOM (R285): it governs operations of the next ic or later. -/
def execMgeom (a : BitVec 5) (s : State) : Outcome :=
  .next (s.putGeom (((xread s.msq a).truncate 57) &&& 0x77F))

/-- Rows `lo` to `lo + n - 1`, cleared. -/
def zeroRows (lo n : Nat) (mask : Line) : List (BitVec 6 × Line × Line) := (List.range n).map fun i => (BitVec.ofNat 6 (lo + i), mask, 0)

/-- MCLR (R286): +0.0 in every element of its blocks. -/
def execMclr (b n : BitVec 8) (s : State) : Outcome :=
  .next ((List.range (n.toNat + 1)).foldl (fun s i =>
    s.result s.cur.coach 1 0 (.acc (b + BitVec.ofNat 8 i) (zeroRows 0 64 (BitVec.allOnes 2048)) none)) s)

/-- A row as a drain reads it. While an MTILE writes its block, each element is freely what has landed or what a slice on
its way to it has computed (R182, R287). -/
def drainRow (s : State) (c : BitVec 3) (blk : BitVec 8) (i : BitVec 6) (draw : Nat) : Line :=
  let k := s.coach c
  let v := readRow k blk i
  if s.blockAwaited c blk && k.hasBlock blk then
    k.en.inflight.foldl (fun v r => match r.dest with
      | .acc b rows (some _) =>
        (match rows.find? fun x => r.tile && b = blk && x.1 = i with
          | some x => blend (x.2.1 &&& laneMask (BitVec.ofNat 64 (Config.pick draw))) x.2.2 v
          | none => v)
      | _ => v) v
  else v

/-- MDRN (R287): eight rows stand on AD0 to AD7 in ic t + 2; with CLR they are cleared after the read. A skewed drain under
audit of a block that an MTILE writes makes cause 0x04 pending (R183). -/
def execMdrn (b : BitVec 8) (g : BitVec 3) (cl : BitVec 1) (s : State) : Outcome :=
  let c := s.cur.coach
  let (blk, rg, gm) := walkRows s.cen.mgeom 9 32 b g
  let rows := (List.range 8).map fun j => (j, BitVec.ofNat 6 (8 * rg.toNat + j))
  let vals := rows.map fun r => (r.1, drainRow s c blk r.2 (s.draw + r.1))
  let s := rows.foldl (fun s r => s.meetRow c blk r.2 (BitVec.allOnes 64) s.cur.hnd) { s with draw := s.draw + 8 }
  let s := if s.cur.audit && s.blockAwaited c blk then
      s.pend s.cur.master { cause := 0x04, member := s.memberOf c, arg := BitVec.ofNat 64 (1 + 2 * blk.toNat), since := s.icNow, hnd := s.cur.hnd }
    else s
  let s := vals.foldl (fun s r => s.result c 2 0 (.oport (BitVec.ofNat 6 (5 + r.1)) (BitVec.allOnes 2048) r.2)) s
  let s := if cl = 1 then s.result c 1 0 (.acc blk (zeroRows (8 * rg.toNat) 8 (BitVec.allOnes 2048)) none) else s
  .next (s.putGeom gm)

/-- MPRE (R288): the lanes standing on AL0 to AL7 go into eight rows of a block. -/
def execMpre (b : BitVec 8) (g : BitVec 3) (s : State) : Outcome :=
  let e := s.cen
  let (blk, rg, gm) := walkRows e.mgeom 10 48 b g
  let rows := (List.range 8).map fun j => (BitVec.ofNat 6 (8 * rg.toNat + j), BitVec.allOnes 2048, peek e.rin (42 + j))
  .next ((s.result s.cur.coach 2 0 (.acc blk rows none)).putGeom gm)

/-! ### MTILE (R289 to R294) -/

/-- An entry of a tile's route list (R290). -/
def tileRoute (v : BitVec 16) : BitVec 9 := v.extractLsb' 0 9
def tileStep (v : BitVec 16) : BitVec 3 := v.extractLsb' 9 3

/-- Entries of the route list up to LCNT. -/
def tileList (d : List Word) : List (BitVec 16) :=
  (List.range (wfld (dword d 0) 48 3 + 1)).map fun e => BitVec.ofNat 16 (wfld (dword d (1 + e / 4)) (16 * (e % 4)) 16)

/-- The checks of a tile descriptor (R291); `rrd` is the reservation of read routes. -/
def checkTile (rrd : Nat) (d : List Word) : List Nat :=
  let w := dword d 0
  let m := wfld w 8 10
  let n := wfld w 18 10
  failIf (wfld w 56 8 ≠ 0 || 512 < m || 512 < n || 13 ≤ wfld w 52 4) 1 ++
  failIf ((tileList d).any fun e => e.extractLsb' 13 3 ≠ 0 || tileRoute e = 0 || rrd < (tileRoute e).toNat || tileStep e = 7) 1 ++
  failIf (1 ≤ m && 1 ≤ n && 255 < wfld w 0 8 + 8 * ((m + 63) / 64 - 1) + (n + 63) / 64 - 1) 1

/-- Elements of block (bi, bj) of a tile, as rows with masks: those within M × N (R292). -/
def tileSpan (t : Tile) (bi bj : Nat) : Nat × Nat := (min 64 (t.m - 64 * bi), min 64 (t.n - 64 * bj))

/-- Block column and row of firing `p` within a slice. -/
def tileBlock (t : Tile) (p : Nat) : Nat × Nat := if t.ord then (p % t.br, p / t.br) else (p / t.bc, p % t.bc)

/-- +0.0 in every element of a tile, landing at t + 2 (R291: K = 0 with CLR). -/
def State.clearTile (s : State) (c : BitVec 3) (t : Tile) : State :=
  let ic := (s.coach c).ic
  (List.range (t.br * t.bc)).foldl (fun s p =>
    let b := tileBlock t p
    let z := tileSpan t b.1 b.2
    let res : Result := { due := ic + 2, seq := t.seq, syl := 8, flags := 0, again := false, tile := true,
                          dest := .acc (BitVec.ofNat 8 (t.blk0 + 8 * b.1 + b.2)) (zeroRows 0 z.1 (laneMask (belowMask z.2))) none }
    s.onEn c fun e => { e with inflight := insertResult res e.inflight }) s

/-- MTILE (R289 to R292): the item is issued; a tile without firings, or one that fails, posts in ic t + 2. -/
def execMtile (d : BitVec 5) (t : BitVec 4) (cl : BitVec 1) (s : State) : Outcome :=
  let c := s.cur.coach
  let w := s.desc d 3
  let rrd := match (s.coach c).unit with | some u => u.rrd | none => 0
  let id := s.msq.nextItem
  let e := s.cen
  let s := s.issueItem s.cur.master c 2 subTile (s.tokHere t) false false 0 w (checkTile rrd w) [] [] [c]
  let failed := match s.item s.cur.master id with | some it => it.phase = .failed | none => true
  let s := s.onItem s.cur.master id fun o => { o with phase := .running, begun := true }
  let x := dword w 0
  let kk := wfld x 28 20
  let idle : Bool := failed || (kk = 0 && cl = 0)
  let tile : Tile :=
    { item := id, seq := s.cur.seq, blk0 := wfld x 0 8, m := if idle then 0 else wfld x 8 10, n := wfld x 18 10, k := kk,
      ord := wfld x 51 1 = 1, padsrc := BitVec.ofNat 4 (wfld x 52 4), list := tileList w, clr := cl = 1, latch := latchFor e s.cur.bno,
      base := s.icNow + 1, next := 0, fired := [], stopped := false }
  let s := s.onEn c fun e => { e with tiles := e.tiles ++ [tile] }
  .next (if kk = 0 then s.clearTile c tile else s)

/-- The ic in which a tile posts (R291, R292). -/
def Tile.postAt (t : Tile) : Nat := if t.total = 0 then t.base + 1 else t.base + 13 + t.total

/-- Whether the handler issued a tile (R331). -/
def State.tileHnd (s : State) (c : BitVec 3) (t : Tile) : Bool :=
  match s.item (s.masterOf c) t.item with | some it => it.hnd | none => false

/-- One firing of a tile consumes its ports as they stand (R283, R292). Where a later route of the tile has put lanes of AD, HI, ZS or SB
there, which stand two ics sooner than a bank's, they are what it consumes (log 72, DESIGN CHOICE). -/
def State.consume (s : State) (c : BitVec 3) (t : Tile) (f : Nat) : State :=
  let n := t.br * t.bc
  let sl := f / n
  let b := tileBlock t (f % n)
  let z := tileSpan t b.1 b.2
  s.fire c (BitVec.ofNat 8 (t.blk0 + 8 * b.1 + b.2)) t.latch t.seq (sl = 0 && t.clr) (t.k - sl * latchK t.latch) z.1 z.2 true
    (s.tileHnd c t)

/-- The route of a tile's firing executes, with its list entry's pad enable and step (R292). The step takes effect after every route
of this ic has had its lines (R165). SB presents the master's scalar registers as they stand in the route's own ic (log 72, DESIGN
CHOICE: R383 speaks of the issue ic of a bundle, and such a route has none). -/
def State.tileRouteRun (s : State) (c : BitVec 3) (t : Tile) (f : Nat) : State :=
  let v := t.list.getD (f % max 1 t.list.length) 0
  let r := tileRoute v
  let gens := selectedGens ((s.coach c).en.routeLine false r) false
  let old := s.cur
  let s := { s with cur := { old with seq := t.seq, slot := .mx, audit := false, hnd := s.tileHnd c t } }
  let s := s.readRoute c r t.padsrc (v.getLsbD 12) true
  let s := { s with cur := old }
  let st := (tileStep v).toNat
  let ic := (s.coach c).ic
  let res := fun (g : BitVec 6) => ({ due := ic, seq := 0, syl := 0, flags := 0, again := false, tile := true, dest := .ag g (.step (st - 1)) } : Result)
  if st = 0 then s else s.onEn c fun e => { e with inflight := gens.eraseDups.foldl (fun l g => insertResult (res g) l) e.inflight }

/-- One ic of a tile: a firing whose route has executed consumes, the next route executes unless the tile is stopped, and
the item posts (R292, R294). A context that parks stops its tiles before their next firing; the item is parked once
nothing of it is under way (R337). -/
def State.tileTurn (s : State) (c : BitVec 3) (t : Tile) : State :=
  let ic := (s.coach c).ic
  let m := s.masterOf c
  let s := (t.fired.filter fun f => f.2 = ic).foldl (fun s f => s.consume c t f.1) s
  let fired := t.fired.filter fun f => ic < f.2
  let more : Bool := decide (t.next < t.total)
  let stop : Bool := t.stopped || (more && (s.coach m).sq.stopping)
  let go : Bool := more && !stop && decide (t.base + t.next = ic)
  let s := if go then s.tileRouteRun c t t.next else s
  let fired := if go then fired ++ [(t.next, ic + 6)] else fired
  let t' := { t with next := if go then t.next + 1 else t.next, fired := fired, stopped := stop }
  if !more && ic = t.postAt then
    let s := s.onEn c fun e => { e with tiles := e.tiles.filter fun o => o.item ≠ t.item }
    s.onItem m t.item fun o =>
      { o with phase := if o.status = 0 then .done else .failed, pieces := t.total, wrote := decide (0 < t.total) }
  else
    let s := s.onEn c fun e => { e with tiles := e.tiles.map fun o => if o.item = t.item then t' else o }
    if stop && fired.isEmpty && (s.coach m).sq.stopping then s.onItem m t.item fun o => { o with parked := true } else s

/-- MTILE_FIRING (R292): one ic of the tiles of the event's coach. -/
def execMtileFiring (s : State) : Outcome :=
  let c := s.cur.coach
  .next ((s.coach c).en.tiles.foldl (fun s t => s.tileTurn c t) s)

end Sys2Proof.Machine
end

