-- ==== Sys2Proof/Machine/Issue.lean ====
section
/-! DEFINITION. The sequencer: fetching and decoding a bundle, the causes and waits that stop it, its issue, and what lands
in an ic (spec/11_bundle.md R156 to R183, spec/12_opcode_map.md R191, spec/15_network_memslot.md R250 to R252,
spec/19_matrix.md R293, spec/23_traps.md R321, R322). -/

namespace Sys2Proof.Machine

open Sys2Proof

/-! ### Decoding a bundle (R158, R167 to R169, R191) -/

/-- The slots of a bundle that hold an operation, a control operation or the network syllable, by syllable. -/
def allSlots : List Slot := [.h, .n, .s0, .s1, .va, .vb, .vc, .f, .mx, .ax, .m0, .m1]

/-- The instructions of a bundle by slot, or the first illegal syllable. -/
def decodeSlots (b : Bundle) : List Slot → Except Nat (List (Slot × Instr))
  | [] => .ok []
  | sl :: t =>
    match decodeSlot sl (syllable b sl.syl) with
    | .error _ => .error sl.syl
    | .ok o =>
      match decodeSlots b t with
      | .error e => .error e
      | .ok l => .ok (match o with | some i => (sl, i) :: l | none => l)

/-- The extension syllables that an operation claims (R162, R167). -/
def claims : Instr → List Nat
  | .tree _ _ _ _ => [0, 1, 2, 3]
  | .bsel _ _ _ _ _ _ => [0]
  | .liw _ e => [e.toNat]
  | .lid _ e => [2 * e.toNat, 2 * e.toNat + 1]
  | .vli _ _ _ e => [e.toNat]
  | _ => []

/-- Path tag of slot `s` of the ten (R168). -/
def pathTag (e2 : Lane) (i : Nat) : Nat := (e2.extractLsb' (3 * i) 3).toNat

/-- The first extension syllable of a TREE whose content is illegal (R168, R169). -/
def treeBad (e0 e1 e2 e3 : Lane) : Option Nat :=
  let nt := (e3.extractLsb' 20 2).toNat
  let fork : Bool := e3.extractLsb' 22 2 = 1
  let reach := if fork then 4 else nt + 1
  let ofs := fun p => (if p ≤ 2 then e0 else e1).extractLsb' (16 * ((p + 1) % 2)) 16
  if [1, 2].any (fun p => reach < p && ofs p ≠ 0) then some 12
  else if [3, 4].any (fun p => reach < p && ofs p ≠ 0) then some 13
  else if e2.extractLsb' 30 2 ≠ 0 || (List.range 10).any (fun i => 5 < pathTag e2 i) then some 14
  else if e3.extractLsb' 24 8 ≠ 0 || 1 < (e3.extractLsb' 22 2).toNat || (fork && nt ≠ 2) ||
      (List.range 4).any (fun j => nt < j && e3.extractLsb' (5 * j) 5 ≠ 0) then some 15
  else none

/-- The first extension syllable whose content its owner finds illegal. -/
def extBad (b : Bundle) (i : Instr) : Option Nat :=
  match i with
  | .tree _ _ _ _ => treeBad (syllable b 12) (syllable b 13) (syllable b 14) (syllable b 15)
  | .bsel _ _ _ _ _ _ => if (syllable b 12).extractLsb' 18 14 ≠ 0 || (syllable b 12).extractLsb' 0 3 ≠ 0 then some 12 else none
  | _ => none

/-- Decode a bundle by its bits alone: its instructions, or the syllable that R329 reports (31 for claims). -/
def decodeBundle (b : Bundle) : Except Nat (List (Slot × Instr)) :=
  match decodeSlots b allSlots with
  | .error e => .error e
  | .ok l =>
    match l.findSome? fun p => extBad b p.2 with
    | some e => .error e
    | none =>
      let cl := l.flatMap fun p => claims p.2
      if cl.eraseDups.length ≠ cl.length || (List.range 4).any (fun e => !cl.contains e && syllable b (12 + e) ≠ 0) then .error 31
      else .ok l

/-- The control operation of a bundle. -/
def headOp (l : List (Slot × Instr)) : Option Instr := (l.find? fun p => p.1 = .h).map (·.2)

/-- HOLD of a bundle's header (R161). -/
def headHold (b : Bundle) : Nat := ((syllable b 0).extractLsb' 24 4).toNat

/-- The index of a slot among the nine of R35. -/
def gangSlot : Slot → Option Nat
  | .n => some 0 | .va => some 1 | .vb => some 2 | .vc => some 3 | .f => some 4 | .mx => some 5 | .ax => some 6
  | .m0 => some 7 | .m1 => some 8 | _ => none

/-- The index of an operation slot among the ten of R168. -/
def tagSlot (sl : Slot) : Option Nat := if sl = .h || sl = .n then none else some (sl.syl - 2)

/-- Binding and skew of a slot under settings of sy.gbind and sy.gskew; the header and the scalar slots run on the master. -/
def slotBind (g : BitVec 36 × BitVec 54) (sl : Slot) : Nat × Nat :=
  match gangSlot sl with
  | some i => ((g.1.extractLsb' (4 * i) 4).toNat, (g.2.extractLsb' (6 * i) 6).toNat)
  | none => (0, 0)

/-- The token name of an operation that posts to one or sets one (R178). -/
def tokenOf : Instr → Option (BitVec 4)
  | .mtile _ t _ | .dcopyLin _ t _ _ _ _ | .dcopyStr _ t _ _ _ _ | .dcopyNest _ t _ _ _ _ | .dcopyPad _ t _ _ _ _
  | .dcopyView _ t _ _ _ _ | .dcopyRem _ t _ _ _ _ | .dcopyHost _ t _ _ _ _ | .put _ t _ _ _ | .hgath _ t _ _ _ _
  | .hredSum _ t _ _ _ _ _ | .hredMax _ t _ _ _ _ _ | .hredMin _ t _ _ _ _ _ | .hcvt _ t _ _ _ | .hatomAdd _ t _ _ _ _
  | .hatomMax _ t _ _ _ _ | .hatomMin _ t _ _ _ _ | .hatomXchg _ t _ _ _ _ | .hatomCas _ t _ _ _ _ | .hatomAddFp32 _ t _ _ _
  | .hatomMaxFp32 _ t _ _ _ | .hatomMinFp32 _ t _ _ _ | .probeUnpin _ t _ _ _ | .probeR _ t _ _ _ | .probeW _ t _ _ _
  | .probeRw _ t _ _ _ | .fence t _ | .fenceSc t _ | .vsync t | .tadv _ t | .tsetSet _ t | .tsetSeterr _ t
  | .tsetClrerr _ t | .enq _ t _ _ _ | .cload _ t _ _ _ | .rsolve _ t _ _ _ _ _ => some t
  | _ => none

/-- Whether an AX operation acts once, on the master (R295). -/
def onMaster : Instr → Bool
  | .probeUnpin _ _ _ _ _ | .probeR _ _ _ _ _ | .probeW _ _ _ _ _ | .probeRw _ _ _ _ _ | .fence _ _ | .fenceSc _ _ | .vsync _
  | .tadv _ _ | .tsetSet _ _ | .tsetSeterr _ _ | .tsetClrerr _ _ | .enq _ _ _ _ _ | .cload _ _ _ _ _ => true
  | _ => false

/-- Whether an operation is a PROBE. -/
def isProbe : Instr → Bool
  | .probeUnpin _ _ _ _ _ | .probeR _ _ _ _ _ | .probeW _ _ _ _ _ | .probeRw _ _ _ _ _ => true
  | _ => false

/-- A write of sy.gbind or sy.gskew: register, source, and 0 write, 1 set, 2 clear. -/
def gangWrite : Instr → Option (BitVec 12 × BitVec 5 × Nat)
  | .srw x n => if n = 0x010 || n = 0x011 then some (n, x, 0) else none
  | .srset x n => if n = 0x010 || n = 0x011 then some (n, x, 1) else none
  | .srclr x n => if n = 0x010 || n = 0x011 then some (n, x, 2) else none
  | _ => none

/-! ### What stops a bundle -/

/-- Whether an operation of a bundle runs on a path (R170). -/
def onPath (head : Option Instr) (e2 : Lane) (path : Nat) (sl : Slot) : Bool :=
  match head with
  | some (.tree _ _ _ _) =>
    match tagSlot sl with
    | some i => let t := pathTag e2 i; t = 0 || t = path + 1
    | none => true
  | _ => true

/-- The path a bundle takes, when it carries a TREE. -/
def bundlePath (q : Seq) (head : Option Instr) (b : Bundle) : Nat :=
  match head with
  | some (.tree _ _ _ _) => treePath q (syllable b 15)
  | _ => 0

/-- The reservation of the unit that a coach's sequencer runs: RRD, RWR, TOK. -/
def limits (k : Coach) : Nat × Nat × Nat := match k.unit with | some u => (u.rrd, u.rwr, u.tokN) | none => (0, 0, 0)

/-- The first syllable that names a token or a route outside the window or the reservation (R57, R177, R211). The check is made at the
bundle's issue: an operation with skew is judged on the base as its own bundle's CALL or RET leaves it, and a move by a later bundle
that comes before the operation executes is not foreseen (log 46, DESIGN CHOICE). -/
def rangeBad (k : Coach) (b : Bundle) (l : List (Slot × Instr)) : Option Nat :=
  let q := k.sq
  let (rrd, rwr, tok) := limits k
  let g := q.bindNow k.ic
  let moved : Nat := match headOp l with
    | some (.call _ _ _ _ _) => q.winBase.toNat + 12
    | some (.ret _ _ _ _) => q.winBase.toNat - 12
    | _ => q.winBase.toNat
  let h := syllable b 0
  if h.getLsbD 23 && tok ≤ q.winBase.toNat + (h.extractLsb' 19 4).toNat then some 0
  else l.findSome? fun p =>
    let bad : Bool := match p.2 with
      | .networkSyllable r w _ _ _ _ _ => decide (rrd < r.toNat) || decide (rwr < w.toNat)
      | .rload r kd _ _ => decide ((if kd = 1 then rwr else rrd) < r.toNat)
      | .rsave r kd _ _ => decide ((if kd = 1 then rwr else rrd) < r.toNat)
      | i => match tokenOf i with
        | some t => decide (tok ≤ (if (slotBind g p.1).2 = 0 then q.winBase.toNat else moved) + t.toNat)
        | none => false
    if bad then some p.1.syl else none

/-- The syllable that makes the header's operation illegal where its bundle stands (R169, R172, R210, R217, R331, R332), as R329
reports it: 31 for the return-stack depth and the loop depth, a TREE's extension syllable for a target out of range, the header for
an RTT outside the handler and for a body that ends out of range. Log 46. -/
def headBad (q : Seq) (b : Bundle) (idx : Nat) (h : Option Instr) : Option Nat :=
  let d := q.rstk.length
  let whole := fun (x : Bool) => if x then some 31 else none
  match h with
  | some (.tree _ _ _ _) =>
    let fr : Frame := { Frame.none with ext := b.extractLsb' 384 128, index := idx }
    let e3 := syllable b 15
    let reach := if e3.extractLsb' 22 2 = 1 then 4 else (e3.extractLsb' 20 2).toNat + 1
    ((List.range reach).find? fun p => let t := (idx : Int) + treeOfs fr (p + 1); decide (t < 0) || decide (16383 < t)).map fun p => 12 + p / 2
  | some (.call _ _ _ _ _) => whole (!q.loops.isEmpty || 4 ≤ d)
  | some (.ret _ _ _ _) => whole (!q.loops.isEmpty || d = 0 || (q.inh && d = q.rdep.toNat))
  | some (.rtt _ _ _ _) => if !q.inh then some 0 else whole (d ≠ q.rdep.toNat)
  | some (.bsel _ _ _ _ _ _) => whole (!q.loops.isEmpty)
  | some (.loop _ _ _ _ lvl n _ _) =>
    let last := idx + 1 + n.toNat
    if 16383 < last || (match q.loops with | x :: _ => decide (x.last < last) | [] => false) then some 0
    else whole (lvl.toNat ≠ q.loops.length + (if q.inh then q.ldep.toNat else 0))
  | _ => none

/-- The first syllable that a rule on sy.gbind and sy.gskew makes illegal for a bundle that issues now (R35, R37, R38): an operation in
a slot that a pending write changes, a second write before the first governs, or a value that is not allowed. Of two writes of one
register in the bundle only the one that stands is judged; where both registers together leave a skew below its minimum, the
first of their writes is named; a write on a TREE path that is not taken writes nothing and counts for none of the checks; and an
operation of the writing bundle itself, in a slot that its write changes, is none that R38 makes illegal: only later bundles are
(log 46, DESIGN CHOICE). -/
def gangBad (s : State) (m : BitVec 3) (l : List (Slot × Instr)) (runs : Slot → Bool) : Option Nat :=
  let k := s.coach m
  let q := k.sq
  let size : BitVec 2 := match k.unit with | some u => u.gsize | none => 0
  let now := q.bindNow k.ic
  let writes : List (Nat × BitVec 12 × BitVec 5 × Nat) :=
    l.filterMap fun (p : Slot × Instr) => if runs p.1 then (gangWrite p.2).map fun w => (p.1.syl, w) else none
  let pending := match q.gang.filter fun g => k.ic < g.due with
    | [] => none
    | l => some (l.foldl (fun (b : BitVec 9) (g : GangWrite) => b ||| g.slots) 0)
  let s' := { s with cur := { s.cur with master := m } }
  let early := match pending with
    | some sl =>
      writes.map (·.1) ++ l.filterMap fun (p : Slot × Instr) => match gangSlot p.1 with
        | some i => if sl.getLsbD i then some p.1.syl else none
        | none => none
    | none => []
  let v := writes.foldl (fun (a : BitVec 36 × BitVec 54) (w : Nat × BitVec 12 × BitVec 5 × Nat) =>
    let x := xread q w.2.2.1
    let old := sysRead s' w.2.1
    let v := if w.2.2.2 = 0 then x else if w.2.2.2 = 1 then old ||| x else old &&& ~~~x
    if w.2.1 = 0x010 then (v.truncate 36, a.2) else (a.1, v.truncate 54)) now
  let stand := fun (n : BitVec 12) => (((writes.filter fun w => w.2.1 = n).map (·.1)).getLast?).toList
  let value := if gangOk size v.1 v.2 then []
    else if bindsOk size v.1 then stand 0x010 ++ stand 0x011
    else stand 0x010
  (early ++ value).min?

/-- The bundle next in line: from the loop buffer, or the code store (R173); whether the code store's copy carries an
uncorrectable error, and a single-bit error, which the fetch corrects (R321, R371). -/
def fetchBundle (q : Seq) : Bundle × Bool × Bool :=
  match q.loopBuf.find? fun e => e.1 = q.pc with
  | some e => (e.2, false, false)
  | none => (peek q.code q.pc, q.badCode.contains q.pc, q.softCode.contains q.pc)

/-- Whether the header's token wait is satisfied (R180). -/
def tokenReady (q : Seq) (b : Bundle) : Bool :=
  let h := syllable b 0
  if h.getLsbD 23 then
    let t := tokName q (h.extractLsb' 19 4)
    let n := (vrd q.tok t.toNat { count := 0, err := false }).count
    let d := n - (xread q (h.extractLsb' 14 5)).truncate 24
    d.toNat < 2 ^ 23
  else true

/-- Ics after which a member's full bit counts on the master (R250). -/
def fullDelay (i : BitVec 2) : Nat := if i = 0 then 0 else if i = 2 then 24 else 12

/-- Whether the full bits of a range count as set on a member (R250). -/
def rangeFull (k : Coach) (b : BitVec 6) (l : BitVec 14) (n : Nat) : Bool :=
  let d := fullDelay ((k.unit.map fun u => u.member).getD 0)
  (List.range n).all fun i =>
    let line := l + BitVec.ofNat 14 i
    k.fullBit b line && !(k.en.fullNew.any fun e => e.1 = bankKey b line && k.ic < e.2 + 1 + d)

/-- The lines of a range whose copies of the full bit disagree on a member: a read of them counts (R18, R371). -/
def rangeOdd (k : Coach) (b : BitVec 6) (l : BitVec 14) (n : Nat) : Nat :=
  if k.hasBank b && k.en.full.any (fun e => disagree e.2) then
    ((List.range n).filter fun i => disagree (peek k.en.full (bankKey b (l + BitVec.ofNat 14 i)))).length
  else 0

/-- Count the disagreeing copies that the WAITFs of a bundle's operations read (R18, R371). -/
def State.countFull (s : State) (m : BitVec 3) (l : List (Slot × Instr)) (runs : Slot → Bool) : State :=
  let q := (s.coach m).sq
  let g := q.bindNow (s.coach m).ic
  l.foldl (fun s p => match p.2 with
    | .waitf b x n =>
      if runs p.1 then
        (boundTo s m (slotBind g p.1).1).foldl (fun s c =>
          s.countErrors c.toNat 5 (rangeOdd (s.coach c) b ((xread q x).truncate 14) (rangeCount (xread q n)))) s
      else s
    | _ => s) s

/-- Whether a WAITF is satisfied (R250). -/
def waitfReady (s : State) (m : BitVec 3) (l : List (Slot × Instr)) (runs : Slot → Bool) : Bool :=
  let q := (s.coach m).sq
  let g := q.bindNow (s.coach m).ic
  l.all fun p => match p.2 with
    | .waitf b x n =>
      !runs p.1 ||
        (boundTo s m (slotBind g p.1).1).all fun c =>
          rangeFull (s.coach c) b ((xread q x).truncate 14) (rangeCount (xread q n))
    | _ => true

/-! ### Ownership (R293) -/

/-- First ic, last ic of the network and last ic of the engine that an MTILE executing at ic `t` with `f` firings owns. -/
def tileOwns (t f : Nat) : Nat × Nat × Nat := (t + 1, t + f + 2, t + f + 6)

/-- The format latch that will govern bundle `n` on a member once the MFMTs that have issued have executed (R281). -/
def latchSeen (k : Coach) (n : Nat) : BitVec 9 :=
  let issued := k.en.skew.foldl (fun l o => match o.op with
    | .mfmt a b m => insertLatch (o.frame.bno + 4, o.frame.seq, mfmtLatch a b m) l
    | _ => l) k.en.latchQ
  latchFor { k.en with latchQ := issued } n

/-- What an MTILE that has issued and not executed will own, from its descriptor as it stands and the latch of its bundle: nothing where
it is to fail, as with 256 items outstanding (R291, R297). The descriptor and the count are taken as they stand when the
bundle is judged (log 62). -/
def futureTile (s : State) (m c : BitVec 3) (d : BitVec 5) (bno at_ : Nat) : List (Nat × Nat × Nat) :=
  let q := (s.coach m).sq
  let k := s.coach c
  let w := descWords q.ss (descBase (xread q d)) 3
  let x := dword w 0
  let rrd := (limits k).1
  let kl := latchK (latchSeen k bno)
  let f := (wfld x 28 20 + kl - 1) / kl * (((wfld x 8 10 + 63) / 64) * ((wfld x 18 10 + 63) / 64))
  if (checkTile rrd w).isEmpty && f ≠ 0 && (q.items.filter fun i => i.coach = c).length < 256 then [tileOwns at_ f] else []

/-- Every span of ownership on a member: active tiles, and MTILEs issued with this bundle or before. -/
def ownSpans (s : State) (m c : BitVec 3) (mine : List (Nat × BitVec 5)) (bno : Nat) : List (Nat × Nat × Nat) :=
  let e := (s.coach c).en
  (e.tiles.flatMap fun t => if t.stopped || t.total = 0 then [] else [tileOwns (t.base - 1) t.total]) ++
  (e.skew.flatMap fun o => match o.op with
    | .mtile d _ _ => futureTile s m c d o.frame.bno o.due
    | _ => []) ++
  mine.flatMap fun p => futureTile s m c p.2 bno p.1

/-- The kind of an operation for R329's argument of cause 0x06. -/
def ownKind : Instr → Option Nat
  | .networkSyllable r _ _ _ _ _ _ => if r = 0 then none else some 0
  | .mfire _ _ => some 1
  | .mpre _ _ => some 2
  | .mtile _ _ _ => some 3
  | _ => none

/-- The first operation that would execute while an MTILE owns what it needs: kind and member's coach. -/
def ownBad (s : State) (m : BitVec 3) (l : List (Slot × Instr)) (runs : Slot → Bool) (bno : Nat) : Option (Nat × BitVec 3) :=
  let k := s.coach m
  let g := k.sq.bindNow k.ic
  l.findSome? fun p =>
    match ownKind p.2 with
    | none => none
    | some kind =>
      if !runs p.1 then none
      else
        let bs := slotBind g p.1
        let at_ := k.ic + bs.2
        (boundTo s m bs.1).findSome? fun c =>
          let mine := l.filterMap fun o => match o.2 with
            | .mtile d _ _ =>
              if runs o.1 && o.1 ≠ p.1 && (boundTo s m (slotBind g o.1).1).contains c then some (k.ic + (slotBind g o.1).2, d) else none
            | _ => none
          if (ownSpans s m c mine bno).any fun x => x.1 ≤ at_ && at_ ≤ (if kind = 0 then x.2.1 else x.2.2) then some (kind, c) else none

/-! ### Audit (R183) -/

/-- The operation of a slot that executes on a member in this ic: of this bundle when its skew is 0, or a skewed one. -/
def opNow (s : State) (m c : BitVec 3) (l : List (Slot × Instr)) (runs : Slot → Bool) (sl : Slot) : Option Instr :=
  let k := s.coach m
  let bs := slotBind (k.sq.bindNow k.ic) sl
  match l.find? fun p => p.1 = sl && runs sl && bs.2 = 0 && (boundTo s m bs.1).contains c with
  | some p => some p.2
  | none => ((s.coach c).en.skew.find? fun o => o.frame.slot = sl && o.due ≤ (s.coach c).ic).map (·.op)

/-- The line override that an M0 operation gives the read route of its ic (R242). -/
def m0Override (q : Seq) (i : Option Instr) : Option Override :=
  let ov := fun (b : BitVec 6) (x : BitVec 5) (rdi : Bool) =>
    some { bank := b, line := (xread q x).truncate 14, rdi := rdi, mask := BitVec.allOnes 64, aud := false : Override }
  match i with
  | some (.rd b x) => ov b x false
  | some (.rdc b x) => ov b x false
  | some (.rdi b x) => ov b x true
  | _ => none

/-- The lines that the fixed-latency reads of an operation take in this ic on a member. -/
def readsOf (s : State) (m c : BitVec 3) (l : List (Slot × Instr)) (runs : Slot → Bool) (i : Instr) : List (BitVec 6 × BitVec 14) :=
  let q := (s.coach m).sq
  let k := s.coach c
  let ov := m0Override q (opNow s m c l runs .m0)
  let part : BitVec 6 → Option (BitVec 14) := fun b => match opNow s m c l runs .n with
    | some (.networkSyllable r _ _ _ _ _ _) => (readPort k ov (k.en.routeLine false r) b.toNat).map fun x => x.1
    | _ => none
  match i with
  | .networkSyllable r _ _ _ _ _ _ =>
    if r = 0 then []
    else (List.range 48).filterMap fun b =>
      (readPort k ov (k.en.routeLine false r) b).map fun p => (BitVec.ofNat 6 b, p.1)
  | .rd b x => if k.hasBank b then [(b, (xread q x).truncate 14)] else []
  | .rdc b x => if k.hasBank b then [(b, (xread q x).truncate 14)] else []
  | .rdi b x => if k.hasBank b then [(b, (part b).getD ((xread q x).truncate 14))] else []
  | .rload _ kd b x => (List.range (imgLines (kd = 1))).map fun j => (b, (xread q x).truncate 14 + BitVec.ofNat 14 j)
  | _ => []

/-- The first audited read of a bundle that comes early: argument and member's coach. -/
def auditBad (s : State) (m : BitVec 3) (l : List (Slot × Instr)) (runs : Slot → Bool) : Option (Nat × BitVec 3) :=
  let k := s.coach m
  let g := k.sq.bindNow k.ic
  let exempt := l.any fun p => match p.2 with | .networkSyllable _ _ _ _ _ a _ => a = 1 | _ => false
  if !k.sq.auditNow k.ic || exempt then none
  else l.findSome? fun p =>
    let bs := slotBind g p.1
    if bs.2 ≠ 0 || !runs p.1 then none
    else (boundTo s m bs.1).findSome? fun c =>
      match p.2 with
      | .mdrn b rg _ =>
        let blk := (walkRows (s.coach c).en.mgeom 9 32 b rg).1
        if s.blockAwaited c blk then some (1 + 2 * blk.toNat, c) else none
      | i => ((readsOf s m c l runs i).find? fun (r : BitVec 6 × BitVec 14) => s.lineAwaited m c r.1 r.2).map fun r => (r.1.toNat * 2 + r.2.toNat * 128, c)

/-! ### The verdict on the bundle next in line (R322) -/

/-- What becomes of the bundle next in line. -/
inductive Verdict where
  /-- a trap is taken -/
  | cause (code : BitVec 8) (member : BitVec 2) (arg : Word)
  /-- a hard pre-emption is taken (cause 0x0A) -/
  | preempt
  /-- its token wait or its WAITF is not satisfied -/
  | wait
  /-- it issues -/
  | issue (b : Bundle) (ops : List (Slot × Instr)) (path : Nat)
  deriving DecidableEq, Repr

/-- The pending cause that stands outside the handler, of those listed, in their order (R322). One that arises in an ic is
taken at a bundle next in line after it (R321). -/
def standing (k : Coach) (codes : List (BitVec 8)) : Option Verdict :=
  if k.sq.inh then none
  else codes.findSome? fun c => (k.sq.pending.find? fun p => p.cause = c && p.since < k.ic).map fun p => .cause c p.member p.arg

/-- An illegal bundle's argument (R329). -/
def illegalArg (idx syl : Nat) : Word := BitVec.ofNat 64 (idx + syl * 2 ^ 16)

/-- The verdict when nothing but the waits is left: waits, then causes 0x06, 0x04 and 0x0A. -/
def judgeReady (s : State) (m : BitVec 3) (b : Bundle) (l : List (Slot × Instr)) (path : Nat) : Verdict :=
  let q := (s.coach m).sq
  let runs := onPath (headOp l) (syllable b 14) path
  let hard : Bool := q.preempt.any (·.hard) && !q.inh
  let late := fun (v : Verdict) => match standing (s.coach m) [0x04] with
    | some w => w
    | none => if hard then .preempt else v
  if !tokenReady q b || !waitfReady s m l runs then late .wait
  else
    match ownBad s m l runs (if q.inh then q.hbno else q.bno) with
    | some o => .cause 0x06 (s.memberOf o.2) (BitVec.ofNat 64 o.1)
    | none =>
      match standing (s.coach m) [0x04] with
      | some w => w
      | none =>
        match auditBad s m l runs with
        | some o => .cause 0x04 (s.memberOf o.2) (BitVec.ofNat 64 o.1)
        | none => if hard then .preempt else .issue b l path

/-- The instructions of a bundle's legal operations, when some syllable is illegal. -/
def legalOps (b : Bundle) : List (Slot × Instr) :=
  allSlots.filterMap fun sl => match decodeSlot sl (syllable b sl.syl) with
    | .ok (some i) => some (sl, i)
    | _ => none

/-- The first of the syllables that some check finds illegal: 31, for the bundle as a whole, comes last (R329). -/
def firstSyl : List (Option Nat) → Option Nat
  | [] => none
  | none :: t => firstSyl t
  | some a :: t => match firstSyl t with | some b => some (min a b) | none => some a

/-- The illegal syllable of the bundle next in line of a master, of all its checks, or its operations (R158, R191, R329). What depends on
sy.gbind, sy.gskew and the value written to them is judged at the bundle's issue, once its waits are satisfied (R38, R222,
R233). -/
def legal (s : State) (m : BitVec 3) (b : Bundle) : Except Nat (List (Slot × Instr)) :=
  let k := s.coach m
  let d := decodeBundle b
  let l := match d with | .ok l => l | .error _ => legalOps b
  let own := match d with | .ok _ => [] | .error e => some e :: l.map fun p => extBad b p.2
  let runs := onPath (headOp l) (syllable b 14) (bundlePath k.sq (headOp l) b)
  let gang := if tokenReady k.sq b && waitfReady s m l runs then gangBad s m l runs else none
  match firstSyl (own ++ [rangeBad k b l, headBad k.sq b k.sq.pc (headOp l), gang]) with
  | some e => .error e
  | none => .ok l

/-- The verdict on the bundle next in line of a master, on a state in which this ic's results have landed. Log 46. -/
def judge (s : State) (m : BitVec 3) : Verdict :=
  let k := s.coach m
  let q := k.sq
  match q.postTrap with
  | some t => .cause t.1 0 (zx t.2)
  | none =>
    if 16384 ≤ q.pc then .cause 0x01 0 (illegalArg 16384 31)
    else
      let (b, bad, _) := fetchBundle q
      if bad then .cause 0x09 0 (BitVec.ofNat 64 q.pc)
      else
        match legal s m b with
        | .error e => .cause 0x01 0 (illegalArg q.pc e)
        | .ok l =>
          match standing k [0x05, 0x07, 0x08] with
          | some v => v
          | none => judgeReady s m b l (bundlePath q (headOp l) b)

/-- Whether a cause that arises at the bundle next in line itself is present when another is taken (R322): 0x06 or 0x04,
once its waits are satisfied. Causes 0x02 and 0x03 meet none there. -/
def presentToo (s : State) (m : BitVec 3) (cause : BitVec 8) : Bool :=
  let q := (s.coach m).sq
  let (b, bad, _) := fetchBundle q
  if bad || q.inh || 16384 ≤ q.pc || [0x09, 0x01, 0x02, 0x03].contains cause then false
  else
    match decodeBundle b with
    | .error _ => false
    | .ok l =>
      let runs := onPath (headOp l) (syllable b 14) (bundlePath q (headOp l) b)
      tokenReady q b && waitfReady s m l runs &&
        ((cause ≠ 0x06 && (ownBad s m l runs q.bno).isSome) || (cause ≠ 0x04 && (auditBad s m l runs).isSome))

/-! ### Issue (R159, R36) -/

/-- Put an operation of an issuing bundle on the line of the coaches that it drives; `path` is the path taken, counted from 1, or 0
without a TREE (R325). -/
def State.pushOp (s : State) (fr : Frame) (g : BitVec 36 × BitVec 54) (audit : Bool) (path : Nat) (p : Slot × Instr) : State :=
  let m := fr.master
  let q := (s.coach m).sq
  let bs := slotBind g p.1
  let one : Bool := p.1 = .ax && onMaster p.2
  let to_ := if gangSlot p.1 = none || one then [m] else boundTo s m bs.1
  let sb : List Word :=
    if p.1 = .n && bs.2 ≠ 0 then (List.range 32).map fun i => xread q (BitVec.ofNat 5 i)
    else if isProbe p.2 then (boundTo s m bs.1).map fun c => zx c
    else []
  let aud : Bool := audit && bs.2 ≠ 0 && (p.1 = .n || p.1 = .mx || p.1 = .m0)
  to_.foldl (fun s c =>
    let f : Frame := { fr with coach := c, slot := p.1, sb := sb, audit := aud }
    s.onEn c fun e => { e with skew := e.skew ++ [{ due := (s.coach m).ic + bs.2, path := path, frame := f, op := p.2 }] }) s

/-- The outermost active body takes the bundle that issues into the loop buffer (R173). -/
def bufferBundle (q : Seq) (i : Nat) (b : Bundle) : List (Nat × Bundle) :=
  match q.loops.getLast? with
  | some l =>
    if l.first ≤ i && i ≤ l.last && !(q.loopBuf.any fun e => e.1 = i) then q.loopBuf ++ [(i, b)] else q.loopBuf
  | none => q.loopBuf

/-- Issue a bundle: its operations take their places on the skew lines, the counts advance, and a bundle without a control
operation chooses its successor. -/
def State.issueBundle (s : State) (m : BitVec 3) (b : Bundle) (l : List (Slot × Instr)) (path : Nat) : State :=
  let k := s.coach m
  let q := k.sq
  let fr : Frame :=
    { master := m, coach := m, slot := .h, seq := q.seq, bno := if q.inh then q.hbno else q.bno, index := q.pc,
      ext := b.extractLsb' 384 128, hnd := q.inh, sb := [], audit := false }
  let g := q.bindNow k.ic
  let runs := onPath (headOp l) (syllable b 14) path
  let exempt := l.any fun p => match p.2 with | .networkSyllable _ _ _ _ _ a _ => a = 1 | _ => false
  let audit : Bool := q.auditNow k.ic && !exempt
  let taken := match headOp l with | some (.tree _ _ _ _) => path + 1 | _ => 0
  let s := (l.filter fun p => runs p.1).foldl (fun s p => s.pushOp fr g audit taken p) (s.countFull m l runs)
  let s := s.onSq m fun q =>
    { q with seq := q.seq + 1, bno := if q.inh then q.bno else q.bno + 1, hbno := if q.inh then q.hbno + 1 else q.hbno,
             stall := 0, begun := true, gbind := g.1, gskew := g.2, gang := (q.bindTake k.ic).gang, loopBuf := bufferBundle q q.pc b }
  let s := s.countErrors m.toNat 1 (if (fetchBundle q).2.2 then 1 else 0)
  let s := { s with cur := fr }
  match headOp l with
  | some _ => s
  | none => s.goNext fr.index (headHold b)

/-- The lanes that arrive in this ic stand on the HI ports of a coach (R13, R23). -/
def State.hitchIn (s : State) (c : BitVec 3) : State :=
  let ic := (s.coach c).ic
  s.onEn c fun e =>
    let due := e.hitch.filter fun h => h.due ≤ ic
    let put := fun (st : Store 2048) (h : HitchLane) => poke st (21 + h.port.toNat) (blend h.mask h.v (peek st (21 + h.port.toNat)))
    { e with hitch := e.hitch.filter (fun h => !(h.due ≤ ic)), oport := due.foldl put e.oport }

/-- The solver's switches that are due on a member: the items they serve, as coach and number. -/
def State.solverDue (s : State) (c : BitVec 3) : List (BitVec 3 × Nat) :=
  let k := s.coach c
  (k.en.switches.filter fun w => w.due ≤ k.ic).filterMap fun w => w.item.map fun n => (BitVec.ofNat 3 (n % 8), n / 8)

/-- The state as the bundle next in line sees it: on every member the solver's entries due in this ic have switched, its results and
lanes have landed, and its loaded entries have switched (R243, R244, R248). -/
def State.landAll (s : State) (m : BitVec 3) : State :=
  let s := ((s.members m).flatMap s.solverDue).foldl (fun s p => s.solverSwitch p.1 p.2) s
  (s.members m).foldl (fun s c => ((s.land c).hitchIn c).onCoach c fun k => { k with en := k.en.loadSwitch k.ic }) s

/-- Take a trap of the context that a master runs (R322, R327). -/
def State.enterTrap (s : State) (m : BitVec 3) (cause : BitVec 8) (member : BitVec 2) (arg : Word) : State :=
  let s := s.countErrors m.toNat 2 (if cause = 0x09 then 1 else 0)
  takeTrap m cause member arg (presentToo (s.landAll m) m cause) s

/-- A cause arises in the handler (R331, R333): it stands until the double fault is taken. -/
def State.doubleFault (s : State) (m : BitVec 3) (cause : BitVec 8) (member : BitVec 2) (arg : Word) : State :=
  (s.countErrors m.toNat 2 (if cause = 0x09 then 1 else 0)).pend m
    { cause := cause, member := member, arg := arg, since := (s.coach m).ic, hnd := true }

/-- Freeze for a hard pre-emption (R69, R323, R336): the captured state is set aside and the items park. -/
def State.hardFreeze (s : State) (m : BitVec 3) : State :=
  let hs := s.setAside m
  hs.2.onSq m fun q => { q with held := some hs.1, phase := .parking true }

/-- BUNDLE_ISSUE (R159): the bundle next in line issues, or its trap or the pre-emption is taken (R321). The place has judged the bundle on
the same state before anything of its ic landed (R323), so a cause stands here only where this operation runs by itself. -/
def execBundleIssue (s : State) : Outcome :=
  let m := s.cur.coach
  .next <|
    match judge s m with
    | .cause c mem arg =>
      if (s.coach m).sq.inh then (s.doubleFault m c mem arg).soon m (.fatalContextError m 0x22) else s.enterTrap m c mem arg
    | .preempt => s.hardFreeze m
    | .wait => s
    | .issue b l path => s.issueBundle m b l path

/-- Order of operations within an ic (model): the line overrides of M0 and M1 first, the network syllable last. -/
def opRank (sl : Slot) : Nat := match sl with | .m0 => 0 | .m1 => 1 | .n => 20 | .h => 30 | sl => sl.syl

/-- Insert by rank. -/
def insertOp (o : SkewOp) : List SkewOp → List SkewOp
  | [] => [o]
  | p :: t => if opRank o.frame.slot < opRank p.frame.slot then o :: p :: t else p :: insertOp o t

/-- Whether some operation apart from control operations is due on a member. -/
def State.opsDue (s : State) (c : BitVec 3) : Bool :=
  let k := s.coach c
  k.en.skew.any fun o => o.due ≤ k.ic && o.frame.slot ≠ .h

/-- Take the operations of a coach due in its ic off its line, in their order; a control operation waits until every
member has executed the other operations of the ic (R217). -/
def State.takeOps (s : State) (c : BitVec 3) : List (Frame × Instr) × State :=
  let k := s.coach c
  let others := (s.members (s.masterOf c)).any fun d => s.opsDue d
  let mine := fun (o : SkewOp) => o.due ≤ k.ic && (if o.frame.slot = .h then !others else true)
  let l := (k.en.skew.filter mine).foldr insertOp []
  (l.map fun o => (o.frame, o.op), s.onEn c fun e => { e with skew := e.skew.filter fun o => !mine o })

/-! ### Landing (R13, R17, R160) -/

/-- RESULT_LANDING (R160): an ic begins on the event's coach. -/
def execResultLanding (s : State) : Outcome := .next (s.land s.cur.coach)

/-- HITCH_LANE_ARRIVAL (R13, R23): the lanes that arrive in this ic stand on their HI ports. -/
def execHitchLaneArrival (s : State) : Outcome := .next (s.hitchIn s.cur.coach)

/-- Whether a write is its item's last to its line (R251, R309). -/
def State.lastWrite (s : State) (w : EngWrite) (rest : List EngWrite) : Bool :=
  match w.item with
  | none => true
  | some (m, id) =>
    !(rest.any fun o => o.item = w.item && o.bank = w.bank && o.line = w.line) &&
    match s.item m id with
    | none => true
    | some it =>
      if it.sub = subTile then true
      else if it.major = majDcopy && it.form = 5 then
        let open_ := it.todo ++ it.out.filter fun j => !(rest.any fun o => o.item = w.item && o.key = j)
        !(open_.any fun j => j ≠ w.key && (remLines it.desc j).contains w.line.toNat)
      else if it.major = majHgath then
        let rw := rowWords it.desc
        !(it.todo.any fun e => e < 4096 && (linesOf ((bankStart it.desc + e * rw) % 1048576) rw).contains w.line.toNat)
      else true

/-- One waiting engine-path write is served: lanes, full bit, the item's pieces or the PUT's acknowledgement. -/
def State.serveWrite (s : State) (c : BitVec 3) (w : EngWrite) (rest : List EngWrite) : State :=
  let ic := (s.coach c).ic
  let full : Bool := w.full && s.lastWrite w rest
  let res := fun (d : Dest) => ({ due := ic, seq := 0, syl := 0, flags := 0, again := false, tile := true, dest := d } : Result)
  let s := s.onEn c fun e =>
    let l := insertResult (res (.bank w.bank w.line w.mask w.v w.port)) e.inflight
    { e with inflight := if full then insertResult (res (.full w.bank w.line 1)) l else l, engq := rest }
  let s := match w.item with
    | some (m, id) => s.pieceDone m id w.key w.n
    | none => s
  match w.put with
  | some p => s.answer p 0
  | none => s

/-- Remove element `i`. -/
def dropAt {α : Type} : List α → Nat → List α
  | [], _ => []
  | _ :: t, 0 => t
  | a :: t, n + 1 => a :: dropAt t n

/-- One bank's engine write port in one ic: a freely chosen waiting write, unless an RSAVE holds the port (R17, R243). -/
def State.bankPort (s : State) (c : BitVec 3) (b : BitVec 6) : State :=
  let e := (s.coach c).en
  let ic := (s.coach c).ic
  let held := e.inflight.any fun r => r.due = ic && (match r.dest with | .bank x _ _ _ p => x = b && p = rsavePort | _ => false)
  let idx := (List.range e.engq.length).filter fun i => (e.engq[i]?.map fun w => w.bank) = some b
  if held || idx.isEmpty then s
  else
    let (n, s) := s.choose idx.length
    let i := idx.getD n 0
    match e.engq[i]? with
    | some w => s.serveWrite c w (dropAt e.engq i)
    | none => s

/-- In one ic, each bank of a coach serves one waiting write (R17); of the others, more lanes may be seen by early reads from now
on (R182, log 6). -/
def State.serveBanks (s : State) (c : BitVec 3) : State :=
  let s := ((s.coach c).en.engq.map (·.bank)).eraseDups.foldl (fun s b => s.bankPort c b) s
  let d := s.draw
  let more := fun (w : EngWrite) (i : Nat) => if w.item.isSome then { w with early := w.early ||| BitVec.ofNat 64 (Config.pick (d + i)) } else w
  ({ s with draw := d + (s.coach c).en.engq.length }).onEn c fun e => { e with engq := (e.engq.zip (List.range e.engq.length)).map fun (p : EngWrite × Nat) => more p.1 p.2 }

/-- ENGINE_LINE_WRITE (R17): in one ic, each bank of the event's coach serves one waiting write. -/
def execEngineLineWrite (s : State) : Outcome := .next (s.serveBanks s.cur.coach)

end Sys2Proof.Machine
end

