-- ==== Sys2Proof/Machine/Husk.lean ====
section
/-! DEFINITION. The bytes of a husk in the hub's area of HBM (spec/23_traps.md R339). Offsets, sizes and the layouts of the header and
of a queue record are the spec's; how the parts are arranged inside an area whose layout it does not give is the model's (log 19). -/

namespace Sys2Proof.Machine

open Sys2Proof

/-- `n` bytes of a number from an offset on, lowest first; zero bytes are not listed. -/
def bytesAt (off n v : Nat) : Store 8 :=
  (List.range n).filterMap fun i =>
    let b := v / 256 ^ i % 256
    if b = 0 then none else some (off + i, BitVec.ofNat 8 b)

/-- Numbers of `n` bytes each, one after another from an offset on. -/
def rowAt (off n : Nat) (l : List Nat) : Store 8 := (l.zip (List.range l.length)).flatMap fun p => bytesAt (off + n * p.2) n p.1

/-- A store moved up by an offset. -/
def shiftStore (off : Nat) (l : Store 8) : Store 8 := l.map fun e => (off + e.1, e.2)

/-- Rows of 256 bytes of a store of lines: those of the keys from `first` on, `n` of them. -/
def linesAt (off first n : Nat) (l : Store 2048) : Store 8 :=
  (l.filter fun e => first ≤ e.1 && e.1 < first + n).flatMap fun e => bytesAt (off + 256 * (e.1 - first)) 256 e.2.toNat

/-- Put a byte in front of a canonical store of higher offsets; zero, and a byte whose offset is taken, is left out. -/
def frontByte (e : Nat × BitVec 8) : Store 8 → Store 8
  | [] => if e.2 = 0 then [] else [e]
  | f :: t => if e.2 = 0 || f.1 ≤ e.1 then f :: t else e :: f :: t

/-- The canonical form of bytes that stand at their offsets in any order: of two at one offset, one stays. -/
def canonOf (l : Store 8) : Store 8 := (l.mergeSort fun a b => a.1 ≤ b.1).foldr frontByte []

/-! ### The header and the context's own areas -/

/-- The system registers of R232 that bundles write, in SRN order. -/
def huskSrns : List (BitVec 12) :=
  [0x010, 0x011, 0x020, 0x021, 0x022, 0x023, 0x024, 0x025, 0x026, 0x028, 0x029, 0x02A, 0x02B, 0x040, 0x043]

/-- The header. -/
def huskHeader (u : Unit) (q : Seq) (hard : Bool) (msize nitem : Nat) : Store 8 :=
  bytesAt 0 32 (1 + (if hard then 0x100 else 0) + (if q.inh then 0x200 else 0) + (if u.cload then 0x400 else 0) + u.gsize.toNat * 2 ^ 11 +
    q.pc * 2 ^ 13 + msize * 2 ^ 64 + nitem * 2 ^ 96)

/-- The areas from 0x100 to the code store. The loop stack is the active levels, innermost first, and behind a handler's levels those
that its trap holds: sy.estat.LDEP tells them apart (R327, R330). -/
def huskContext (u : Unit) (q : Seq) (srs : List Nat) : Store 8 :=
  rowAt 0x100 8 (q.x.toList.map (·.toNat)) ++
  bytesAt 0x200 2 q.c.toNat ++
  rowAt 0x210 16 ((q.loops ++ (match q.held with | some h => if q.inh then h.loops else [] | none => [])).map fun l => l.first + l.last * 2 ^ 16 + l.left * 2 ^ 32 + if l.ys then 2 ^ 96 else 0) ++
  rowAt 0x280 2 (q.rstk.map (·.toNat)) ++ bytesAt 0x290 1 q.winBase.toNat ++ bytesAt 0x298 8 q.stall ++ bytesAt 0x2A0 8 q.cyc.toNat ++
  rowAt 0x300 8 srs ++
  rowAt 0x400 4 (q.tok.toList.map fun t => t.count.toNat + if t.err then 2 ^ 24 else 0) ++
  rowAt 0x500 8 (q.mb.toList.map (·.toNat)) ++ bytesAt 0x580 8 q.ecause.toNat ++ bytesAt 0x588 8 q.earg.toNat ++
  shiftStore 0x800 q.ss ++ (if u.cload then q.code.flatMap fun e => bytesAt (0x40800 + 64 * e.1) 64 e.2.toNat else [])

/-! ### The in-flight queue -/

/-- A queue record: kind, index, delay, flags, line, mask, and its payload as (bytes, value) pairs. -/
structure HuskRec where
  kind : Nat
  index : Nat
  delay : Nat
  flags : Nat
  line : Nat
  mask : Nat
  payload : List (Nat × Nat)
  deriving DecidableEq, Repr

/-- Bytes of a record's payload. -/
def HuskRec.size (r : HuskRec) : Nat := (r.payload.map (·.1)).sum

/-- Index, line, mask and payload of a destination. -/
def destRec : Dest → Nat × Nat × Nat × List (Nat × Nat)
  | .xr r v => (r.toNat, 0, 0, [(8, v.toNat)])
  | .cr r v => (r.toNat, 0, 0, [(1, if v then 1 else 0)])
  | .ss off n v => (off % 4096, off / 4096, 2 ^ n - 1, [(8, v.toNat)])
  | .mb i v => (i.toNat, 0, 0, [(8, v.toNat)])
  | .vr cl r mask v => (28 * cl.group + r.toNat, 0, (maskLanes mask).toNat, [(256, v.toNat)])
  | .kr cl r mask v => (8 * cl.group + r.toNat, 0, mask.toNat, [(8, v.toNat)])
  | .fs r v => (r.toNat, 0, 2 ^ 64 - 1, [(256, v.toNat)])
  | .rin p mask v => (p.toNat, 0, (maskLanes mask).toNat, [(256, v.toNat)])
  | .oport p mask v => (p.toNat, 0, (maskLanes mask).toNat, [(256, v.toNat)])
  | .bank b line mask v _ => (b.toNat, line.toNat, (maskLanes mask).toNat, [(256, v.toNat)])
  | .full b line n => (b.toNat, line.toNat, n, [])
  | .acc blk rows _ => (blk.toNat, 0, (rows.map fun r => 2 ^ r.1.toNat).sum, rows.map fun r => (256, r.2.2.toNat))
  | .sy n v => (n.toNat, 0, 0, [(8, v.toNat)])
  | .ho k mask v => (64 + k.toNat, 0, (maskLanes mask).toNat, [(256, v.toNat)])
  | .clr b line => (b.toNat, line.toNat, 1, [])
  | .ag g _ => (g.toNat, 0, 0, [])
  | .tbl i v => (i, 0, 0, [(256, v.toNat)])

/-- The six flags of R94 that a result raises, whatever their group. -/
def flagsOf (f : BitVec 40) : Nat :=
  ((List.range 5).foldl (fun (o : BitVec 6) g => o ||| f.extractLsb' (8 * g) 6) 0).toNat

/-- The record of the results that one operation lands together: those after the first stand in the payload with their place. -/
def resultRec (r : Result) (others : List Result) : HuskRec :=
  let d := destRec r.dest
  let more := others.flatMap fun o =>
    let e := destRec o.dest
    (4, e.1) :: (4, e.2.1) :: (8, e.2.2.1) :: e.2.2.2
  { kind := r.dest.kind, index := d.1, delay := r.due, flags := flagsOf r.flags, line := d.2.1, mask := d.2.2.1, payload := d.2.2.2 ++ more }

/-- What orders the records of a queue (R324): delay, issue and syllable. -/
def recPlace (d seq syl : Nat) : Nat := d * 2 ^ 64 + seq * 16 + syl

/-- The records of the MFMTs that do not govern bundle `bno` yet (R324), with their places. -/
def latchRecords (bno : Nat) (l : List (Nat × Nat × BitVec 9)) : List (Nat × HuskRec) :=
  (l.filter fun e => bno < e.1).map fun e => (recPlace (e.1 - bno) e.2.1 8, HuskRec.mk 13 0 (e.1 - bno) 0 0 0 [(2, e.2.2.toNat)])

/-- The queue's records for a member, ordered by delay, issue and syllable (R324). Of kind 14, INDEX is the entry's number, 1,024 more
for RSAVE and 2,048 more for a write entry; MASK is the bank and the lines moved, or 1 for a load that has only to switch its entry; a
pending write of sy.gbind or sy.gskew is older than every other entry. -/
def Held.records (h : Held) (c : BitVec 3) (master : Bool) : List HuskRec :=
  let rs := (ofCoach c h.queue).filter fun r => r.dest.kind ≠ 15
  let heads := (rs.map Result.entry).eraseDups
  let results := heads.filterMap fun k => match rs.filter fun r => r.entry = k with
    | r :: t => some (recPlace r.due r.seq r.syl, resultRec r t)
    | [] => none
  let lines := fun (l : List Line) => l.map fun v => (256, v.toNat)
  let loads := (ofCoach c h.loader).map fun o =>
    let rest := imgLines o.write - o.i
    let index := o.route.toNat + (if o.load then 0 else 1024) + (if o.write then 2048 else 0)
    (recPlace rest o.seq o.syl,
      HuskRec.mk 14 index rest 0 (o.line + BitVec.ofNat 14 o.i).toNat (o.bank.toNat * 2 ^ 8 + o.i * 2 ^ 16) (lines o.img))
  let switches := (ofCoach c h.switches).map fun w =>
    (recPlace w.due w.seq 10, HuskRec.mk 14 (w.route.toNat + (if w.write then 2048 else 0)) w.due 0 0 1 (lines w.img))
  let latches := (ofCoach c h.latch).flatMap fun p => latchRecords h.bno p.2
  let system := fun (n : Nat) (d seq v : Nat) => (recPlace d seq 2, HuskRec.mk 12 n d 0 0 0 [(8, v)])
  let gang := h.gang.map fun g => match g.bind, g.skew with
    | some b, _ => system 0x10 g.due 0 b.toNat
    | none, some k => system 0x11 g.due 0 k.toNat
    | none, none => system 0x10 g.due 0 0
  let audit := h.audit.map fun a => system 0x24 a.1 a.2.1 (if a.2.2 then 1 else 0)
  let all := results ++ loads ++ switches ++ latches ++ (if master then gang ++ audit else [])
  (sortOn (·.1) all).map (·.2)

/-- Records with their payload offsets from 0x5_3800, ended by one of kind 15. -/
def recordsAt (off : Nat) : List HuskRec → Nat → Store 8
  | [], _ => bytesAt off 32 15
  | r :: t, p =>
    bytesAt off 32 (r.kind + r.index % 4096 * 2 ^ 4 + r.delay % 256 * 2 ^ 16 + r.flags * 2 ^ 24 + r.line % 2 ^ 14 * 2 ^ 32 +
      r.mask % 2 ^ 64 * 2 ^ 64 + p * 2 ^ 128 + r.size * 2 ^ 160) ++ recordsAt (off + 32) t (p + r.size)

/-- Payloads one after another. -/
def payloadsAt : List (Nat × Nat) → Nat → Store 8
  | [], _ => []
  | (n, v) :: t, off => bytesAt off n v ++ payloadsAt t (off + n)

/-! ### Member sections -/

/-- An address generator in its 64 bytes. -/
def agNat (g : AddrGen) : Nat :=
  let row := fun (l : List Nat) (at_ : Nat) => ((l.zip (List.range 6)).map fun p => p.1 * 2 ^ (8 * at_ + 16 * p.2)).sum
  g.base.toNat + row (g.bound.toList.map (·.toNat)) 2 + row (g.stride.toList.map (·.toNat)) 14 + row (g.ctr.toList.map (·.toNat)) 26 +
    g.pad.toNat * 2 ^ (8 * 38)

/-- A parked item in its 128 bytes: the fields of its status slot, what of it has been performed, and its descriptor; of an MTILE also
its next firing and the latch it took (R294). -/
def itemNat (tiles : List Tile) (it : Item) : Nat :=
  it.status.toNat + (if it.lasting then 2 ^ 8 else 0) + (if it.wrote then 2 ^ 9 else 0) + it.flags.toNat * 2 ^ 10 + it.major.toNat * 2 ^ 16 +
  it.member.toNat * 2 ^ 22 + it.subc.toNat * 2 ^ 24 + it.sub.toNat * 2 ^ 32 + it.tok.toNat * 2 ^ 43 + (if it.acq then 2 ^ 49 else 0) +
  (if it.rel then 2 ^ 50 else 0) + it.scope.toNat * 2 ^ 51 + (if it.acqDone then 2 ^ 55 else 0) + (if it.relDone then 2 ^ 56 else 0) +
  (if it.hnd then 2 ^ 57 else 0) + it.addr.toNat * 2 ^ 64 + it.pieces % 2 ^ 32 * 2 ^ 128 + it.todo.headD 0 * 2 ^ 160 +
  (match tiles.find? fun t => t.item = it.id with | some t => t.next % 2 ^ 32 * 2 ^ 192 + t.latch.toNat * 2 ^ 224 | none => 0) +
  ((it.desc.take 8).zip (List.range 8) |>.map fun p => p.1.toNat * 2 ^ (64 * (8 + p.2))).sum

/-- The place among the nine slots of R35 of an operation on a skew line. -/
def skewPlace (o : SkewOp) : Nat := (gangSlot o.frame.slot).getD 0

/-- The extension word that an operation on a skew line claims (R167): its vector slot gives the syllable that keeps it. -/
def skewExt (o : SkewOp) : Store 8 :=
  match claims o.op with
  | e :: _ => bytesAt (64 * o.due + 4 * (12 + o.frame.slot.syl % 4)) 4 (extWord o.frame e).toNat
  | [] => []

/-- The skew line's records, one for each ic of execution (R325): the syllables at their places, the words that VA, VB and VC claim at
those of E0 to E2, and in the header's word the paths taken, 3 bits for each of the nine slots. -/
def skewAt (l : List SkewOp) : Store 8 :=
  let ops := l.filter fun o => o.due < 63
  (ops.flatMap fun o => bytesAt (64 * o.due + 4 * o.frame.slot.syl) 4 (encode o.op).toNat ++ skewExt o) ++
  (ops.map (·.due)).eraseDups.flatMap fun d =>
    bytesAt (64 * d) 4 ((ops.filter fun o => o.due = d).map fun o => o.path * 8 ^ skewPlace o).sum

/-- The lines in which a hitch port's lanes stand, one for each ic that is left: 12 for HI0, 12 for HI1 and 24 for HI2 (R13, R325). -/
def hitchAt (h : HitchLane) : Nat := 12 * h.port.toNat + h.due

/-- The fixed part of a member's section: registers, masks, tables, generators. -/
def Engine.huskFixed (e : Engine) : Store 8 :=
  rowAt 0 256 ((e.va.v.toList ++ e.vb.v.toList ++ e.vc.v.toList).map (·.toNat)) ++
  rowAt 0x5400 8 ((e.va.k.toList ++ e.vb.k.toList ++ e.vc.k.toList).map (·.toNat)) ++
  rowAt 0x5500 256 ((e.fs.toList.drop 1).map (·.toNat)) ++
  rowAt 0x5C00 4 ((e.va.rng.toList ++ e.vb.rng.toList ++ e.vc.rng.toList).map (·.toNat)) ++
  bytesAt 0x5F00 4 e.carry.toNat ++ bytesAt 0x5F04 2 e.cbase.toNat ++ bytesAt 0x5F06 2 e.latch.toNat ++ bytesAt 0x5F08 8 e.mgeom.toNat ++
  bytesAt 0x5F10 8 e.fflag.toNat ++
  rowAt 0x6000 64 (e.ag.toList.map agNat) ++ linesAt 0x7000 0 1024 e.tables

/-- The saved lines in table order, each range followed by its full bits, and the bytes they take. -/
def savedLines (e : Engine) : List (Nat × Nat × Nat) → Nat → Store 8 × Nat
  | [], off => ([], off)
  | (b, first, n) :: t, off =>
    let at_ := fun (k : Nat) => (k % 16384 + 16384 - first) % 16384
    let mine := fun (k : Nat) => k / 16384 = b && decide (at_ k < n)
    let lines := (e.banks.filter fun x => mine x.1).flatMap fun x => bytesAt (off + 256 * at_ x.1) 256 x.2.toNat
    let fulls := ((e.full.filter fun x => mine x.1 && majority x.2).map fun x => 2 ^ at_ x.1).sum
    let bits := (n + 7) / 8
    let r := savedLines e t (off + 256 * n + bits)
    (lines ++ bytesAt (off + 256 * n) (if fulls = 0 then 0 else bits) fulls ++ r.1, r.2)

/-- The lines of an image that a reserved route entry has: its number and its lines' store. -/
def routesAt (off per n : Nat) (l : Store 2048) : Store 8 := linesAt off per (per * n) l

/-- A member's section and its size: `q` holds the context's items and what the freeze set aside. After a soft yield only an MFMT that
does not govern yet is left for the queue. -/
def huskMember (u : Unit) (q : Seq) (k : Coach) (c : BitVec 3) (ranges : List (Nat × Nat × Nat)) : Store 8 × Nat :=
  let recs := match q.held with | some h => h.records c (decide (c = u.master)) | none => (sortOn (·.1) (latchRecords q.bno k.en.latchQ)).map (·.2)
  let skew := match q.held with | some h => h.skew.filter fun o => o.frame.coach = c | none => []
  let hitch := match q.held with | some h => ofCoach c h.hitch | none => []
  let items := q.items.filter fun it => it.coach = c
  let var := 0x53800
  let routes := var + (recs.map HuskRec.size).sum
  let writes := routes + 256 * 50 * u.rrd
  let acc := writes + 256 * 26 * u.rwr
  let lines := acc + 16384 * u.accb
  let saved := savedLines k.en ranges lines
  (k.en.huskFixed ++ recordsAt 0x47000 recs 0 ++ shiftStore 0x47800 (skewAt skew) ++
    linesAt 0x48800 0 48 (hitch.foldl (fun (l : Store 2048) h => poke l (hitchAt h) (blend h.mask h.v (peek l (hitchAt h)))) []) ++
    rowAt 0x4B800 128 (items.map (itemNat k.en.tiles)) ++
    payloadsAt (recs.flatMap (·.payload)) var ++ routesAt routes 50 u.rrd k.en.routesR ++ routesAt writes 26 u.rwr k.en.routesW ++
    linesAt acc 0 (64 * u.accb) k.en.acc ++ saved.1, saved.2)

/-- The bytes of a husk: the header, the context's areas and the member sections, member 0 first, all of one size. `ranges` gives the
bank lines saved of each member. -/
def huskImage (u : Unit) (hard : Bool) (saved : List Coach) (srs : List Nat) (ranges : List (List (Nat × Nat × Nat))) : Store 8 :=
  let q := match saved with | k :: _ => k.sq | [] => Seq.reset
  let parts := ((saved.zip ranges).zip (List.range saved.length)).map fun p => huskMember u q p.1.1 (u.master + BitVec.ofNat 3 p.2) p.1.2
  let msize := parts.foldl (fun n p => max n p.2) 0
  let base := 0x40800 + if u.cload then 0x100000 else 0
  canonOf (huskHeader u q hard msize q.items.length ++ huskContext u q srs ++
    ((parts.zip (List.range parts.length)).flatMap fun p => shiftStore (base + msize * p.2) p.1.1))

end Sys2Proof.Machine
end

