-- ==== Sys2Proof/Machine/Traps.lean ====
section
/-! DEFINITION. Traps, fatal errors, yields, freezes, husks and the requests that lead to them (spec/23_traps.md R321 to R339,
spec/03_execution.md R68 to R74). -/

namespace Sys2Proof.Machine

open Sys2Proof

/-- TRAP_ENTRY (R327). -/
def execTrapEntry (c : BitVec 3) (cause : BitVec 8) (member : BitVec 2) (arg : Word) (s : State) : Outcome :=
  .next (s.enterTrap c cause member arg)

/-! ### Fatal errors (R333, R334) -/

/-- Uncorrectable errors in what the reservation of a coach holds. -/
def Coach.badHeld (k : Coach) : Nat :=
  (((k.en.badBank ++ k.en.onceBank).filter fun e => k.hasBank (BitVec.ofNat 6 (e.1 / 16384))).map fun e => laneCount e.2).sum +
  ((k.en.badAcc.filter fun e => k.hasBlock (BitVec.ofNat 8 (e.1 / 64))).map fun e => laneCount e.2).sum

/-- Scrub a coach (R333): reserved banks and full bits, blocks and route entries, tables and staging registers are zero. -/
def Coach.scrub (k : Coach) : Coach :=
  let mine := fun (key : Nat) => k.hasBank (BitVec.ofNat 6 (key / 16384))
  { k with en := { k.en with
      banks := wipe k.en.banks mine, full := wipe k.en.full mine, fullNew := [],
      badBank := k.en.badBank.filter (fun e => !mine e.1), onceBank := k.en.onceBank.filter (fun e => !mine e.1),
      softBank := k.en.softBank.filter (fun e => !mine e.1),
      acc := wipe k.en.acc (fun key => k.hasBlock (BitVec.ofNat 8 (key / 64))),
      badAcc := k.en.badAcc.filter (fun e => !k.hasBlock (BitVec.ofNat 8 (e.1 / 64))),
      softAcc := k.en.softAcc.filter (fun e => !k.hasBlock (BitVec.ofNat 8 (e.1 / 64))),
      routesR := [], routesW := [], tables := [], fs := Vector.replicate 8 0 } }

/-- The platform event of a fatal cause (R333, R373): the held cause and argument and the new ones go with cause 0x22. -/
def State.fatalEvent (s : State) (m : BitVec 3) (u : Unit) (cause : BitVec 8) : State :=
  let q := (s.coach m).sq
  let new : Nat × Nat := if cause = 0x22 then
      (match q.pending.find? (fun p => p.hnd) with
        | some p => (p.cause.toNat, p.arg.toNat % 2 ^ 32)
        | none => (0, 0))
    else (0, 0)
  let old : Nat × Nat := if cause = 0x22 then (q.ecause.toNat % 256, q.earg.toNat % 2 ^ 32) else (0, 0)
  s.hubEvent
    (BitVec.ofNat 64 (1 + m.toNat * 2 ^ 8 + u.ctx.toNat * 2 ^ 16 + s.hub.pbeat.toNat % 2 ^ 32 * 2 ^ 32))
    (BitVec.ofNat 64 (cause.toNat + new.1 * 2 ^ 8 + new.2 * 2 ^ 32))
    (BitVec.ofNat 64 (old.1 + u.slot.toNat % 2 ^ 16 * 2 ^ 16 + old.2 * 2 ^ 32))
    (BitVec.ofNat 64 (u.lin % 2 ^ 48 + u.queue.toNat * 2 ^ 48))

/-- Drop what a member has under way; lines that an engine has accepted still land (R311), and a solve that has been accepted still
switches its entry (R74, R248). -/
def Coach.dropAll (k : Coach) : Coach :=
  { k with en := { k.en with inflight := [], skew := [], hitch := [], loader := [], switches := k.en.switches.filter fun w => w.item.isSome, tiles := [], rin := [],
                              oport := [], ovR := none, ovW := none } }

/-- End a context on a fatal cause (R334): no freeze and no handler; its results and items are dropped. -/
def State.fatal (s : State) (m : BitVec 3) (cause : BitVec 8) : State :=
  match (s.coach m).unit with
  | none => s
  | some u =>
    if (match (s.coach m).sq.phase with | .dead _ => true | _ => false) then s
    else
      let s := s.fatalEvent m u cause
      let ms := s.members m
      let s := ms.foldl (fun s c => s.onCoach c Coach.dropAll) s
      let s := if cause = 0x22 then
          ms.foldl (fun s c =>
            let n := (s.coach c).badHeld
            (s.countErrors c.toNat 6 n).onCoach c Coach.scrub) s
        else s
      s.onSq m fun q => { q with phase := .dead cause, items := [], held := none, back := none, preempt := none, pending := [], postTrap := none }

/-- FATAL_CONTEXT_ERROR (R334). -/
def execFatalContextError (c : BitVec 3) (cause : BitVec 8) (s : State) : Outcome := .next (s.fatal c cause)

/-- STALL_WATCHDOG_EXPIRY (R70). -/
def execStallWatchdogExpiry (s : State) : Outcome := .next (s.fatal s.cur.coach 0x21)

/-! ### Pre-emption requests (R68, R69) -/

/-- Request pre-emption of the unit that a master runs: a unit that has issued EXIT or died takes no request. -/
def State.request (s : State) (m : BitVec 3) (cancel : Bool) : State :=
  match (s.coach m).unit with
  | none => s
  | some _ =>
    match (s.coach m).sq.phase with
    | .exited | .dead _ => s
    | _ =>
      let now := s.now
      s.onSq m fun q => { q with preempt := match q.preempt with
        | some p => some { p with cancel := p.cancel || cancel }
        | none => some { hard := false, cancel := cancel, stamp := now } }

/-- PREEMPT_REQUEST (R68, R73). -/
def execPreemptRequest (c : BitVec 3) (cancel : Bool) (s : State) : Outcome := .next (s.request c cancel)

/-- SLICE_EXPIRY (R68): the named unit, still in the same run, is asked to yield. -/
def execSliceExpiry (c : BitVec 3) (ctx : BitVec 12) (stamp : Nat) (s : State) : Outcome :=
  .next <|
    match (s.coach c).unit with
    | some u => if u.ctx = ctx && u.since = stamp then s.request c false else s
    | none => s

/-- PDEAD_EXPIRY (R69): the request becomes hard; a cancelled unit that has no bundle yet is discarded (R73). -/
def execPdeadExpiry (c : BitVec 3) (ctx : BitVec 12) (stamp : Nat) (s : State) : Outcome :=
  .next <|
    match (s.coach c).unit with
    | none => s
    | some u =>
      let q := (s.coach c).sq
      match q.preempt with
      | none => s
      | some p =>
        if u.ctx = ctx && p.stamp = stamp then
          let gone : Bool := match q.phase with | .pinning _ => p.cancel | _ => false
          s.onSq c fun q => { q with preempt := some { p with hard := true }, phase := if gone then .parking true else q.phase }
        else s

/-! ### Yields and husks (R335 to R339) -/

/-- SOFT_YIELD (R335): every result has landed; the items park. -/
def execSoftYield (s : State) : Outcome :=
  .next (s.onSq s.cur.coach fun q => match q.phase with
    | .draining _ => { q with phase := .parking false }
    | _ => q)

/-- Whether an item has posted, or parked for a husk (R110, R337). -/
def Item.atRest (it : Item) : Bool := it.parked || it.phase = .fault

/-- Entry `i` of the live-range table (R335), unless it saves nothing: bank, first line, count. -/
def liveEntry (k : Coach) (w : Word) : Option (Nat × Nat × Nat) :=
  let b := wfld w 0 6
  let n := wfld w 20 15
  if wfld w 35 29 ≠ 0 || 48 ≤ b || !k.hasBank (BitVec.ofNat 6 b) || 16384 < n then none else some (b, wfld w 6 14, n)

/-- The ranges of the live-range table: at most 32 entries, ended by a COUNT of 0. Log 44. -/
def liveRanges (k : Coach) (ss : Store 8) : List (Nat × Nat × Nat) :=
  (((List.range 32).map fun i => ssWord ss (0x3F700 + 8 * i)).takeWhile fun w => wfld w 20 15 ≠ 0).filterMap (liveEntry k)

/-- Every line of every reserved bank (R336). -/
def bankRanges (u : Unit) : List (Nat × Nat × Nat) :=
  ((List.range 48).filter fun b => u.hasBank (BitVec.ofNat 6 b)).map fun b => (b, 0, 16384)

/-- Whether a bank line lies in some range. -/
def inRanges (l : List (Nat × Nat × Nat)) (key : Nat) : Bool :=
  l.any fun r => r.1 = key / 16384 && decide ((key % 16384 + 16384 - r.2.1) % 16384 < r.2.2)

/-- What a husk keeps of a member: at a soft yield the lines of the live-range table, at a hard freeze every bank. The format latch is
that which governs bundle `bno`, the next (R281). -/
def Coach.saved (k : Coach) (hard : Bool) (bno : Nat) (ranges : List (Nat × Nat × Nat)) : Coach :=
  let keepIt := fun (key : Nat) => k.hasBank (BitVec.ofNat 6 (key / 16384)) && (hard || inRanges ranges key)
  let q := k.sq
  { k with
    sq := { q with audit := q.auditNext.foldl (fun _ a => a.2.2) q.audit, auditNext := [],
                   gbind := (q.gang.foldl GangWrite.apply (q.gbind, q.gskew)).1, gskew := (q.gang.foldl GangWrite.apply (q.gbind, q.gskew)).2,
                   gang := [], winBase := (match q.winNext with | some w => w.2 | none => q.winBase), winNext := none },
    en := { k.en with
      banks := keep k.en.banks keepIt, full := keep k.en.full keepIt, fullNew := [],
      badBank := k.en.badBank.filter (fun e => keepIt e.1), onceBank := k.en.onceBank.filter (fun e => keepIt e.1),
      latch := latchFor k.en bno, latchQ := k.en.latchQ.filter (fun p => bno < p.1),
      softBank := [], softAcc := [], engq := [], solverAt := none, tlb := [] } }

/-- What a husk's writer counts as it reads a member's banks, accumulator blocks and full bits (R18, R371): single-bit errors that it
corrects in the first and in the second, and copies that disagree. -/
def Coach.softKept (k : Coach) (hard : Bool) (ranges : List (Nat × Nat × Nat)) : Nat × Nat × Nat :=
  let keepIt := fun (key : Nat) => k.hasBank (BitVec.ofNat 6 (key / 16384)) && (hard || inRanges ranges key)
  (((k.en.softBank.filter fun e => keepIt e.1).map fun e => laneCount e.2).sum,
   ((k.en.softAcc.filter fun e => k.hasBlock (BitVec.ofNat 8 (e.1 / 64))).map fun e => laneCount e.2).sum,
   (k.en.full.filter fun e => keepIt e.1 && disagree e.2).length)

/-- The place of a unit after it has left: what is not the unit's stays. -/
def Coach.vacate (k : Coach) : Coach :=
  { ic := k.ic, unit := none,
    sq := { Seq.reset with nextItem := k.sq.nextItem, seq := k.sq.seq },
    en := { Engine.reset with tlb := k.en.tlb, solverAt := k.en.solverAt } }

/-- The unit of a master leaves its place: its pins go unless a husk keeps them (R108), and its view writes are those of its
launch from now on (R52, R149). -/
def State.vacate (s : State) (m : BitVec 3) (husk : Bool) : State :=
  match (s.coach m).unit with
  | none => s
  | some u =>
    let ms := s.members m
    let s := ms.foldl (fun s c => s.onCoach c fun k =>
      let k := k.vacate
      { k with en := { k.en with tlb := if husk then k.en.tlb else k.en.tlb.filter fun p => p.ctx ≠ u.ctx } }) s
    if husk then s
    else { s with viewLog := s.viewLog.map fun w =>
            if w.launch = none && w.ctx = u.ctx then { w with launch := some (u.queue, u.slot) } else w }

/-- HUSK_SAVE (R335, R336, R339): with every item posted or parked the context becomes a husk and its place is free; the
context of a cancelled unit is discarded and the unit retires (R73). -/
def execHuskSave (s : State) : Outcome :=
  let m := s.cur.coach
  .next <|
    match (s.coach m).unit with
    | none => s
    | some u =>
      let q := (s.coach m).sq
      let hard : Bool := match q.phase with | .parking h => h | _ => false
      if q.preempt.any (·.cancel) then
        (s.onSq m fun q => { q with items := [] }).soon m (.unitRetire m 4)
      else
        let ranges := (s.members m).map fun c => if hard then bankRanges u else liveRanges (s.coach c) q.ss
        let s := ((s.members m).zip ranges).foldl (fun s p =>
          let n := (s.coach p.1).softKept hard p.2
          ((s.countErrors p.1.toNat 0 n.1).countErrors p.1.toNat 1 n.2.1).countErrors p.1.toNat 5 n.2.2) s
        let saved := ((s.members m).zip ranges).map fun p => (s.coach p.1).saved hard (if q.inh then q.hbno else q.bno) p.2
        let srs := huskSrns.map fun n => (sysRead { s with cur := evFrame m } n).toNat
        let h : Husk := { unit := u, hard := hard, bad := false, order := s.now, saved := saved, image := huskImage u hard saved srs ranges }
        let s := s.vacate m true
        { s with hub := { s.hub with husks := s.hub.husks ++ [h] } }

/-! ### The start of a unit's code (R58) -/

/-- Words of the code image, lowest first, as bundles from an index on; zero bundles are not listed. -/
def imageBundles (i : Nat) : List Lane → Store 512
  | a :: b :: c :: d :: e :: f :: g :: h :: a' :: b' :: c' :: d' :: e' :: f' :: g' :: h' :: t =>
    let v : Bundle := BitVec.ofNat 512 (natOfLanes [a, b, c, d, e, f, g, h, a', b', c', d', e', f', g', h'])
    if v = 0 then imageBundles (i + 1) t else (i, v) :: imageBundles (i + 1) t
  | _ => []

/-- Read a unit's code image through its job's page tables (R58, R385). -/
def State.readImage (s : State) (u : Unit) : Option (Store 512) × State :=
  let (l, s) := s.hubRead u.job u.kaddr.toNat (16 * (u.klen + 1))
  (l.map (imageBundles 0), s)

/-- Give each member of a place its coach's state for a unit, in member order; what belongs to the place stays. The members run
in one count of ics from now on, which no member's own count exceeds (log 3). -/
def State.occupy (s : State) (ms : List (BitVec 3)) (ks : List Coach) : State :=
  let ic := ms.foldl (fun n c => max n (s.coach c).ic) 0
  (ms.zip ks).foldl (fun s p => s.onCoach p.1 fun k =>
    { p.2 with ic := ic, en := { p.2.en with tlb := k.en.tlb, solverAt := k.en.solverAt },
               sq := { p.2.sq with nextItem := k.sq.nextItem } }) s

/-- The first ic of issue after a load or a restore, which takes a time that the spec leaves open (log 16). -/
def State.firstIc (s : State) (m : BitVec 3) : Nat × State :=
  let (d, s) := s.choose 65536
  ((s.coach m).ic + 1 + d, s)

/-- The item numbers of a context's tiles that resume: all of them, or in the handler those that it issued (R294). -/
def resumesTile (q : Seq) (t : Tile) : Bool := !q.inh || q.items.any fun it => it.id = t.item && it.hnd

/-- HUSK_RESUME (R338): the context stands again on its place, its code is loaded, it acquires, and its bundle is next in
line at the first ic of issue, from which on what the freeze captured is put back. An item whose hold has run past HTO while the
context was a husk has its timeout now (R355). -/
def execHuskResume (c : BitVec 3) (ctx : BitVec 12) (s : State) : Outcome :=
  .next <|
    match s.hub.husks.find? (fun h => h.unit.ctx = ctx && h.unit.master = c) with
    | none => s
    | some h =>
      let s : State := { s with hub := { s.hub with husks := s.hub.husks.filter fun o => o.unit.ctx ≠ ctx } }
      let ms := (List.range (gangSize h.unit.gsize)).map fun i => c + BitVec.ofNat 3 i
      let next := (s.coach c).sq.nextItem
      let s := s.occupy ms h.saved
      let now := s.now
      let s := s.onSq c fun q => { q with phase := .running, preempt := none, nextItem := max next q.nextItem }
      let s := ms.foldl (fun s d => s.onCoach d fun k => { k with unit := k.unit.map fun u => { u with since := now } }) s
      if h.bad then s.fatal c 0x23
      else
        let (img, s) := s.readImage h.unit
        match img with
        | none => s.fatal c 0x20
        | some code =>
          let q := (s.coach c).sq
          let s := s.onSq c fun q =>
            { q with code := if h.unit.cload then q.code else code, badCode := if h.unit.cload then q.badCode else [], softCode := [],
                     items := q.items.map fun it => { it with parked := false } }
          let s := s.emptyViews ctx
          let late := q.items.filter fun it => it.phase = .holding && !(s.timers.any fun t => t.2.2 = .holdTimeout c it.id it.stamp)
          let s := late.foldl (fun (s : State) it => s.later c (.holdTimeout c it.id it.stamp)) s
          let (r, s) := s.firstIc c
          let s := ms.foldl (fun s d => s.onEn d fun e =>
            { e with tiles := e.tiles.map fun t => if resumesTile q t then t.restart r else t }) s
          s.onSq c fun q => { q with earliest := r, thaw := r, back := if q.inh then none else some r }

end Sys2Proof.Machine
end

