-- ==== Sys2Proof/Machine/Sched.lean ====
section
/-! DEFINITION. The scheduler: launches, traversal and placement, dispatch, the lottery, pre-emption, completion and cancel
(spec/03_execution.md R44 to R77, spec/07_memory.md R114, R115). -/

namespace Sys2Proof.Machine

open Sys2Proof

/-! ### The launch record (R48, R49) -/

/-- A field of a launch record. -/
def Launch.fld (l : Launch) (lo n : Nat) : Nat := l.words.toNat / 2 ^ lo % 2 ^ n

/-- Extents of the grid, and its units (R54). -/
def Launch.gx (l : Launch) : Nat := l.fld 128 16 + 1
def Launch.gy (l : Launch) : Nat := l.fld 144 16 + 1
def Launch.gz (l : Launch) : Nat := l.fld 160 16 + 1
def Launch.total (l : Launch) : Nat := l.gx * l.gy * l.gz

/-- Gang size code, and the masters of the places in order (R33, R55). -/
def Launch.gang (l : Launch) : Nat := l.fld 120 2
def placesOf (cmask gang : Nat) : List Nat :=
  let n := if gang = 1 then 2 else if gang = 2 then 4 else 1
  (List.range 8).filter fun c => c % n = 0 && (List.range n).all fun i => cmask / 2 ^ (c + i) % 2 = 1
def Launch.places (l : Launch) : List Nat := placesOf (l.fld 112 8) l.gang

/-- Whether every unit has retired. -/
def Launch.spent (l : Launch) : Bool := l.began && (l.refused || l.total ≤ l.gone)

/-- The job reached through GID and its phase (R49); none where a PARENT names no entry. -/
def Launch.jobReached (l : Launch) (h : Hub) : Option Nat :=
  let p := lvParent (h.level (graphKey l.gid.toNat))
  let j := lvParent (h.level (phaseKey p))
  if p < 1024 && j < 256 then some j else none

/-- Whether a record is refused (R49), the range list apart. -/
def Launch.bad (l : Launch) (h : Hub) : Bool :=
  let g := h.level (graphKey l.gid.toNat)
  [(56, 8), (125, 3), (188, 4), (249, 7), (313, 7), (504, 8)].any (fun (f : Nat × Nat) => l.fld f.1 f.2 ≠ 0) ||
  l.fld 0 6 ≠ 0 || l.fld 92 14 < l.fld 64 14 || l.fld 92 14 < l.fld 78 14 || l.gang = 3 || l.places.isEmpty ||
  (2 ≤ l.fld 108 4 && 2 ≤ l.fld 106 2) || 256 < l.fld 240 9 || 64 < l.fld 274 7 || l.fld 440 2 = 3 ||
  (l.fld 440 2 = 2 && l.fld 442 6 = 0) || !lvValid g || l.jobReached h ≠ some (h.queue l.queue).job.toNat

/-! ### Traversal (R54) -/

/-- Every second bit of a number from bit `i` on, packed. -/
def evenBits (d : Nat) : Nat → Nat
  | 0 => 0
  | n + 1 => d % 2 + 2 * evenBits (d / 4) n

/-- One step of the Hilbert curve from the smallest square up. -/
def hilbertGo (x y t k P : Nat) : Nat → Nat × Nat
  | 0 => (x, y)
  | n + 1 =>
    if k < P then
      let rx := t / 2 % 2
      let ry := (t ^^^ rx) % 2
      let (x1, y1) := if ry = 0 then (if rx = 1 then (k - 1 - y, k - 1 - x) else (y, x)) else (x, y)
      hilbertGo (x1 + k * rx) (y1 + k * ry) (t / 4) (2 * k) P n
    else (x, y)

/-- Point `d` of the Morton (2) or Hilbert (3) curve on a square of side `P`. -/
def curvePoint (order d P : Nat) : Nat × Nat :=
  if order = 2 then (evenBits d 16, evenBits (d / 2) 16) else hilbertGo 0 0 d 1 P 17

/-- The point of the curve that is the `p`-th inside the grid, from point `d` on. -/
def curveFind (order P gx gy : Nat) (p d : Nat) : Nat → Nat × Nat
  | 0 => (0, 0)
  | n + 1 =>
    let c := curvePoint order d P
    if c.1 < gx && c.2 < gy then (if p = 0 then c else curveFind order P gx gy (p - 1) (d + 1) n)
    else curveFind order P gx gy p (d + 1) n

/-- Smallest power of two not below `n`. -/
def pow2Above (n : Nat) : Nat := if n ≤ 1 then 1 else 2 ^ (Nat.log2 (n - 1) + 1)

/-- Coordinates of position `p` of a plane in row-major (0) or column-major (1) order with a swizzle width. -/
def bandPoint (order swz gx gy p : Nat) : Nat × Nat :=
  let (fast, slow) := if order = 0 then (gx, gy) else (gy, gx)
  let W := if swz < 2 then slow else swz
  let band := p / (W * fast)
  let h := min W (slow - band * W)
  let q := p - band * W * fast
  let (f, a) := if W = slow then (p % fast, p / fast) else (q / h, band * W + q % h)
  if order = 0 then (f, a) else (a, f)

/-- Coordinates of the unit at traversal sequence `i`. -/
def Launch.coords (l : Launch) (i : Nat) : Nat × Nat × Nat :=
  let plane := l.gx * l.gy
  let order := l.fld 106 2
  let p := i % plane
  let P := pow2Above (max l.gx l.gy)
  let xy := if order < 2 then bandPoint order (l.fld 108 4) l.gx l.gy p else curveFind order P l.gx l.gy p 0 (P * P)
  (xy.1, xy.2, i / plane)

/-- Linear index of coordinates (R53). -/
def Launch.linear (l : Launch) (c : Nat × Nat × Nat) : Nat := c.1 + l.gx * (c.2.1 + l.gy * c.2.2)

/-! ### Launches of a queue -/

/-- A launch by its name. -/
def Hub.launch (h : Hub) (q : BitVec 6) (slot : BitVec 32) : Option Launch := h.launches.find? fun l => l.queue = q && l.slot = slot

/-- Change a launch. -/
def State.onLaunch (s : State) (q : BitVec 6) (slot : BitVec 32) (f : Launch → Launch) : State :=
  { s with hub := { s.hub with launches := s.hub.launches.map fun l => if l.queue = q && l.slot = slot then f l else l } }

/-- The launch that a queue dispatches: the last that has begun and not completed, a cancelled one apart, which dispatches
nothing (R63, R73). -/
def Hub.dispatching (h : Hub) (q : BitVec 6) : Option Launch :=
  (h.launches.filter fun l => l.queue = q && l.began && !l.complete && !l.refused && !l.cancelled).getLast?

/-- The level of a launch in its queue (R49, R63). -/
def Hub.levelOf (h : Hub) (l : Launch) : Nat := min (l.fld 122 2) (h.queue l.queue).pceil

/-- What a queue would dispatch to a place: a husk, oldest first, or the launch's next unit (R63). -/
inductive Ready where
  | husk (ctx : BitVec 12)
  | unit (slot : BitVec 32)
  deriving DecidableEq, Repr

/-- The dispatchable unit of a queue for a place, with its level (R55, R63). -/
def Hub.readyFor (h : Hub) (q : BitVec 6) (m gang : Nat) : Option (Nat × Ready) :=
  match h.dispatching q with
  | none => none
  | some l =>
    let lev := h.levelOf l
    match h.husks.find? (fun k => k.unit.queue = q && k.unit.master.toNat = m && k.unit.gsize.toNat = gang) with
    | some k => some (lev, .husk k.unit.ctx)
    | none =>
      let ps := l.places
      if !l.cancelled && l.next < l.total && l.gang = gang && ps[l.next % ps.length]? = some m then some (lev, .unit l.slot) else none

/-- Whether a queue takes part in draws (R63). -/
def QueueRegs.draws (r : QueueRegs) : Bool := r.en && r.tickets ≠ 0 && r.sized

/-- The contexts that the hub holds (R59). -/
def State.contexts (s : State) : List (BitVec 12) :=
  (((List.range 8).map (BitVec.ofNat 3)).filterMap fun c =>
    match (s.coach c).unit with
    | some u => if u.master = c then some u.ctx else none
    | none => none) ++ s.hub.husks.map fun h => h.unit.ctx

/-- The queues with a dispatchable unit bound to a place, with levels (R63). -/
def Hub.bound (h : Hub) (m gang : Nat) : List (BitVec 6 × Nat × Ready) :=
  ((List.range 64).map (BitVec.ofNat 6)).filterMap fun q => (h.readyFor q m gang).map fun r => (q, r)

/-- The queues with a unit for a place that they may draw for, with levels; a new unit needs room for its context (R59). -/
def State.wanting (s : State) (m gang : Nat) : List (BitVec 6 × Nat × Ready) :=
  let full : Bool := 4096 ≤ s.contexts.length
  (s.hub.bound m gang).filter fun w => (s.hub.queue w.1).draws && (match w.2.2 with | .husk _ => true | .unit _ => !full)

/-- The members of a place. -/
def placeMembers (m gang : Nat) : List (BitVec 3) :=
  (List.range (gangSize (BitVec.ofNat 2 gang))).map fun i => BitVec.ofNat 3 (m + i)

/-- Whether a place can take a unit: no member is held or still writing an accepted line, and both islands of each are ON
(R380). -/
def State.placeFree (s : State) (m gang : Nat) : Bool :=
  (placeMembers m gang).all fun c =>
    let k := s.coach c
    k.unit.isNone && k.en.engq.isEmpty && k.en.inflight.isEmpty &&
      vrd s.plat.islands c.toNat 0 = 2 && vrd s.plat.islands (8 + c.toNat) 0 = 2

/-- Every place in the order of R65: by master, then by size. -/
def allPlaces : List (Nat × Nat) :=
  (List.range 8).flatMap fun m => ([0, 1, 2].filter fun g => m % gangSize (BitVec.ofNat 2 g) = 0).map fun g => (m, g)

/-- The lowest-numbered free place that some queue is eligible for, with those queues (R65). -/
def State.drawPlace (s : State) : Option (Nat × Nat × List (BitVec 6 × Nat × Ready)) :=
  if !s.hub.run || s.hub.modeBusy || s.hub.launches.isEmpty then none
  else allPlaces.findSome? fun p =>
    if s.placeFree p.1 p.2 then
      (let w := s.wanting p.1 p.2
       if w.isEmpty then none else some (p.1, p.2, w))
    else none

/-! ### Range lists (R114, R115) -/

/-- Entry of a range list, unless it is ignored: start, length, access kinds, PLACE. Log 24. -/
def rangeEntry (v : Nat) : Option (Nat × Nat × BitVec 2 × Nat) :=
  let start := v % 2 ^ 56
  let acc := v / 2 ^ 56 % 4
  let place := v / 2 ^ 58 % 8
  let len := v / 2 ^ 64 % 2 ^ 48
  if v / 2 ^ 61 % 8 ≠ 0 || v / 2 ^ 112 ≠ 0 || acc = 0 || len = 0 || 2 < place || 2 ^ 56 < start + len then none
  else some (start, len, BitVec.ofNat 2 acc, place)

/-- The pages of a range: each page's first DVA with its leaf, or a 64 KiB granule whose walk faults. -/
def State.pagesOf (s : State) (root stop : Nat) (a : Nat) : Nat → List (Nat × Option Leaf)
  | 0 => []
  | n + 1 =>
    if stop ≤ a then []
    else
      match s.walk root a with
      | .ok l => let p := a / 2 ^ l.size * 2 ^ l.size; (p, some l) :: s.pagesOf root stop (p + 2 ^ l.size) n
      | .error _ => let p := a / 65536 * 65536; (p, none) :: s.pagesOf root stop (p + 65536) n

/-- The pages of a launch's ranges, with the range's access kinds and PLACE. -/
def State.rangePages (s : State) (l : Launch) : List (Nat × Option Leaf × BitVec 2 × Nat) :=
  let root := (s.hub.job l.job).root.toNat
  l.ranges.flatMap fun r =>
    (s.pagesOf root (r.1 + r.2.1) r.1 (r.2.1 / 65536 + 2)).map fun p => (p.1, p.2, r.2.2.1, r.2.2.2)

/-- Whether a page of HBM lies in the partition of a coach (R41). -/
def inPart (mode : BitVec 2) (hpa c : Nat) : Bool :=
  if mode = 1 then hpa / 2 ^ 38 = c / 4 else if mode = 2 then hpa / 2 ^ 36 = c else true

/-- Begin the migration that a range asks for one page, unless it stays (R115, R116): a move counts only where a place was found
for the page, and a compressed page that another host has made fail to expand stays (R126). A page is in a window-mapped region when
one of its DVAs lies in its job's own window, or one of its HPAs in any job's (DESIGN CHOICE, log 63). -/
def State.migrate (s : State) (l : Launch) (a : Nat) (leaf : Leaf) (place : Nat) : State :=
  let n := pageName l.job a
  let j := s.hub.job l.job
  let low := ((List.range 8).find? fun c => l.fld 112 8 / 2 ^ c % 2 = 1).getD 0
  let there : Bool := leaf.kind = 0 && (place = 0 || inPart s.hub.mode leaf.tgt low)
  let part := if place = 1 then some (BitVec.ofNat 3 low) else none
  let window : Bool := meets (a, 2 ^ leaf.size) (j.hb.toNat, j.hl.toNat - j.hb.toNat) || s.anchored leaf
  let hurt : Bool := leaf.kind = 1 && s.hub.hurtAt leaf.tgt
  if 1 < leaf.kind || there || s.pinnedLeaf leaf || window || hurt || s.hub.onMove n then s
  else
    let (d, s) := s.allocPage leaf.size part
    match d with
    | none => s
    | some d =>
      let (ok, s) := s.askMove n
      if !ok then s
      else
        let (t, s) := s.choose 65536
        let s : State := { s with hub := { s.hub with 
          moving := s.hub.moving ++ [{ page := n, job := l.job, dest := d, size := leaf.size, part := part }] } }
        s.timer (s.now + 5 * (t + 1)) 0 (.pageMigrationComplete n)

/-! ### Status bytes and retirement (R52, R53) -/

/-- Record that a hub access for a launch could not be performed (R60, R385). -/
def State.hacc (s : State) (q : BitVec 6) : State := s.onQueue q fun r => { r with err := setBit r.err 5 true }

/-- A unit of a launch ends with a status (R52, R53): its byte is written and the counts follow. -/
def State.unitEnds (s : State) (l : Launch) (lin : Nat) (status : BitVec 8) (cause : BitVec 8) : State :=
  let saddr := l.fld 448 56
  let (ok, s) := if saddr = 0 then (true, s) else s.hubWriteBytes l.job ((saddr + 32 + lin) % 2 ^ 56) 1 status.toNat
  let s := if ok then s else s.hacc l.queue
  let fails : Bool := status = 2
  s.onLaunch l.queue l.slot fun l =>
    { l with gone := l.gone + 1,
             exited := l.exited + (if status = 1 then 1 else 0),
             failed := l.failed + (if fails then 1 else 0),
             cancelledN := l.cancelledN + (if status = 3 || status = 4 then 1 else 0),
             first := if fails && l.failed = 0 then BitVec.ofNat 64 (lin % 2 ^ 48 + cause.toNat * 2 ^ 48) else l.first }

/-- Whether the status bytes of a launch's units `i` to `i` + n − 1 have to wait (R359, R385). -/
def State.statusHeld (s : State) (l : Launch) (i n : Nat) : Bool :=
  l.fld 448 56 ≠ 0 && s.hubHeld l.job ((l.fld 448 56 + 32 + i) % 2 ^ 56) n true

/-- UNIT_RETIRE (R52, R108): the unit of a master leaves its place with a status; it stays while its status byte has to wait (R359, R385). -/
def execUnitRetire (c : BitVec 3) (status : BitVec 8) (s : State) : Outcome :=
  .next <|
    match (s.coach c).unit with
    | none => s
    | some u =>
      let held : Bool := match s.hub.launch u.queue u.slot with | some l => s.statusHeld l u.lin 1 | none => false
      if held then s
      else
      let cause : BitVec 8 := match (s.coach c).sq.phase with | .dead x => x | _ => 0
      let s := s.vacate c false
      match s.hub.launch u.queue u.slot with
      | some l => s.unitEnds l u.lin status cause
      | none => s

/-- A husk is discarded (R73, R108): its pins go, and its unit retires as cancelled. -/
def State.dropHusk (s : State) (h : Husk) : State :=
  let u := h.unit
  let ms := placeMembers u.master.toNat u.gsize.toNat
  let s := ms.foldl (fun s c => s.onEn c fun e => { e with tlb := e.tlb.filter fun p => p.ctx ≠ u.ctx }) s
  let s : State := { s with
    hub := { s.hub with husks := s.hub.husks.filter fun o => o.unit.ctx ≠ u.ctx },
    viewLog := s.viewLog.map fun w => if w.launch = none && w.ctx = u.ctx then { w with launch := some (u.queue, u.slot) } else w }
  match s.hub.launch u.queue u.slot with
  | some l => s.unitEnds l u.lin 4 0
  | none => s

/-- Retire `n` units of a launch from sequence `i` on without dispatch (R73). -/
def State.retireRest (s : State) (l : Launch) (i : Nat) : Nat → State
  | 0 => s
  | n + 1 => (s.unitEnds l (l.linear (l.coords i)) 3 0).retireRest l (i + 1) n

/-- Retire the units of a cancelled launch that are not on a place (R73): those not dispatched, which count as dispatched from now on
for a successor with TAIL = 1 (DESIGN CHOICE, log 68), and its husks. They wait while their status bytes have to (R359, R385). -/
def State.retireCancelled (s : State) (l : Launch) : State :=
  if s.statusHeld l 0 l.total then s
  else
    let s := s.onLaunch l.queue l.slot fun o => { o with next := o.total }
    let s := s.retireRest l l.next (l.total - l.next)
    (s.hub.husks.filter fun h => h.unit.queue = l.queue && h.unit.slot = l.slot).foldl State.dropHusk s

/-- Apply a cancel to the units of a launch that has begun (R73). -/
def State.cancelUnits (s : State) (l : Launch) : State :=
  ((List.range 8).map (BitVec.ofNat 3)).foldl (fun s c =>
    match (s.coach c).unit with
    | some u => if u.master = c && u.queue = l.queue && u.slot = l.slot then s.request c true else s
    | none => s) (s.retireCancelled l)

/-- Whether a cancelled launch still has units to retire that are on no place. -/
def Hub.mustRetire (h : Hub) (l : Launch) : Bool :=
  l.cancelled && l.began && !l.refused && !l.complete &&
    (decide (l.next < l.total) || h.husks.any fun x => x.unit.queue = l.queue && x.unit.slot = l.slot)

/-! ### Beginning a launch (R49, R50, R115) -/

/-- Read the entries of a range list; none when one cannot be read. -/
def State.readRanges (s : State) (job : BitVec 8) (a : Nat) : Nat → Option (List (Nat × Nat × BitVec 2 × Nat)) × State
  | 0 => (some [], s)
  | n + 1 =>
    match s.hubReadBytes job a 16 with
    | (none, s) => (none, s)
    | (some w, s) =>
      match s.readRanges job ((a + 16) % 2 ^ 56) n with
      | (none, s) => (none, s)
      | (some t, s) => (some ((rangeEntry w).toList ++ t), s)

/-- LAUNCH_DISPATCH_BEGIN (R49, R50, R73, R115): the record is read once, refused or taken; the ranges it names begin to migrate; a
cancelled launch's units retire without dispatch. The reads wait while they have to (R359, R385). A refusal for a graph entry with VALID = 0
is remembered, so that it counts in no entry whatever VALID is later. Log 25. -/
def execLaunchDispatchBegin (q : BitVec 6) (slot : BitVec 32) (s : State) : Outcome :=
  .next <|
    match s.hub.launch q slot with
    | none => s
    | some l =>
      if l.began || l.complete then s
      else
        let r := s.hub.queue q
        let was := s
        if was.hubHeld r.job (r.slotAddr slot) 64 false then was
        else
        let (w, s) := s.hubRead r.job (r.slotAddr slot) 16
        match w with
        | none => s.regionFault q
        | some w =>
          let l := { l with began := true, words := BitVec.ofNat 512 (natOfLanes w) }
          let list := l.fld 320 56
          if list ≠ 0 && was.hubHeld l.job list (16 * l.fld 376 8) false then was
          else
          let (rs, s) := if list = 0 then (some [], s) else s.readRanges l.job list (l.fld 376 8)
          if rs.isNone || l.bad s.hub then
            let unused : Bool := !lvValid (s.hub.level (graphKey l.gid.toNat))
            (s.onLaunch q slot fun _ => { l with refused := true, uncounted := unused }).onQueue q fun r => { r with err := setBit r.err 2 true }
          else
            let l := { l with ranges := rs.getD [] }
            let s := s.onLaunch q slot fun _ => l
            if l.cancelled then s.cancelUnits l
            else (s.rangePages l).foldl (fun s p =>
              let s := if p.2.2.2 < 2 then s.countWalk (s.hub.job l.job).root.toNat p.1 else s
              match p.2.1 with
              | some leaf => if p.2.2.2 < 2 then s.migrate l p.1 leaf p.2.2.2 else s
              | none => s) s

/-! ### Dispatch of a unit (R57 to R59, R115, R146) -/

/-- What becomes of a pin before dispatch. -/
structure PinTry where
  fault : Bool
  wait  : Bool
  deriving DecidableEq, Repr

/-- Pin one page of a range for a unit on every member of its place, or record its fault (R112, R115). The record of a fault names the
granule of 64 KiB at which the pin's walk starts, the first of its page, also where the range begins later in the page (DESIGN CHOICE,
log 65). -/
def State.pinOne (s : State) (u : Unit) (ms : List (BitVec 3)) (a : Nat) (acc : BitVec 2) : PinTry × State :=
  if s.hub.onMove (pageName u.job a) then ({ fault := false, wait := true }, s)
  else
    let s := s.countWalk (s.hub.job u.job).root.toNat a
    match s.walkFor (s.hub.job u.job).root.toNat a (acc.getLsbD 0) (acc.getLsbD 1) with
    | .error c =>
      if c = 5 then ({ fault := false, wait := false }, s)
      else ({ fault := true, wait := false }, s.recordFault (a / 65536 * 65536) u.ctx u.master acc c)
    | .ok l =>
      ({ fault := false, wait := false },
       ms.foldl (fun s c => if pinRoom (s.coach c).en u.ctx a then s.onEn c fun e => pinPage e u.ctx l a acc else s) s)

/-- Start the unit of a master once its pins are made (R115, R146): the job's translation record is loaded (R104), the hub
acquires, and the first bundle is next in line. Log 29. -/
def State.startUnit (s : State) (m : BitVec 3) : State :=
  match (s.coach m).unit with
  | none => s
  | some u =>
    match s.hub.launch u.queue u.slot with
    | none => s
    | some l =>
      let ms := s.members m
      let r := (s.rangePages l).foldl (fun (x : PinTry × State) p =>
        let y := x.2.pinOne u ms p.1 p.2.2.1
        ({ fault := x.1.fault || y.1.fault, wait := x.1.wait || y.1.wait }, y.2)) ({ fault := false, wait := false }, s)
      let s := r.2
      if r.1.fault then s.onSq m fun q => { q with phase := .pinning true }
      else if r.1.wait then s
      else
        let j := s.hub.job u.job
        let s := s.emptyViews u.ctx
        let (e, s) := s.firstIc m
        let now := s.now
        let s := ms.foldl (fun s c => s.onCoach c fun k =>
          { k with unit := k.unit.map fun u => { u with since := now },
                   sq := { k.sq with hb := j.hb, hl := j.hl, ho := j.ho, ptr := j.root } }) s
        s.onSq m fun q => { q with phase := .running, earliest := e }

/-- A member's coach as the grant of a reservation leaves it (R19, R58, R92). -/
def freshCoach (u : Unit) (i : Nat) (coords extent : Nat × Nat × Nat) (code : Store 512) (args : Nat) : Coach :=
  let word := fun (p : Nat × Nat × Nat) => BitVec.ofNat 64 (p.1 + p.2.1 * 2 ^ 16 + p.2.2 * 2 ^ 32)
  let c : Cluster := { Cluster.reset with rng := laneSeeds 1 i }
  { ic := 0, unit := some { u with member := BitVec.ofNat 2 i },
    sq := { Seq.reset with padr := 0, code := code, ss := pokeBytes [] 0 64 args, unitReg := word coords, gridReg := word extent },
    en := { Engine.reset with va := c, vb := c, vc := c } }

/-- The lowest context number that nothing holds (R59). -/
def State.freeCtx (s : State) : BitVec 12 :=
  let held := s.contexts
  BitVec.ofNat 12 (((List.range 4096).find? fun n => !held.contains (BitVec.ofNat 12 n)).getD 0)

/-- Grant a reservation to the next unit of a launch on a place and load its code and arguments; a unit whose code or
arguments cannot be read dies (R57, R58). -/
def State.dispatchUnit (s : State) (l : Launch) (m gang : Nat) : State :=
  let coords := l.coords l.next
  let entry := l.fld 64 14
  let u : Unit :=
    { ctx := s.freeCtx, gsize := BitVec.ofNat 2 gang, member := 0, master := BitVec.ofNat 3 m, queue := l.queue, slot := l.slot,
      lin := l.linear coords, job := l.job, bmask := BitVec.ofNat 48 (l.fld 192 48), accb := l.fld 240 9, rrd := l.fld 256 9,
      rwr := l.fld 265 9, tokN := l.fld 274 7, wdog := BitVec.ofNat 16 (l.fld 281 16), hndl := BitVec.ofNat 14 (l.fld 78 14),
      kaddr := BitVec.ofNat 56 (l.fld 0 56), klen := l.fld 92 14, prio := BitVec.ofNat 2 (s.hub.levelOf l), since := s.now,
      cload := false }
  let s := s.onLaunch l.queue l.slot fun l => { l with next := l.next + 1 }
  let (code, s) := s.readImage u
  let r := s.hub.queue l.queue
  let (args, s) := s.hubRead r.job ((r.slotAddr l.slot + 64) % 2 ^ 56) 16
  let extent := (l.fld 128 16, l.fld 144 16, l.fld 160 16)
  let ms := placeMembers m gang
  let ks := (List.range ms.length).map fun i => freshCoach u i coords extent (code.getD []) (natOfLanes (args.getD []))
  let s := s.occupy ms ks
  let s := s.onSq u.master fun q => { q with pc := entry, phase := .pinning false }
  if code.isNone || args.isNone then s.fatal u.master 0x20 else s.startUnit u.master

/-! ### The lottery (R65) -/

/-- One step of LSEED. -/
def lseedStep (x : BitVec 32) : BitVec 32 :=
  let x := x ^^^ (x <<< 13)
  let x := x ^^^ (x >>> 17)
  x ^^^ (x <<< 5)

/-- The first queue whose running sum of tickets passes `v`. -/
def drawAmong (h : Hub) : List (BitVec 6) → Nat → Nat → Option (BitVec 6)
  | [], _, _ => none
  | q :: t, acc, v =>
    let acc := acc + (h.queue q).tickets
    if v < acc then some q else drawAmong h t acc v

/-- Whether what the hub reads to dispatch a unit has to wait (R359, R385): its code and, for a new one, its argument bytes. -/
def State.dispatchHeld (s : State) (q : BitVec 6) (w : Ready) : Bool :=
  match w with
  | .husk ctx => s.hub.husks.any fun h =>
      h.unit.ctx = ctx && s.hubHeld h.unit.job h.unit.kaddr.toNat (64 * (h.unit.klen + 1)) false
  | .unit slot => match s.hub.launch q slot with
    | some l => s.hubHeld l.job (l.fld 0 56) (64 * (l.fld 92 14 + 1)) false ||
        s.hubHeld (s.hub.queue q).job (((s.hub.queue q).slotAddr slot + 64) % 2 ^ 56) 64 false
    | none => false

/-- LOTTERY_DRAW (R65): one draw among the queues eligible for the lowest-numbered free place at the highest level; the winner
dispatches one unit. A draw whose winner's reads have to wait (R359, R385) is made again later (log 43). -/
def execLotteryDraw (s : State) : Outcome :=
  .next <|
    match s.drawPlace with
    | none => s
    | some (m, gang, w) =>
      let top := w.foldl (fun n e => max n e.2.1) 0
      let Q := w.filter fun e => e.2.1 = top
      let qs := Q.map (·.1)
      let forced := qs.find? fun q => 1024 ≤ (s.hub.queue q).deficit.toNat
      let x := lseedStep s.hub.lseed
      let total := (qs.map fun q => (s.hub.queue q).tickets).sum
      let win := match forced with
        | some q => some q
        | none => drawAmong s.hub qs 0 (x.toNat * total / 2 ^ 32)
      if Q.any fun e => decide (some e.1 = win) && s.dispatchHeld e.1 e.2.2 then s
      else
      let s : State := match forced with
        | some _ => s
        | none => { s with hub := { s.hub with lseed := x } }
      let s := qs.foldl (fun s q => s.onQueue q fun r =>
        { r with deficit := if some q = win then 0 else BitVec.ofNat 11 (min (r.deficit.toNat + 1) 2047) }) s
      match Q.find? (fun e => some e.1 = win) with
      | some (_, _, .husk ctx) => s.soon (BitVec.ofNat 3 m) (.huskResume (BitVec.ofNat 3 m) ctx)
      | some (q, _, .unit slot) =>
        (match s.hub.launch q slot with
         | some l => s.dispatchUnit l m gang
         | none => s)
      | none => s

/-! ### Completion (R47, R52, R53, R66) -/

/-- Decrement the DEPS of the record at a DVA (R51): whether it was done. -/
def State.decDeps (s : State) (q : BitVec 6) (job : BitVec 8) (a : Nat) : Bool × State :=
  let (w, s) := s.hubReadBytes job ((a + 36) % 2 ^ 56) 4
  match w with
  | none => (false, s)
  | some v =>
    let deps := v / 2 ^ 9 % 65536
    if deps = 0 then (true, s.onQueue q fun r => { r with err := setBit r.err 1 true })
    else s.hubWriteBytes job ((a + 36) % 2 ^ 56) 4 (v - 2 ^ 9)

/-- The successors of a list at a DVA, in order: whether every access was performed. -/
def State.decList (s : State) (q : BitVec 6) (job : BitVec 8) (a : Nat) : Nat → Bool × State
  | 0 => (true, s)
  | n + 1 =>
    let (w, s) := s.hubReadBytes job a 8
    let (ok, s) := match w with
      | some w => s.decDeps q job (w % 2 ^ 56)
      | none => (false, s)
    let (ok', s) := s.decList q job ((a + 8) % 2 ^ 56) n
    (ok && ok', s)

/-- The completion action of a launch (R66): whether every access was performed. -/
def State.completion (s : State) (l : Launch) : Bool × State :=
  let tgt := l.fld 384 56
  if l.fld 440 2 = 1 then
    let (w, s) := s.hubReadBytes l.job tgt 8
    match w with
    | some w => s.hubWriteBytes l.job tgt 8 ((w + 1) % 2 ^ 64)
    | none => (false, s)
  else if l.fld 440 2 = 2 then s.decList l.queue l.job tgt (l.fld 442 6)
  else (true, s)

/-- QHEAD passes the completed launches that lead their queue (R62). -/
def State.advanceHead (s : State) (q : BitVec 6) : Nat → State
  | 0 => s
  | n + 1 =>
    match s.hub.launches.find? (fun l => l.queue = q) with
    | some l =>
      if l.complete then
        let s : State := { s with hub := { s.hub with launches := s.hub.launches.filter fun o => !(o.queue = q && o.slot = l.slot) } }
        (s.onQueue q fun r => { r with head := l.slot + 1 }).advanceHead q n
      else s
    | none => s

/-- Whether the accesses that complete a launch have to wait (R359, R385): the header of its status area, its completion target, its list
and the DEPS of the records that the list names. -/
def State.completionHeld (s : State) (l : Launch) : Bool :=
  let saddr := l.fld 448 56
  let tgt := l.fld 384 56
  let n := l.fld 442 6
  let rec_ := fun (i : Nat) => match (s.hubReadBytes l.job ((tgt + 8 * i) % 2 ^ 56) 8).1 with
    | some w => s.hubHeld l.job ((w % 2 ^ 56 + 36) % 2 ^ 56) 4 true
    | none => false
  (saddr ≠ 0 && s.hubHeld l.job saddr 32 true) || (l.fld 440 2 = 1 && s.hubHeld l.job tgt 8 true) ||
    (l.fld 440 2 = 2 && (s.hubHeld l.job tgt (8 * n) false || (List.range n).any rec_))

/-- LAUNCH_COMPLETE (R52): the release, the status area, the completion action and the counts, in this order, once no access of theirs
has to wait (R359, R385). -/
def execLaunchComplete (q : BitVec 6) (slot : BitVec 32) (s : State) : Outcome :=
  .next <|
    match s.hub.launch q slot with
    | none => s
    | some l =>
      if l.complete || !l.spent || s.completionHeld l then s
      else
        let s := s.mergeViews fun w => w.launch = some (q, slot)
        let saddr := l.fld 448 56
        let n := fun (x : Nat) => if l.refused then 0 else x
        let head := n l.exited + n l.failed * 2 ^ 64 + n l.cancelledN * 2 ^ 128 +
          (if l.refused then 2 ^ 63 else l.first.toNat) * 2 ^ 192
        let (ok1, s) := if saddr = 0 then (true, s) else s.hubWriteBytes l.job saddr 32 head
        let (ok2, s) := s.completion l
        let s := if ok1 && ok2 then s else s.hacc q
        let chain := if l.uncounted then [] else s.hub.chain l.gid.toNat
        let s : State := { s with hub := countUp s.hub chain }
        let fails : Bool := l.refused || 0 < l.failed
        let s : State := if fails then { s with hub := failUp s.hub chain } else s
        let s := if 0 < l.failed then s.onQueue q fun r => { r with err := setBit r.err 3 true } else s
        let s := s.onLaunch q slot fun l => { l with complete := true }
        s.advanceHead q s.hub.launches.length

/-! ### Cancel (R72, R73) -/

/-- Mark a level entry as cancelled. -/
def Hub.mark (h : Hub) (k : Nat) : Hub := h.setLevel k (setBit (h.level k) 78 true)

/-- Mark an entry and every entry below it (R73), whatever their VALID (DESIGN CHOICE, log 56); `lev` 1 graph, 2 phase, 3 job. -/
def Hub.markTree (h : Hub) (lev n : Nat) : Hub :=
  let graphsOf := fun (h : Hub) (p : Nat) =>
    ((List.range 4096).filter fun g => lvParent (h.level (graphKey g)) = p).foldl (fun h g => h.mark (graphKey g)) h
  if lev = 1 then h.mark (graphKey n)
  else if lev = 2 then graphsOf (h.mark (phaseKey n)) n
  else
    let ps := (List.range 1024).filter fun p => lvParent (h.level (phaseKey p)) = n
    ps.foldl (fun h p => graphsOf (h.mark (phaseKey p)) p) (h.mark (jobKey n))

/-- Whether a launch lies under a target of a cancel. -/
def Hub.underTarget (h : Hub) (lev n : Nat) (l : Launch) : Bool :=
  let c := h.chain l.gid.toNat
  if lev = 1 then c.contains (graphKey n) else if lev = 2 then c.contains (phaseKey n) else c.contains (jobKey n)

/-- CANCEL_WRITE (R72, R73): refused, ERR; accepted, the target is marked and every launch under it that is submitted and not
completed is cancelled at once. -/
def execCancelWrite (v : BitVec 64) (s : State) : Outcome :=
  .next <|
    let lev := wfld v 0 2
    let q : BitVec 6 := BitVec.ofNat 6 (wfld v 2 6)
    let n := wfld v 8 12
    let slot : BitVec 32 := BitVec.ofNat 32 (wfld v 20 32)
    let r := s.hub.queue q
    let bad : Bool := s.hub.cancelBusy || wfld v 52 12 ≠ 0 || (lev = 2 && 1023 < n) || (lev = 3 && 255 < n) ||
      (lev = 0 && decide ((r.tail - r.head).toNat ≤ (slot - r.head).toNat))
    if bad then { s with hub := { s.hub with cancelErr := true } }
    else
      let hit := fun (l : Launch) => !l.complete && (if lev = 0 then l.queue = q && l.slot = slot else s.hub.underTarget lev n l)
      let ls := s.hub.launches.filter hit
      let hub := if lev = 0 then s.hub else s.hub.markTree lev n
      let s : State := { s with hub := { hub with cancelBusy := true, launches := hub.launches.map fun l => if hit l then { l with cancelled := true } else l } }
      ls.foldl (fun s l => if l.began && !l.refused then s.cancelUnits { l with cancelled := true } else s) s

/-- SCTL_WRITE (R64, R77): ignored in SAFE (R369). -/
def execSctlWrite (v : BitVec 64) (s : State) : Outcome :=
  .next (if s.plat.safe then s else { s with hub := { s.hub with run := v.getLsbD 0 } })

/-- LSEED_WRITE (R64): zero stores 1. -/
def execLseedWrite (v : BitVec 64) (s : State) : Outcome :=
  let x : BitVec 32 := v.truncate 32
  .next { s with hub := { s.hub with lseed := if x = 0 then 1 else x } }

/-! ### What the scheduler does of itself -/

/-- The launches that a cancel has reached before they began: they begin at once, without regard to their DEPS, to the launches
before them, or to the queue (R73). -/
def Hub.cancelledWaiting (h : Hub) : List Launch := h.launches.filter fun l => l.cancelled && !l.began && !l.complete

/-- Whether the next launch of a queue may begin (R50, R62), or cannot be read; a slot in host memory is read once it may be (R359, R385). A
queue that is disabled begins none (R60). For a successor with TAIL = 1, a cancelled launch whose units have retired without dispatch
counts as one whose units have all been dispatched (DESIGN CHOICE, log 68). -/
def State.startable (s : State) (q : BitVec 6) : Option (BitVec 32) × State :=
  let ls := s.hub.launches.filter fun l => l.queue = q
  match ls.find? (fun l => !l.began && !l.complete && !l.cancelled) with
  | none => (none, s)
  | some l =>
    let r := s.hub.queue q
    if !(s.hub.run && r.draws && !s.hub.modeBusy) || s.hubHeld r.job (r.slotAddr l.slot) 64 false then (none, s)
    else
      let prev := ls.find? fun p => p.slot + 1 = l.slot
      let after : Bool := match prev with | none => true | some p => p.complete
      let sent : Bool := match prev with | none => true | some p => p.began && p.total ≤ p.next
      let (d, s) := s.hubRead r.job (r.slotAddr l.slot + 36) 1
      let (t, s) := s.hubRead r.job (r.slotAddr l.slot + 12) 1
      match d, t with
      | some d, some t =>
        let deps := natOfLanes d / 2 ^ 9 % 65536
        let tail : Bool := natOfLanes t / 2 ^ 28 % 2 = 1
        (if deps = 0 && (after || (tail && sent)) then some l.slot else none, s)
      | _, _ => (none, s.regionFault q)

/-- Pre-emption requests and expiries for the unit of a master (R68, R69): what asks is a queue with a unit bound to the unit's
own place. For a higher level the queue has to be eligible but for the place, for the slice it need not be. A request that stands is
measured against PDEAD as it now is (DESIGN CHOICE, log 23). -/
def State.askUnit (s : State) (c : BitVec 3) : State :=
  match (s.coach c).unit with
  | none => s
  | some u =>
    if u.master ≠ c then s
    else
      let q := (s.coach c).sq
      match q.preempt with
      | some p =>
        if !p.hard && p.stamp + s.hub.pdead.toNat * Config.usTicks ≤ s.now then s.later c (.pdeadExpiry c u.ctx p.stamp) else s
      | none =>
        let here := s.hub.bound u.master.toNat u.gsize.toNat
        let eligible := if s.hub.run then s.wanting u.master.toNat u.gsize.toNat else []
        let ran : Bool := s.hub.slice ≠ 0 && u.since + s.hub.slice.toNat * Config.usTicks ≤ s.now
        if 4096 ≤ s.contexts.length then s
        else if eligible.any fun w => decide (u.prio.toNat < w.2.1) then s.later c (.preemptRequest c false)
        else if ran && here.any (fun w => w.2.1 = u.prio.toNat) then s.later c (.sliceExpiry c u.ctx u.since)
        else s

/-- The scheduler's turn in one ic: launches begin and complete, pins are tried again, requests are made, and a draw takes
place within 8 ns of a queue's becoming eligible (R65). -/
def State.schedTurn (s : State) : State :=
  let cs := (List.range 8).map (BitVec.ofNat 3)
  let s := cs.foldl (fun s c => match (s.coach c).sq.phase with
    | .pinning false => s.startUnit c
    | _ => s) s
  if s.hub.launches.isEmpty then { s with hub := { s.hub with cancelBusy := false } }
  else
    let qs := (s.hub.launches.map (·.queue)).eraseDups
    let s := s.hub.cancelledWaiting.foldl (fun (s : State) (l : Launch) => s.later 0 (.launchDispatchBegin l.queue l.slot)) s
    let s := qs.foldl (fun s q =>
      let (b, s) := s.startable q
      match b with
      | some i => s.later 0 (.launchDispatchBegin q i)
      | none => s) s
    let s := (s.hub.launches.filter s.hub.mustRetire).foldl State.retireCancelled s
    let s := (s.hub.launches.filter fun l => l.spent && !l.complete).foldl (fun s l => s.later 0 (.launchComplete l.queue l.slot)) s
    let s := cs.foldl State.askUnit s
    let busy := s.hub.launches.any fun l => l.cancelled && !l.spent
    let s : State := { s with hub := { s.hub with cancelBusy := s.hub.cancelBusy && busy } }
    if s.drawPlace.isSome && !(s.timers.any fun t => t.2.2 = .lotteryDraw) then
      let (d, s) := s.choose 15
      if d = 0 then s.later 0 .lotteryDraw else s.timer (s.now + 5 * d) 0 .lotteryDraw
    else s

end Sys2Proof.Machine
end

