-- ==== Sys2Proof/Machine/Fabric.lean ====
section
/-! DEFINITION. The events of the optical fabric: flits, lanesets, spare channels, calendars, port states and pod beats
(spec/25_fabric.md R340 to R357). -/

namespace Sys2Proof.Machine

open Sys2Proof

/-- The eight ports, lanesets or coaches. -/
def eight : List (BitVec 3) := (List.range 8).map (BitVec.ofNat 3)

/-! ### Channels (R340, R346, R349) -/

/-- A channel of a laneset. -/
def Laneset.chan (k : Laneset) (c : BitVec 7) : Channel :=
  match k.chans.find? (fun e => e.1 = c) with
  | some e => e.2
  | none => Channel.reset c

/-- Replace a channel of a laneset. -/
def Laneset.setChan (k : Laneset) (c : BitVec 7) (v : Channel) : Laneset :=
  { k with chans := (c, v) :: k.chans.filter fun e => e.1 ≠ c }

/-- The physical channel that carries a logical position. -/
def Laneset.carrier (k : Laneset) (pos : BitVec 6) : BitVec 7 :=
  match k.map.find? (fun e => e.1 = pos) with
  | some e => e.2
  | none => pos.zeroExtend 7

/-- The logical position that a channel carries, if it carries one. -/
def Laneset.carried (k : Laneset) (c : BitVec 7) : Option (BitVec 6) :=
  ((List.range 64).map (BitVec.ofNat 6)).find? fun p => k.carrier p = c

/-- The lowest-numbered spare channel that no remap has taken or is taking (R346). -/
def Laneset.spare (k : Laneset) : Option (BitVec 7) :=
  ([64, 65, 66, 67].map (BitVec.ofNat 7)).find? fun c => (k.chan c).role = 1 && !(k.switches.any fun w => w.2.1 = c)

/-- Begin the remap of a degraded data channel (R346): the receiver picks the spare and names a switch SEQ 16 past the
current one; with no spare left the channel stays in use. -/
def State.startRemap (s : State) (p l : BitVec 3) (c : BitVec 7) : State :=
  let k := (s.port p).lane l
  match k.carried c, k.spare with
  | some pos, some sp =>
    if k.switches.any (fun w => w.1 = pos) then s
    else
      let n := k.rxseq + 16
      let s := s.onPort p fun o => o.onLane l fun k => { k with switches := k.switches ++ [(pos, sp, n)] }
      s.control p l (.remap pos sp n)
  | _, _ => s

/-- A remap takes its switch flit (R346): the spare carries the position, the old channel is retired, RGEN and RMAP count,
and an event of kind 1 is posted. -/
def State.remapDone (s : State) (p l : BitVec 3) (pos : BitVec 6) (spare : BitVec 7) : State :=
  let old := ((s.port p).lane l).carrier pos
  let s := s.onPort p fun o =>
    let o := o.onLane l fun k =>
      let k := k.setChan old { k.chan old with role := 2 }
      let k := k.setChan spare { k.chan spare with role := 0 }
      let m := (pos, spare) :: k.map.filter fun e => e.1 ≠ pos
      let w := k.switches.filter fun w => w.1 ≠ pos
      ({ k with map := m, switches := w }).bump 5 1
    { o with rgen := o.rgen + 1 }
  s.fabEvent 1 p.toNat l.toNat old.toNat 0

/-- REMAP_RECEIVE (R346): as sender, this side sends the position on the spare channel from the named flit on. -/
def execRemapReceive (p l : BitVec 3) (pos : BitVec 6) (spare : BitVec 7) (n : BitVec 16) (s : State) : Outcome :=
  .next (s.onPort p fun o => o.onLane l fun k => { k with txmap := (pos, spare, n) :: k.txmap.filter fun e => e.1 ≠ pos })

/-- REMAP_SWITCH (R346). -/
def execRemapSwitch (p l : BitVec 3) (pos : BitVec 6) (spare : BitVec 7) (s : State) : Outcome := .next (s.remapDone p l pos spare)

/-- FRMAP_WRITE (R346, R347): firmware names a channel to remap. -/
def execFrmapWrite (p : BitVec 3) (v : BitVec 64) (s : State) : Outcome :=
  .next (s.startRemap p (v.truncate 3) (v.extractLsb' 3 7))

/-- Change every channel that is listed or carries data. -/
def Laneset.onChans (k : Laneset) (f : BitVec 7 → Channel → Channel) : Laneset :=
  ((List.range 68).map (BitVec.ofNat 7)).foldl (fun k c => k.setChan c (f c (k.chan c))) k

/-- CORRECTION_WINDOW_END (R346): in each laneset the channels whose corrected bytes passed THR with AUTO = 1 are remapped, and
a channel whose received power fell below the floor, which is measured (log 18); the counts start again. A window ends at each pod
beat whose number is a multiple of 512 (log 27). -/
def execCorrectionWindowEnd (s : State) : Outcome :=
  let lane := fun (s : State) (p l : BitVec 3) =>
    let o := s.port p
    let k := o.lane l
    let hot := (k.chans.filter fun e => o.auto && e.2.role = 0 && o.spthr < e.2.window).map (·.1)
    let (d, s) := if k.up then s.choose 65 else (64, s)
    let weak := if d < 64 then [k.carrier (BitVec.ofNat 6 d)] else []
    let s := (hot ++ weak).foldl (fun s c => s.startRemap p l c) s
    s.onPort p fun o => o.onLane l fun k => { k with chans := k.chans.map fun e => (e.1, { e.2 with window := 0 }) }
  let s := eight.foldl (fun s p => eight.foldl (fun s l => lane s p l) s) s
  .next s

/-- One refresh of a channel's record (R349): measured drive current, the received power that the peer has returned, the efficiency
index from them, and the on-time of a channel that is lit, the 512 pod beats of a refresh at a time. While the received power is not
known, PRXP is 0 and EFF keeps its value. Log 32. -/
def refreshChannel (p : Nat) (lit : Bool) (draw : Nat) (power : List (BitVec 16)) (l : Nat) (c : BitVec 7) (ch : Channel) : Channel :=
  let d := draw + 2 * (68 * l + c.toNat)
  let i := Config.measure d
  let r := power[c.toNat]?
  let base := i.toNat * Config.mfgIndex (544 * p + 68 * l + c.toNat)
  let e := match r with
    | none => ch.eff
    | some r => if base = 0 then Config.measure (d + 1) else BitVec.ofNat 16 (min 65535 (r.toNat * 2 ^ 30 / base))
  { ch with idrv := i, prxp := r.getD 0, eff := e, ont := if lit && ch.role = 0 then ch.ont + 1048576 else ch.ont }

/-- What this side measures on the channels of a laneset that its peer drives (R349). -/
def measuredPower (draw l : Nat) : List (BitVec 16) := (List.range 68).map fun c => Config.measure (draw + 1088 + 68 * l + c)

/-- AGEING_REFRESH (R349): every record is refreshed, and each laneset that is up returns to its peer, in link control, the power that
it receives. -/
def execAgeingRefresh (s : State) : Outcome :=
  let lane := fun (p : BitVec 3) (lit : Bool) (s : State) (l : BitVec 3) =>
    let s := s.onPort p fun o => o.onLane l fun k => k.onChans (refreshChannel p.toNat lit s.draw k.power l.toNat)
    if ((s.port p).lane l).up then s.control p l (.power (measuredPower s.draw l.toNat)) else s
  let port := fun (s : State) (p : BitVec 3) =>
    let lit : Bool := (s.port p).st ≠ 0 && (s.port p).st ≠ 5
    let s := eight.foldl (lane p lit) s
    ({ s with draw := s.draw + 2176 } : State)
  .next (eight.foldl port s)

/-- Hours until a linear fit of hourly samples reaches a threshold (R349); without a decline, all ones. Log 32. -/
def projectedHours (samples : List (BitVec 16)) (thr : BitVec 16) : BitVec 32 :=
  let n : Int := samples.length
  let xs : List (Int × Int) := (List.range samples.length).zip samples |>.map fun e => ((e.1 : Int), (e.2.toNat : Int))
  let st := (xs.map fun e => e.1).sum
  let sy := (xs.map fun e => e.2).sum
  let sty := (xs.map fun e => e.1 * e.2).sum
  let stt := (xs.map fun e => e.1 * e.1).sum
  let den := n * stt - st * st
  let num := n * sty - st * sy
  if den ≤ 0 || 0 ≤ num then 0xFFFFFFFF
  else
    let a := sy * den - num * st
    let left := a + num * (n - 1) * n - (thr.toNat : Int) * n * den
    if left ≤ 0 then 0 else BitVec.ofNat 32 (min 0xFFFFFFFE (left / (-num * n)).toNat)

/-- EFF_HOURLY_SAMPLE (R349, R357): each channel keeps its last 512 samples and projects its end of life; an EOLH that falls
below 8,760 h posts an event of kind 10. -/
def execEffHourlySample (s : State) : Outcome :=
  let lane := fun (s : State) (p l : BitVec 3) =>
    let thr := s.fab.eolth
    let k := (s.port p).lane l
    let k' := k.onChans fun _ ch =>
      let h := (ch.samples ++ [ch.eff]).drop (ch.samples.length + 1 - 512)
      { ch with samples := h, eolh := projectedHours h thr }
    let low := (k'.chans.filter fun e => decide (e.2.eolh.toNat < 8760) && decide (8760 ≤ (k.chan e.1).eolh.toNat)).map (·.1)
    let s := s.onPort p fun o => o.onLane l fun _ => k'
    low.foldl (fun s c => s.fabEvent 10 p.toNat l.toNat c.toNat 0) s
  let s := eight.foldl (fun s p => eight.foldl (fun s l => lane s p l) s) s
  .next (s.timer (s.now + 32400000000000) 0 .effHourlySample)

/-! ### Port states (R352) -/

/-- Put a port into a state and report it to the peer on every laneset that is up. -/
def State.portState (s : State) (p : BitVec 3) (st : BitVec 3) : State :=
  let now := s.now
  (s.onPort p fun o => { o with st := st, stamp := now }).controlAll p (.state st)

/-- A port goes DOWN: its pieces are returned. -/
def State.portDown (s : State) (p : BitVec 3) (hold : Bool) : State :=
  let s := (s.returnPieces p).portState p 0
  s.onPort p fun o => { o.lanesDown with dhold := o.dhold || hold }

/-- A port enters RELOCK (R352, R353): its pieces are returned, each laneset sends its identity, the relay credits of its next
hop end, and 100 µs run. -/
def State.portRelock (s : State) (p : BitVec 3) : State :=
  let s := (s.returnPieces p).portState p 1
  let s : State := { s with fab := { s.fab with credits := s.fab.credits.filter fun c => c.1 ≠ p.zeroExtend 10 } }
  let me := s.fab.pkgid
  let s := s.onPort p fun o =>
    let o := o.lanesDown
    { o with peer := 0, lanes := o.lanes.map fun k => { k with ctl := [.identity me p o.cgen] } }
  s.timer (s.now + 900000) 0 (.portRelockTimeout p s.now)

/-- A port enters DARK or RELOCK as its slot says. -/
def State.portSlot (s : State) (p : BitVec 3) : State :=
  if (s.port p).dark then
    ((s.returnPieces p).portState p 5).onPort p Port.lanesDown
  else s.portRelock p

/-- A port becomes quiet once a marker has come on every laneset that is up and every piece and marker that it sent is
acknowledged, also on a laneset that relocks alone (R352). -/
def State.tryQuiet (s : State) (p : BitVec 3) : State :=
  let o := s.port p
  let busy := fun (k : Laneset) => k.ctl.contains .marker || k.sent.any fun f => isPiece f.msg || f.msg = .marker
  if o.st = 3 && !(eight.any fun l => busy (o.lane l)) && !(o.ups.any fun l => !(o.lane l).marker) then s.portState p 4 else s

/-- A port leaves OPEN to quiesce: a marker follows the last flit on each laneset, and 100 µs run. -/
def State.portQuiesce (s : State) (p : BitVec 3) : State :=
  let s := (s.portState p 3).controlAll p .marker
  s.timer (s.now + 900000) 0 (.quiesceTimeout p s.now)

/-- PCTL_QREQ (R352). -/
def execPctlQreq (p : BitVec 3) (s : State) : Outcome := .next (if (s.port p).st = 2 then s.portQuiesce p else s)

/-- PCTL_DOWNREQ (R352). -/
def execPctlDownreq (p : BitVec 3) (s : State) : Outcome := .next (s.portDown p true)

/-- Leave the hold of a port that DOWNREQ has put DOWN. -/
def State.unhold (s : State) (p : BitVec 3) : State := s.onPort p fun o => { o with dhold := false }

/-- PCTL_QCLR (R352). -/
def execPctlQclr (p : BitVec 3) (s : State) : Outcome :=
  .next <|
    if (s.port p).st = 6 then (s.portSlot p).fabEvent 5 p.toNat 0 0 0
    else if (s.port p).st = 0 then s.unhold p
    else s

/-- PCTL_RELOCK (R352). -/
def execPctlRelock (p : BitVec 3) (s : State) : Outcome :=
  .next (if (s.port p).st = 4 then s.portRelock p else if (s.port p).st = 0 then s.unhold p else s)

/-- LIGHT_TEST (R352): whether light is received is the environment's (log 18). -/
def execLightTest (p : BitVec 3) (s : State) : Outcome :=
  let (d, s) := s.choose 2
  let o := s.port p
  let s := if o.st = 0 && !o.dhold && !o.dark && d = 1 && !s.plat.safe && 7 < s.plat.step.toNat then s.portRelock p else s
  .next (s.timer (s.now + 9000000) 0 (.lightTest p))

/-- PORT_RELOCK_TIMEOUT (R352): 100 µs in RELOCK without a laneset that passed the check. -/
def execPortRelockTimeout (p : BitVec 3) (stamp : Nat) (s : State) : Outcome :=
  .next (if (s.port p).st = 1 && (s.port p).stamp = stamp then s.portDown p false else s)

/-- QUIESCE_TIMEOUT (R352). -/
def execQuiesceTimeout (p : BitVec 3) (stamp : Nat) (s : State) : Outcome :=
  .next (if (s.port p).st = 3 && (s.port p).stamp = stamp then (s.returnPieces p).portState p 4 else s)

/-- DRAIN_MARKER_RECEIVE (R352). -/
def execDrainMarkerReceive (p l : BitVec 3) (s : State) : Outcome :=
  let s := s.onPort p fun o => o.onLane l fun k => { k with marker := true }
  .next ((if (s.port p).st = 2 then s.portQuiesce p else s).tryQuiet p)

/-- PEER_STATE_REPORT (R352): a peer that takes no data is sent none, and its unacknowledged pieces return. -/
def execPeerStateReport (p : BitVec 3) (st : BitVec 3) (s : State) : Outcome :=
  let s := s.onPort p fun o => { o with peer := st }
  .next (if st = 2 || st = 3 then s else s.returnPieces p)

/-- LANESET_LOCK (R352, R353): the identity that a laneset receives is checked against the active slot; after a relock alone the flits
that it keeps are replayed (R344), and a laneset that joins reports the port's state, and sends its drain marker where the port quiesces
(R352). A port that opens takes its peer to be OPEN until it reports otherwise (DESIGN CHOICE, log 60), and advertises its relay credits,
as one that stays open does once where its peer relocks (R354). A check that fails is reported on its laneset too. -/
def execLanesetLock (p l : BitVec 3) (pkg : BitVec 10) (port : BitVec 3) (s : State) : Outcome :=
  let o := s.port p
  .next <|
    if !(o.st = 1 || o.st = 2 || o.st = 3) then s
    else if pkg ≠ o.peerPkg || port ≠ o.peerPort then
      let t := (s.returnPieces p).portState p 6
      (if (o.lane l).up then t else t.control p l (.state 6)).fabEvent 4 p.toNat l.toNat 0 pkg.toNat
    else
      let k := o.lane l
      let again := k.relock.isSome
      let trip := (Config.measure s.draw).zeroExtend 64
      let s : State := { s with draw := s.draw + 1 }
      let s := s.onPort p fun o => o.onLane l fun k =>
        { k with up := true, lost := false, relock := none, nakking := false, count := vwr k.count 6 trip,
                 replay := if again then k.sent.map (·.seq) else k.replay }
      let s := if k.lost then s.fabEvent 3 p.toNat l.toNat 0 0 else s
      if o.st = 1 then
        let s := (s.portState p 2).onPort p fun o => { o with peer := 2 }
        s.control p l (.credits (512 - s.placesHeld p))
      else
      let s := if k.up then s else s.control p l (.state o.st)
      let s := if o.peer = 1 then (s.control p l (.credits (512 - s.placesHeld p))).onPort p fun o => { o with peer := 0 } else s
      if o.st = 3 && !k.ctl.contains .marker && !k.sent.any (fun f => f.msg = .marker) then s.control p l .marker
      else s

/-! ### Flits (R343, R344) -/

/-- Drop the flits that an ACK covers: those whose SEQ it is at or past (R343). -/
def ackSent (l : List SentFlit) (ack : BitVec 16) : List SentFlit := l.filter fun f => !seqPast ack f.seq

/-- LINK_NAK_RECEIVE (R344): the sender is to send again from the named flit on; at its fourth NAK the laneset relocks alone, and a
port that then has no laneset up goes DOWN (R352). -/
def execLinkNakReceive (p l : BitVec 3) (n : BitVec 16) (s : State) : Outcome :=
  let k := (s.port p).lane l
  .next <|
    match k.sent.find? (fun f => f.seq = n) with
    | none => s
    | some f =>
      let now := s.now
      let s := s.onPort p fun o => o.onLane l fun k =>
        { k with sent := k.sent.map fun g => if g.seq = n then { g with naks := g.naks + 1 } else g }
      if 4 ≤ f.naks + 1 then
        let me := s.fab.pkgid
        let s := s.onPort p fun o => o.onLane l fun k =>
          { k with up := false, relock := some now, ctl := .identity me p o.cgen :: k.ctl, replay := [] }
        if (s.port p).ups.isEmpty then s.portDown p false else s.timer (now + 900000) 0 (.lanesetRelockTimeout p l now)
      else s.onPort p fun o => o.onLane l fun k =>
        { k with replay := (k.sent.filter fun g => seqPast g.seq n).map (·.seq) }

/-- The item, and its context's coach, that a piece of this package belongs to. -/
def pieceItem : LinkMsg → Option (BitVec 3 × Nat)
  | .putLine _ m => some (m.scoach, m.item)
  | .remote m => some (m.scoach, m.item)
  | _ => none

/-- Where a piece of this package fails (R299): its DVA, or 64 times its source line. -/
def State.pieceAddr (s : State) : LinkMsg → Nat
  | .putLine _ m => (match s.item m.scoach m.item with
    | some it => 64 * ((wfld (dword it.desc 1) 6 14 + m.key) % 16384)
    | none => 0)
  | .remote m => m.dva.toNat
  | _ => 0

/-- What an acknowledgement or an answer becomes that a laneset has lost twice: its peer is told that the error lasts (log 31). -/
def lostAnswer : LinkMsg → LinkMsg
  | .ack d c id key _ dva => .ack d c id key 8 dva
  | .reply d c id key _ => .ack d c id key 8 0
  | m => m

/-- Perform again a piece that a lost laneset had not delivered (R300, R344): a second failure is lasting and counts (R371). An
answer to a peer's piece that fails twice is not dropped, nor is a relayed one, which its source judges. -/
def State.pieceAgain (s : State) (f : SentFlit) : State :=
  if f.src = 9 then
    let s := s.countError 16 4
    match pieceItem f.msg with
    | some (c, id) => (s.failItem c id 7 0 (s.pieceAddr f.msg) true).onItem c id fun o => { o with out := [] }
    | none => { s with fab := { s.fab with relay := (f.wait, lostAnswer f.msg, 9) :: s.fab.relay } }
  else { s with fab := { s.fab with relay := (f.wait, f.msg, srcAgain f.src) :: s.fab.relay } }

/-- A flit is acknowledged: a piece performed again has succeeded, which counts as transient (R371), and a relayed one leaves its place
in the relay buffer (R354). -/
def State.flitDone (s : State) (f : SentFlit) : State :=
  if !isPiece f.msg then s
  else
    let s := if againSrc f.src then s.countError 16 3 else s
    if ownSrc f.src then s else s.freePlace (BitVec.ofNat 3 f.src)

/-- LANESET_RELOCK_TIMEOUT (R344): a laneset that has not relocked within 100 µs goes down, with an event of kind 2; its
unacknowledged pieces are performed again on the remaining lanesets; without one, the port goes DOWN. -/
def execLanesetRelockTimeout (p l : BitVec 3) (stamp : Nat) (s : State) : Outcome :=
  let k := (s.port p).lane l
  .next <|
    if k.relock ≠ some stamp then s
    else
      let back := (k.sent.filter fun f => isPiece f.msg).reverse
      let owed := (k.ctl.map fun m => match m with | .credit n => n | _ => 0).sum
      let s := s.onPort p fun o => o.onLane l fun k => { k with relock := none, lost := true, sent := [], replay := [], ctl := [] }
      let anew := (k.ctl.filter fun m => match m with | .credits _ => true | _ => false)
      let s := match (s.port p).ups with
        | u :: _ => let s := anew.foldl (fun s m => s.control p u m) s; if owed = 0 then s else s.control p u (.credit owed)
        | [] => s
      let s := (back.foldl State.pieceAgain s).fabEvent 2 p.toNat l.toNat 0 0
      if (s.port p).ups.isEmpty then s.portDown p false else s

/-- A half of a PUT's line arrives (R310): with both halves the line arrives at its coach. -/
def State.putHalf (s : State) (upper : Bool) (m : PutLine) : State :=
  let same := fun (o : PutLine) => o.spkg = m.spkg && o.scoach = m.scoach && o.item = m.item && o.coach = m.coach && o.bank = m.bank && o.line = m.line
  let lowHalf : Line := BitVec.ofNat 2048 (2 ^ 1024 - 1)
  if upper then
    match s.fab.parts.find? same with
    | none => s
    | some o =>
      let whole : PutLine := { o with data := (o.data &&& lowHalf) ||| (m.data &&& ~~~lowHalf) }
      let s : State := { s with fab := { s.fab with parts := s.fab.parts.filter fun o => !same o } }
      s.later m.coach (.putArrival whole)
  else { s with fab := { s.fab with parts := s.fab.parts.filter (fun o => !same o) ++ [m] } }

/-- What a data flit for this package brings (R154, R310). -/
def State.deliver (s : State) (m : LinkMsg) : State :=
  match m with
  | .putLine upper p => s.putHalf upper p
  | .remote r => s.later r.scoach (.remoteDcopyRequest r)
  | .ack _ c id key status dva =>
    (match s.item c id with
     | some it =>
       if it.sub ≠ subTile && it.major = majPut then s.later c (.putAcknowledgement c (id, key) status) else s.ackedRun c id key status dva
     | none => s)
  | .reply _ c id key data => s.dataBack c id key data
  | _ => s

/-- What a flit of the link itself brings (R342, R344, R346, R352 to R354). -/
def State.linkMessage (s : State) (p l : BitVec 3) (m : LinkMsg) : State :=
  match m with
  | .marker => s.later 0 (.drainMarkerReceive p l)
  | .identity pkg port _ => s.later 0 (.lanesetLock p l pkg port)
  | .nak n => s.later 0 (.linkNakReceive p l n)
  | .remap pos spare n => s.later 0 (.remapReceive p l pos spare n)
  | .state st => s.later 0 (.peerStateReport p st)
  | .credit n =>
    let q : BitVec 10 := p.zeroExtend 10
    { s with fab := { s.fab with credits := (q, s.credit p + n) :: s.fab.credits.filter fun c => c.1 ≠ q } }
  | .credits n =>
    let q : BitVec 10 := p.zeroExtend 10
    { s with fab := { s.fab with credits := (q, n) :: s.fab.credits.filter fun c => c.1 ≠ q } }
  | .power v => s.onPort p fun o => o.onLane l fun k => { k with power := v }
  | _ => s

/-- The physical channel that carries a logical position in the flit of a SEQ: a spare from the switch flit on (R346). -/
def Laneset.carrierAt (k : Laneset) (seq : BitVec 16) (pos : BitVec 6) : BitVec 7 :=
  match k.switches.find? (fun w => w.1 = pos && seqPast seq w.2.2) with
  | some w => w.2.1
  | none => k.carrier pos

/-- Count corrected bytes of the flit of a SEQ on the channels that carried them (R341, R346, R349). -/
def Laneset.corrected (k : Laneset) (seq : BitVec 16) (bytes : List Nat) : Laneset :=
  let k := bytes.foldl (fun k b =>
    let c := k.carrierAt seq (BitVec.ofNat 6 (b / 4))
    let ch := k.chan c
    k.setChan c { ch with window := ch.window + 1, csymt := ch.csymt + 1 }) k
  k.bump 2 bytes.length

/-- A received pod beat number is taken at the next package beat when it is newer than the last one taken (R147, R356). -/
def State.hearBeat (s : State) (bnum : BitVec 16) : State :=
  let n : Word := (s.hub.dbeat &&& ~~~(0xFFFF : Word)) ||| bnum.zeroExtend 64
  if s.hub.dbeat.toNat < n.toNat then
    match s.timers.find? (fun t => t.2.2 = .packageBeat) with
    | some t => s.timer t.1 0 (.podBeatTake true bnum)
    | none => s
  else s

/-- An identity flit numbers a laneset anew where the peer's port relocks (R353; log 45): SEQ 1 begins the peer's numbering
again, and where this side is up its own too, its unacknowledged pieces going back to the hub's buffer, and no data goes to the peer until
it reports that it is OPEN (R352); in RELOCK any SEQ is taken. An identity out of order while this side is up tells that the peer's laneset relocks alone (R344). Each side sends its
identity at a lock, so one that has not is answered. -/
def State.hearIdentity (s : State) (p l : BitVec 3) (seq : BitVec 16) : State :=
  let o := s.port p
  let k := o.lane l
  let me : LinkMsg := .identity s.fab.pkgid p o.cgen
  if seq = 1 then
    let s : State := if k.up then { s with fab := { s.fab with relay := k.pieces ++ s.fab.relay } } else s
    let s := if k.up && (o.peer = 2 || o.peer = 3) then s.onPort p fun o => { o with peer := 1 } else s
    s.onPort p fun o => o.onLane l fun k =>
      let k := if k.up then { k with txseq := 1, sent := [], replay := [], switches := [], txmap := k.sparedAnew } else k
      { k with rxseq := 1, heard := 1, nakking := false, ctl := me :: k.ctl }
  else if o.st = 1 || seq = k.rxseq + 1 then
    s.onPort p fun o => o.onLane l fun k => { k with rxseq := seq, heard := seq, nakking := false }
  else if k.relock.isSome then s
  else s.onPort p fun o => o.onLane l fun k => { k with nakking := false, ctl := me :: k.ctl }

/-- A flit that is not good (R344): it is counted and NAKed by the number that is due. While a NAK stands, one whose SEQ reads
so is NAKed again, and another may be (log 48). -/
def State.badFlit (s : State) (p l : BitVec 3) (bits : Line) : State :=
  let k := (s.port p).lane l
  let s := s.onPort p fun o => o.onLane l fun k => ({ k with nakking := true }).bump 3 1
  let nak := fun (s : State) => s.control p l (.nak (k.rxseq + 1))
  if !k.nakking || bits.extractLsb' 1856 16 = k.rxseq + 1 then nak s
  else
    let (d, s) := s.choose 2
    if d = 0 then s else nak s

/-- FLIT_RECEIVE (R341 to R344, R352, R354): a flit that is not good is NAKed and what follows it is discarded until it
comes good; a good one acknowledges, and its contents are delivered, relayed or acted on, each flit's once. A flit of data that comes
to a port that takes none is not acknowledged, so that flits of the link itself may come with a SEQ past the one that is due; they
are taken when their SEQ is past the last one taken. Log 31. -/
def execFlitReceive (p l : BitVec 3) (bits : BitVec 2048) (s : State) : Outcome :=
  let o := s.port p
  let k := o.lane l
  .next <|
    if o.st = 0 || o.st = 5 || !s.plat.powered then s
    else
      match flitOpen bits with
      | none => s.badFlit p l bits
      | some (h, pay, seq, ack, diff) =>
        let ty := h.extractLsb' 0 4
        let data : Bool := ty = 1 || ty = 2
        let open_ : Bool := o.st = 2 || o.st = 3
        let s := s.onPort p fun o => o.onLane l fun k => ({ k with sent := ackSent k.sent ack }).corrected seq diff |>.bump 1 1
        let s := (k.sent.filter fun f => seqPast ack f.seq).foldl State.flitDone s
        let inOrder : Bool := seq = k.rxseq + 1
        let fresh : Bool := seq ≠ k.heard && seqPast seq k.heard
        let ident : Bool := ty = 4 && (o.st = 1 || open_)
        if !ident && !inOrder && (k.nakking || data || !fresh) then s.tryQuiet p
        else if data && !open_ then s.onPort p fun o => o.onLane l fun k => { k with nakking := false }
        else
          let s := if ident then s.hearIdentity p l seq
            else s.onPort p fun o => o.onLane l fun k =>
              { k with rxseq := if inOrder then seq else k.rxseq, heard := if fresh then seq else k.heard,
                       nakking := k.nakking && !inOrder }
          let s := (k.switches.filter fun w => inOrder && seqPast seq w.2.2).foldl (fun s w => s.remapDone p l w.1 w.2.1) s
          let s := if h.getLsbD 31 && ty.toNat ≤ 5 then s.hearBeat (h.extractLsb' 32 16) else s
          let m := Config.parsePayload ty pay
          let s := if 5 < ty.toNat then (if fresh then s.onPort p fun o => o.onLane l fun k => k.bump 3 1 else s)
            else if data then
              (if h.extractLsb' 4 10 = s.fab.pkgid then
                 (if h.extractLsb' 14 10 = o.peerPkg then s.deliver m else (s.deliver m).control p l (.credit 1))
               else { s with fab := { s.fab with relay := s.fab.relay ++ [(h &&& 0x7FFFFFFF, .raw ty pay (h.extractLsb' 56 8), p.toNat)] } })
            else if !fresh && !ident then s
            else if ty = 3 then s.linkMessage p l .marker
            else if ty = 0 || isPiece m then s
            else s.linkMessage p l m
          s.tryQuiet p

/-! ### Calendars and snapshots (R348, R350, R351) -/

/-- CSW_WRITE (R350): a write arms a switch; while one is armed it is ignored, with an event of kind 11. -/
def State.armSwitch (s : State) (p : BitVec 3) (v : BitVec 64) : State :=
  if (s.port p).armed then s.fabEvent 11 p.toNat 0 0 0
  else s.onPort p fun o => { o with csw := v.truncate 48, armed := true }

/-- CSW_WRITE (R350). -/
def execCswWrite (p : BitVec 3) (v : BitVec 64) (s : State) : Outcome := .next (s.armSwitch p v)

/-- A write of SCAL or a shadow slot, by its offset in the port's registers (R347, R350). -/
def State.shadowWrite (s : State) (p : BitVec 3) (off : Nat) (v : BitVec 64) : State :=
  if (s.port p).armed then s.fabEvent 11 p.toNat 0 0 0
  else if off = 0x010 then
    let b : BitVec 16 := v.truncate 16
    s.onPort p fun o => { o with scal := if b.extractLsb' 6 10 = 0 then b ||| 0x40 else b }
  else s.onPort p fun o => { o with shadow := vwr o.shadow ((off - 0x600) / 8) (v.truncate 14) }

/-- SHADOW_CALENDAR_WRITE (R350). -/
def execShadowCalendarWrite (p : BitVec 3) (off : BitVec 12) (v : BitVec 64) (s : State) : Outcome := .next (s.shadowWrite p off.toNat v)

/-- Spares left, and channels with ROLE 2 (R347, counter 7). -/
def Laneset.spares (k : Laneset) : Word :=
  let n := ([64, 65, 66, 67].filter fun c => (k.chan (BitVec.ofNat 7 c)).role = 1).length
  let r := ((List.range 68).filter fun c => (k.chan (BitVec.ofNat 7 c)).role = 2).length
  BitVec.ofNat 64 (n + r * 8)

/-- SNAP_TAKE (R348): every live counter of the eight lanesets and RGEN are taken together. -/
def execSnapTake (p : BitVec 3) (s : State) : Outcome :=
  .next (s.onPort p fun o =>
    let ls := o.lanes.map fun k => { k with snap := vwr k.count 7 k.spares }
    { o with snapTake := false, snapValid := true, snapRgen := o.rgen, lanes := ls })

/-- A write of 1 to SNAP.TAKE (R348): the snapshot is taken at the next flit boundary of laneset 0; one that waits is merged. -/
def State.askSnap (s : State) (p : BitVec 3) : State :=
  if (s.port p).snapTake then s
  else
    let t := ((s.port p).lane 0).free
    let s := s.onPort p fun o => { o with snapTake := true }
    if t ≤ s.now then s.later 0 (.snapTake p) else s.timer t 0 (.snapTake p)

/-- SLOT_BOUNDARY (R351, R352): in a calendar of two or more slots the slot that the last beat begins takes over. -/
def execSlotBoundary (p : BitVec 3) (s : State) : Outcome :=
  let o := s.port p
  .next <|
    if o.nsm = 0 then s
    else
      let n := (s.hub.dbeat.toNat - o.swBeat) / o.slotb % (o.nsm + 1)
      let s := s.onPort p fun o => { o with slot := BitVec.ofNat 6 n }
      if o.st = 0 || o.st = 6 then s else s.portSlot p

/-- CALENDAR_SWITCH (R350, R352): the shadow calendar becomes the active one, slot 0 begins, and an event of kind 9 is posted. -/
def execCalendarSwitch (p : BitVec 3) (s : State) : Outcome :=
  let st := (s.port p).st
  let beat := s.hub.dbeat.toNat
  let s := s.onPort p fun o =>
    { o with active := o.shadow, acal := o.scal, cgen := o.cgen + 1, swBeat := beat, slot := 0, armed := false }
  let s := s.fabEvent 9 p.toNat 0 0 0
  .next (if st = 0 then s else if st = 6 then (s.portSlot p).fabEvent 5 p.toNat 0 0 0 else s.portSlot p)

/-! ### Beats (R134, R147, R356) -/

/-- PACKAGE_BEAT (R147, R148, R351, R356): PBEAT counts, the fences of the package domain have their tick, a package that
makes its own pod beats makes one every 2.048 µs, and one that has taken none for 8.192 µs loses the beat. Log 40. -/
def execPackageBeat (s : State) : Outcome :=
  let s : State := { s with hub := { s.hub with pbeat := s.hub.pbeat + 1 } }
  let s := s.periodic 576 .packageBeat
  let s := (s.fencesDrained false).foldl (fun s f => s.later f.1 (.fenceScTick f.1 f.2)) s
  let guard := fun (p : BitVec 3) =>
    let o := s.port p
    let left := o.slotb - (s.hub.dbeat.toNat - o.swBeat) % o.slotb
    o.nsm ≠ 0 && o.st = 2 && s.lastPackageBeat + 576 = s.fab.lastBeat + 18432 * left
  let s := (eight.filter guard).foldl (fun s p => s.controlAll p .marker) s
  let own : Bool := s.fab.bsrc || s.fab.blost
  let since := s.lastPackageBeat - s.fab.lastBeat
  .next <|
    if own && 18432 ≤ since then s.later 0 (.podBeatTake false 0)
    else if !own && 73728 ≤ since then s.later 0 .podBeatLost
    else s

/-- POD_BEAT_LOST (R356): the package makes its own beats from now on. -/
def execPodBeatLost (s : State) : Outcome :=
  let s : State := { s with fab := { s.fab with blost := true } }
  .next ((s.fabEvent 7 0 0 0 0).later 0 (.podBeatTake false 0))

/-- POD_BEAT_TAKE (R356): DBEAT takes the number, BEAT goes into the next flit of every laneset that is up, the fences of
the pod domain have their tick, slots and calendars turn, and at a multiple of 512 a correction window ends and the ageing records
are refreshed (R346, R349). Log 27. -/
def execPodBeatTake (received : Bool) (bnum : BitVec 16) (s : State) : Outcome :=
  let n : Word := if received then (s.hub.dbeat &&& ~~~(0xFFFF : Word)) ||| bnum.zeroExtend 64 else s.hub.dbeat + 1
  .next <|
    if received && n.toNat ≤ s.hub.dbeat.toNat then s
    else
      let back : Bool := received && s.fab.blost
      let old := s.hub.dbeat.toNat
      let ports := s.fab.ports.map fun o => { o with lanes := o.lanes.map fun k => if k.up then { k with beatDue := true } else k }
      let s : State := { s with
        hub := { s.hub with dbeat := n },
        fab := { s.fab with lastBeat := s.lastPackageBeat, blost := s.fab.blost && !received, ports := ports } }
      let s := if back then s.fabEvent 8 0 0 0 0 else s
      let s := (s.fencesDrained true).foldl (fun s f => s.later f.1 (.fenceScTick f.1 f.2)) s
      let s := if n.toNat / 512 = old / 512 then s else (s.later 0 .correctionWindowEnd).later 0 .ageingRefresh
      eight.foldl (fun s p =>
        let o := s.port p
        if o.armed && o.csw.toNat ≤ n.toNat then s.later 0 (.calendarSwitch p)
        else if (n.toNat - o.swBeat) / o.slotb ≠ (old - o.swBeat) / o.slotb then s.later 0 (.slotBoundary p)
        else s) s

end Sys2Proof.Machine
end

