-- ==== Sys2Proof/Machine/Platform.lean ====
section
/-! DEFINITION. Resets, the boot steps and the start record, firmware images, islands, power and temperature
(spec/27_platform.md R365 to R369, R376, R380 to R382). -/

namespace Sys2Proof.Machine

open Sys2Proof

/-! ### The start record (R367) -/

/-- An entry without CHK: start, step, unit, kind, code. -/
def startEntry (start : BitVec 32) (step unit : BitVec 8) (kind : Nat) (code : BitVec 32) : BitVec 128 :=
  let v := start.toNat + step.toNat * 2 ^ 32 + unit.toNat * 2 ^ 40 + kind * 2 ^ 48 + code.toNat * 2 ^ 64
  BitVec.ofNat 128 (v + crc32 (bytesOf v 12) * 2 ^ 96)

/-- Whether the CHK of an entry matches; an entry not written does not count. -/
def entryOk (e : BitVec 128) : Bool := e ≠ 0 && crc32 (bytesOf e.toNat 12) = e.toNat / 2 ^ 96

/-- Write an entry of this start into the ring. -/
def State.record (s : State) (step unit : BitVec 8) (kind : Nat) (code : BitVec 32) : State :=
  let p := s.plat
  { s with plat := { p with ring := poke p.ring p.srnext.toNat (startEntry p.start step unit kind code), srnext := p.srnext + 1 } }

/-- Put a numbered entry among others in descending order. -/
def insertEntry (x : Nat × BitVec 128) : List (Nat × BitVec 128) → List (Nat × BitVec 128)
  | [] => [x]
  | y :: t => if y.1 ≤ x.1 then x :: y :: t else y :: insertEntry x t

/-- The valid entries, latest first, down to the latest one of kind 5. A start writes its entries in order, and each entry holds
its start's number; the entries of a start that wrapped round the ring go on at its beginning (log 26). -/
def Platform.latest (p : Platform) : List (BitVec 128) :=
  if p.ring.isEmpty then []
  else
    let all := (List.range 4096).filterMap fun i =>
      let e := peek p.ring i
      if entryOk e then some (i, e) else none
    let startOf := fun (e : BitVec 128) => e.toNat % 2 ^ 32
    let at_ := fun (n i : Nat) => all.any fun (x : Nat × BitVec 128) => x.1 = i && startOf x.2 = n
    let rank := fun (x : Nat × BitVec 128) =>
      8192 * startOf x.2 + x.1 + (if x.1 < 2048 && at_ (startOf x.2) 0 && at_ (startOf x.2) 4095 then 4096 else 0)
    let sorted := all.foldl (fun l x => insertEntry (rank x, x.2) l) []
    (sorted.map (·.2)).takeWhile fun e => e.extractLsb' 48 3 ≠ 5

/-- The kinds of the entries of a step and unit, latest first. -/
def Platform.kinds (p : Platform) (step unit : BitVec 8) : List (BitVec 3) :=
  (p.latest.filter fun e => e.extractLsb' 32 8 = step && e.extractLsb' 40 8 = unit).map fun e => e.extractLsb' 48 3

/-! ### The boot steps (R366) -/

/-- Units of a step; a step without units runs once, as unit 0xFF. -/
def stepUnits (step : BitVec 8) : List (BitVec 8) :=
  let n := match step.toNat with | 3 => 26 | 4 => 20 | 5 => 8 | 6 => 8 | 7 => 8 | 8 => 4 | 9 => 4 | _ => 0
  if n = 0 then [0xFF] else (List.range n).map (BitVec.ofNat 8)

/-- Every step and unit in order. -/
def bootOrder : List (BitVec 8 × BitVec 8) :=
  ((List.range 10).map fun i => BitVec.ofNat 8 (i + 1)).flatMap fun st => (stepUnits st).map fun u => (st, u)

/-- Steps with a fallback form, and steps whose last failure stops the start. -/
def stepFallback (step : BitVec 8) : Bool := 2 ≤ step.toNat && step.toNat ≤ 6
def stepSafe (step : BitVec 8) : Bool := 1 ≤ step.toNat && step.toNat ≤ 6

/-- The forms of an attempt (R368). -/
inductive BootForm where
  | normal
  | fallback
  | fails
  deriving DecidableEq, Repr

/-- The form of the next attempt at a step and unit (R368); a step without a fallback has its normal form only. Log 28. -/
def bootForm (step : BitVec 8) (kinds : List (BitVec 3)) : BootForm :=
  if !stepFallback step then .normal
  else match kinds with
    | 0 :: _ => .fallback
    | 4 :: _ => .fails
    | 2 :: 4 :: _ => .fails
    | 2 :: _ => .fallback
    | _ => .normal

/-- What follows a step and unit. -/
def bootNext (step unit : BitVec 8) : Option (BitVec 8 × BitVec 8) :=
  ((bootOrder.dropWhile fun e => !(e.1 = step && e.2 = unit)).drop 1).head?

/-! ### Firmware images (R376) -/

/-- A byte of the image area of flash. -/
def Platform.flashByte (p : Platform) (key : Nat) : Byte :=
  let e := peek p.flash key
  if e = 0 then Config.factoryFlash key else e.truncate 8

/-- Bytes of an image slot: 0 hub A, 1 hub B, 2 base-die A, 3 base-die B. -/
def Platform.flashBytes (p : Platform) (slot off n : Nat) : List Byte :=
  (List.range n).map fun i => p.flashByte (slot * 2 ^ 40 + off + i)

/-- The number that little-endian bytes stand for (R1). -/
def leNat (l : List Byte) : Nat := natOf (l.map fun b => b.toNat)

/-- The checks of an image: the CODE of the first that fails, or its SVN and digest. -/
def Platform.image (p : Platform) (slot : Nat) : Except Nat (BitVec 32 × List Byte) :=
  let f := fun (off n : Nat) => p.flashBytes slot off n
  let svn : BitVec 32 := BitVec.ofNat 32 (leNat (f 8 4))
  if leNat (f 0 4) ≠ 0x47545A49 || leNat (f 4 4) ≠ 1 then .error 1
  else if Config.shake256 (f 80 64) ≠ Config.releaseDigest then .error 2
  else if !Config.slhVerify (f 80 64) (f 0 144) (f 144 29792) then .error 3
  else if Config.shake256 (f 29936 (leNat (f 12 4))) ≠ f 16 64 then .error 4
  else if svn.toNat < p.minsvn.toNat then .error 5
  else .ok (svn, f 16 64)

/-! ### Running the steps -/

/-- Full training of a stack's interface (R129): its results, the stack's identity and a check code go to flash, and the interface runs
under them. -/
def State.trainStack (s : State) (u : BitVec 8) : State :=
  let id := Config.stackIdent u.toNat s.plat.start.toNat
  let lanes := Config.trainLanes s.draw
  let t : Training := { ident := id, lanes := lanes, check := Config.trainCheck id lanes }
  let p := s.plat
  { s with draw := s.draw + 1,
           plat := { p with training := (u, t) :: p.training.filter (fun e => e.1 ≠ u),
                            tuned := (u, lanes) :: p.tuned.filter (fun e => e.1 ≠ u) } }

/-- Step 0x05 of a stack (R129, R366): full training at a cold start, in the fallback form, and where flash holds no results for this
stack or their check code fails; otherwise the stored results are restored. -/
def State.restoreStack (s : State) (u : BitVec 8) (full : Bool) : State :=
  let p := s.plat
  match p.training.find? (fun e => e.1 = u) with
  | some (_, t) =>
    if full || t.ident ≠ Config.stackIdent u.toNat p.start.toNat || t.check ≠ Config.trainCheck t.ident t.lanes then s.trainStack u
    else { s with plat := { p with tuned := (u, t.lanes) :: p.tuned.filter (fun e => e.1 ≠ u) } }
  | none => s.trainStack u

/-- How an attempt ends (R366): the failure detail, or none with its effect. The steps that verify firmware end as the checks
of R376 say; the outcome of the others is free (log 14), but step 0x01 fails again until SRSTAT.CLR (R369; log 28). -/
def State.attempt (s : State) (step unit : BitVec 8) (fallback : Bool) : Option (BitVec 32) × State :=
  let load := fun (slot : Nat) => match s.plat.image slot with
    | .error c => (some (BitVec.ofNat 32 c), s)
    | .ok i => (none, ({ s with plat := { s.plat with images := s.plat.images ++ [i] } } : State))
  let ok := Config.stepOk s.draw
  let code := Config.stepCode s.draw
  let s1 : State := { s with draw := s.draw + 1 }
  let bit := fun (v : BitVec 4) => setBit v unit.toNat true
  if step = 2 then load (if fallback then 1 else 0)
  else if step = 6 then load (if fallback then 3 else 2)
  else if step = 10 then (none, s)
  else if !ok || (step = 1 && (s.plat.kinds step unit).contains 2) then (some code, s1)
  else
    (none,
     if step = 3 then { s1 with plat := { s1.plat with islands := vwr s1.plat.islands unit.toNat 2 } }
     else if step = 5 then s1.restoreStack unit (s.plat.cold || fallback)
     else if step = 8 then { s1 with plat := { s1.plat with ethUp := bit s1.plat.ethUp } }
     else if step = 9 then { s1 with plat := { s1.plat with cxlUp := bit s1.plat.cxlUp } }
     else s1)

/-- Go on to the next step and unit; after the last the start is ready. -/
def State.bootGo (s : State) : State :=
  match bootNext s.plat.step s.plat.unit with
  | some (st, u) => { s with plat := { s.plat with step := st, unit := u, form := 0 } }
  | none => { s with plat := { s.plat with step := 0xFF, unit := 0xFF, form := 0 } }

/-- The start stops in SAFE (R368, R369): kind 3 for every later step and unit; the ports are down and nothing is scheduled. -/
def State.enterSafe (s : State) : State :=
  let later := (bootOrder.dropWhile fun e => !(e.1 = s.plat.step && e.2 = s.plat.unit)).drop 1
  let s := later.foldl (fun s e => s.record e.1 e.2 3 0) s
  let s := eight.foldl (fun s p => s.portDown p false) s
  { s with hub := { s.hub with run := false }, plat := { s.plat with safe := true, form := 0, ethUp := 0, cxlUp := 0 } }

/-- The last form of a step has failed (R366): the start stops, or the port stays down and the start continues. -/
def State.stepFails (s : State) : State :=
  let p := s.plat
  if stepSafe p.step then
    let s := if p.step = 4 then s.hubEvent (BitVec.ofNat 64 (5 + p.unit.toNat * 2 ^ 8 + s.hub.pbeat.toNat % 2 ^ 32 * 2 ^ 32)) 0 0 0 else s
    s.enterSafe
  else
    let s := if p.step = 7 then s.onPort (p.unit.truncate 3) fun o => { o with dhold := true } else s
    s.bootGo

/-- One move of a start: its first, the beginning of an attempt, or its end; an attempt takes a free time. -/
def State.bootTurn (s : State) : State :=
  let p := s.plat
  if p.safe || p.step = 0xFF || !p.powered then s
  else if p.step = 0 then { s with plat := { p with start := p.start + 1, step := 1, unit := 0xFF, form := 0 } }
  else if p.form = 0 then
    match bootForm p.step (p.kinds p.step p.unit) with
    | .normal => let s := s.record p.step p.unit 0 0; { s with plat := { s.plat with form := 1 } }
    | .fallback => let s := s.record p.step p.unit 4 0; { s with plat := { s.plat with form := 2 } }
    | .fails => s.stepFails
  else
    let (d, s) := s.choose 2
    if d = 0 then s
    else
      match s.attempt p.step p.unit (decide (p.form = 2)) with
      | (none, s) => (s.record p.step p.unit 1 0).bootGo
      | (some code, s) =>
        let s := s.record p.step p.unit 2 code
        let s := s.hubEvent (BitVec.ofNat 64 (4 + p.unit.toNat * 2 ^ 8 + s.hub.pbeat.toNat % 2 ^ 32 * 2 ^ 32))
          (BitVec.ofNat 64 (p.step.toNat + code.toNat * 2 ^ 32)) 0 0
        if p.form = 1 && stepFallback p.step then
          let s := s.record p.step p.unit 4 0
          { s with plat := { s.plat with form := 2 } }
        else s.stepFails

/-! ### Resets (R365) -/

/-- What the channels keep in flash across every reset: on-time and hourly samples (R349). -/
def keepAges (old new : Fabric) : Fabric :=
  { new with ports := Vector.ofFn fun p =>
      let o := old.ports[p]
      { new.ports[p] with lanes := Vector.ofFn fun l =>
          let k := o.lanes[l]
          { Laneset.reset with chans := k.chans.map fun e => (e.1, { Channel.reset e.1 with ont := e.2.ont, samples := e.2.samples }) } } }

/-- The platform as a reset leaves it: flash, the start record, the fuses and the management key are kept; SRNEXT is kept by a warm
reset only (R6, R370). Log 26. -/
def Platform.restart (p : Platform) (cold : Bool) : Platform :=
  { Platform.reset with
    start := p.start, cold := cold, ring := p.ring, srnext := if cold then 0 else p.srnext, minsvn := p.minsvn, mkey := p.mkey, lastSeq := p.lastSeq,
    flash := p.flash, training := p.training }

/-- The view writes that stand in buffers at a warm reset reach storage or are lost, each as it happens (log 22). -/
def settleViews (s : State) : State :=
  let waiting := s.viewLog.filter fun w => w.merged = none
  let s := waiting.foldl (fun s w => let (d, s) := s.choose 2; if d = 0 then s else mergeOne s w.n) s
  { s with viewLog := [], viewEmptied := [] }

/-- A cold reset (R365): HBM is lost, registers take their reset values. -/
def State.coldStart (s : State) : State :=
  { State.reset with
    now := s.now, inputs := s.inputs, timers := startTimers s.now, out := s.out, draw := s.draw, tier := s.tier, host := s.host,
    badTier := s.badTier, badPut := s.badPut, badHost := s.badHost, fab := keepAges s.fab { Fabric.reset with lastBeat := s.lastPackageBeat }, plat := s.plat.restart true }

/-- A warm reset (R365): HBM and the fields marked kept stay, every other register takes its reset value (R6; log 40); a mode
change in progress restarts (R41). -/
def State.warmStart (s : State) : State :=
  let s := settleViews s
  let hub : Hub := { Hub.reset with
    mode := s.hub.mode, modeBusy := s.hub.modeBusy, pgroup := s.hub.pgroup, compressed := s.hub.compressed }
  let fab : Fabric := { Fabric.reset with pkgid := s.fab.pkgid, bsrc := s.fab.bsrc, blost := s.fab.blost, rhops := s.fab.rhops, lastBeat := s.lastPackageBeat }
  let t : State :=
    { State.reset with
      now := s.now, inputs := s.inputs, timers := startTimers s.now, out := s.out, draw := s.draw, hbm := s.hbm, tier := s.tier,
      host := s.host, badHbm := s.badHbm, softHbm := s.softHbm, badTier := s.badTier, badPut := s.badPut, badHost := s.badHost, hub := hub, fab := keepAges s.fab fab, plat := s.plat.restart false }
  if s.hub.modeBusy then
    let (d, t) := t.choose 65536
    t.timer (t.now + 5 * (d + 1)) 0 .modeChangeComplete
  else t

/-- Whether a task is a management datagram that has arrived. -/
def isDatagram : Task → Bool
  | .op _ (.mgmtRead _) => true
  | .op _ (.mgmtWrite _) => true
  | .op _ (.mgmtWarm _) => true
  | .op _ (.mgmtCold _) => true
  | .op _ (.mgmtAttest _) => true
  | .op _ (.mgmtFlash _) => true
  | .op _ (.mgmtSvn _) => true
  | .op _ (.mgmtKey _) => true
  | .op _ (.mgmtUnknownOp _) => true
  | _ => false

/-- A start after a reset: the management datagrams that have arrived in this moment find the reset in progress (R378), and nothing
else that was due happens. -/
def State.booting (s : State) (was : List Task) : State := { s with agenda := was.filter isDatagram ++ [.boot] }

/-- COLD_RESET (R365). -/
def execColdReset (s : State) : Outcome := .next (s.coldStart.booting s.agenda)

/-- WARM_RESET (R365). -/
def execWarmReset (s : State) : Outcome := .next (s.warmStart.booting s.agenda)

/-- SRSTAT_WARM_WRITE (R365, R370). -/
def execSrstatWarmWrite (s : State) : Outcome := .next (s.warmStart.booting s.agenda)

/-- SRSTAT_CLR_WRITE (R369): one entry of kind 5, then a warm reset. -/
def execSrstatClrWrite (s : State) : Outcome := .next ((s.record 0 0xFF 5 0).warmStart.booting s.agenda)

/-- The module has no power: nothing of it runs until a cold reset. -/
def State.unpower (s : State) : State := { s with agenda := [], timers := [], plat := { s.plat with powered := false } }

/-- POWER_LOSS (R368). -/
def execPowerLoss (s : State) : Outcome := .next s.unpower

/-! ### Islands, power and temperature (R380 to R382) -/

/-- A platform event about a unit. -/
def State.platEvent (s : State) (kind unit : Nat) : State :=
  s.hubEvent (BitVec.ofNat 64 (kind + unit * 2 ^ 8 + s.hub.pbeat.toNat % 2 ^ 32 * 2 ^ 32)) 0 0 0

/-- ISLAND_STATE_REQUEST (R380): islands of coaches only, and out of ON only where no context occupies the place. -/
def execIslandStateRequest (i : BitVec 5) (st : BitVec 2) (s : State) : Outcome :=
  let c : BitVec 3 := i.truncate 3
  .next <|
    if 16 ≤ i.toNat || st = 3 || (st ≠ 2 && (s.coach c).unit.isSome) then s
    else
      let s : State := { s with plat := { s.plat with islands := vwr s.plat.islands i.toNat st } }
      if 8 ≤ i.toNat && st = 0 then s.onEn c fun e => { e with banks := [], full := [], fullNew := [], badBank := [], onceBank := [], softBank := [] } else s

/-- The place that a coach belongs to. -/
def State.placeOfCoach (s : State) (c : BitVec 3) : List (BitVec 3) :=
  match (s.coach c).unit with
  | some u => placeMembers u.master.toNat u.gsize.toNat
  | none => [c]

/-- The highest-numbered place that is not gated. -/
def State.gateNext (s : State) : List (BitVec 3) :=
  match (eight.filter fun c => !s.plat.gated.contains c).getLast? with
  | some c => s.placeOfCoach c
  | none => []

/-- With PMEAS above PCAP one more place is gated, highest-numbered first; the first posts an event of kind 8 (R381). -/
def State.gateMore (s : State) : State :=
  if s.plat.pcap.toNat < s.plat.pmeas.toNat then
    let t : State := { s with plat := { s.plat with gated := s.plat.gated ++ s.gateNext, capped := true } }
    if s.plat.capped then t else t.platEvent 8 0
  else s

/-- Once PMEAS has fallen to PCAP − 50 W gating ends, with an event of kind 9 (R381). -/
def State.gateLess (s : State) : State :=
  if s.plat.capped && s.plat.pmeas.toNat + 50 ≤ s.plat.pcap.toNat then
    ({ s with plat := { s.plat with gated := [], capped := false } } : State).platEvent 9 0
  else s

/-- POWER_CAP_ENGAGE (R381). -/
def execPowerCapEngage (meas : BitVec 12) (s : State) : Outcome :=
  .next ({ s with plat := { s.plat with pmeas := meas } } : State).gateMore

/-- POWER_CAP_RELEASE (R381). -/
def execPowerCapRelease (meas : BitVec 12) (s : State) : Outcome :=
  .next ({ s with plat := { s.plat with pmeas := meas } } : State).gateLess

/-- A written power cap (R381). -/
def capValue (v : BitVec 64) : BitVec 12 :=
  let n := (v.truncate 12 : BitVec 12).toNat
  BitVec.ofNat 12 (if 2600 < n then 2600 else if n < 800 then 800 else n)

/-- PCAP_WRITE (R381): the PMEAS that stands is held against the new cap at once. -/
def execPcapWrite (v : BitVec 64) (s : State) : Outcome :=
  .next ({ s with plat := { s.plat with pcap := capValue v } } : State).gateMore.gateLess

/-- THERMAL_GATE_BEGIN (R382): the die's place is gated on every other ic. -/
def execThermalGateBegin (die : BitVec 5) (s : State) : Outcome :=
  .next <|
    if s.plat.hot.contains die then s
    else ({ s with plat := { s.plat with hot := s.plat.hot ++ [die] } } : State).platEvent 6 die.toNat

/-- THERMAL_GATE_END (R382). -/
def execThermalGateEnd (die : BitVec 5) (s : State) : Outcome :=
  .next <|
    if s.plat.hot.contains die then
      ({ s with plat := { s.plat with hot := s.plat.hot.filter fun d => d ≠ die } } : State).platEvent 7 die.toNat
    else s

/-- THERMAL_SHUTDOWN (R382): an entry of kind 2 with STEP 0x00 and CODE 1, then the module removes its power. -/
def execThermalShutdown (s : State) : Outcome := .next (s.record 0 0xFF 2 1).unpower

/-- Whether a place runs no ic at this moment (R381, R382): `odd` marks every other ic. -/
def State.gatedNow (s : State) (c : BitVec 3) : Bool :=
  (s.placeOfCoach c).any fun d => s.plat.gated.contains d || (s.plat.odd && s.plat.hot.contains (d.zeroExtend 5))

end Sys2Proof.Machine
end

