-- ==== Sys2Proof/Machine/HubRegs.lean ====
section
/-! DEFINITION. The hub register window (spec/25_fabric.md R358): one read and one write of it, which hub firmware, the host and
the management port share, and the operations behind single registers (R40, R41, R46, R60, R64, R111, R112, R116, R118, R125,
R128, R134, R347 to R350, R354, R357, R360, R361, R370, R371). -/

namespace Sys2Proof.Machine

open Sys2Proof

/-- The state that an operation answers. -/
def ran (s : State) (o : Outcome) : State := match o with | .next t => t | _ => s

/-- A word with a number at a bit position. -/
def bitsAt (n lo : Nat) : Word := BitVec.ofNat 64 (n * 2 ^ lo)

/-- A Bool as 0 or 1. -/
def bn (b : Bool) : Nat := if b then 1 else 0

/-! ### NMODE (R40, R41) -/

/-- Whether no dispatch is in progress (R64, R77). One that a recorded fault delays until a flush (R115) is in progress: IDLE reads 0
(DESIGN CHOICE, log 58). -/
def State.dispatchIdle (s : State) : Bool :=
  !s.hub.run && eight.all fun c => match (s.coach c).sq.phase with | .pinning _ => false | _ => true

/-- A range of HPAs whose contents stand elsewhere after a mode change: its first HPA and length, and its new first HPA. -/
structure Reloc where
  at_ : Nat
  n   : Nat
  dest : Nat
  deriving DecidableEq, Repr

/-- Where an HPA's contents stand after a mode change. -/
def movedTo (rs : List Reloc) (a : Nat) : Nat :=
  match rs.find? fun r => r.at_ ≤ a && a < r.at_ + r.n with
  | some r => r.dest + (a - r.at_)
  | none => a

/-- Join the ranges that share bytes; the list is in ascending order of first bytes. -/
def joinHpaRanges : List (Nat × Nat) → List (Nat × Nat) → List (Nat × Nat)
  | done, [] => done
  | [], r :: t => joinHpaRanges [r] t
  | d :: done, r :: t =>
    if r.1 < d.1 + d.2 then joinHpaRanges ((d.1, max d.2 (r.1 + r.2 - d.1)) :: done) t else joinHpaRanges (r :: d :: done) t

/-- The allocated ranges of HPAs: pages that no byte of view storage is part of (a leaf that names view storage is firmware's, R103),
page tables and heap windows; those that share bytes are joined, and move together. -/
def State.allocated (s : State) : List (Nat × Nat) :=
  let pages := (s.leaves.filter fun l => l.2.2.kind = 0).map fun l => l.2.2.range
  joinHpaRanges [] (sortOn (·.1) ((pages.filter fun r => !s.hub.onView s.hub.mode r.1 r.2) ++ s.tableBlocks ++ s.hub.windows))

/-- log2 of the alignment that a range keeps: that of its largest page, and of a table. -/
def State.grainOf (s : State) (r : Nat × Nat) : Nat :=
  (s.leaves.filter fun l => l.2.2.kind = 0 && meets l.2.2.range r).foldl (fun n l => max n l.2.2.size) 12

/-- Whether a range of HPAs holds what HPAs alone name: a page table, or bytes that a heap window reaches. -/
def State.namedByHpa (s : State) (r : Nat × Nat) : Bool := (s.tableBlocks ++ s.hub.windows).any (meets r)

/-- A place for a range under a new mode: a free choice among those that hold no view storage then and meet none of some ranges. -/
def State.placeFor (s : State) (new : BitVec 2) (r : Nat × Nat) (taken : List (Nat × Nat)) : Option Nat × State :=
  let size := 2 ^ s.grainOf r
  let ok := fun (d : Nat) => decide (d + r.2 ≤ 2 ^ 39) && !(taken.any (meets (d, r.2))) && !s.hub.onView new d r.2
  let tries := (List.range 64).map fun i => r.1 % size + Config.pick (s.draw + i) % (2 ^ 39 / size) * size
  ((tries.find? ok).or (firstAt ok size (r.1 % size) (2 ^ 39 / size)), { s with draw := s.draw + 64 })

/-- Places for some ranges, the longest first, beside those that have theirs: the ranges placed, those for which there is no place, and
the state after. A place meets no range that keeps its own, and one of `rest` only where there is no other. -/
def State.placeAll (s : State) (new : BitVec 2) (done : List Reloc) (keep rest ranges : List (Nat × Nat)) :
    List Reloc × List (Nat × Nat) × State :=
  (sortOn (·.2) ranges).reverse.foldl (fun (acc : List Reloc × List (Nat × Nat) × State) r =>
    let keep := keep ++ acc.2.1 ++ acc.1.map fun o => (o.dest, o.n)
    let put := fun (d : Nat) (s : State) => (acc.1 ++ [{ at_ := r.1, n := r.2, dest := d }], acc.2.1, s)
    match acc.2.2.placeFor new r (keep ++ rest) with
    | (some d, s) => put d s
    | (none, s) => match s.placeFor new r keep with
      | (some d, s) => put d s
      | (none, s) => (acc.1, acc.2.1 ++ [r], s)) (done, [], s)

/-- The ranges that get another place under a new mode, and the pages for which HBM has none (R41, R103; log 10). What would lie over
view storage moves: first what HPAs alone name, then the pages, and with them a page whose place one of the former takes. -/
def State.relocate (s : State) (new : BitVec 2) : List Reloc × List (Nat × Nat) × State :=
  let all := s.allocated
  let hit := all.filter fun r => s.hub.onView new r.1 r.2
  let stays := fun (moving : List (Nat × Nat)) => (s.inUse.filter fun r => !(moving.any (meets r)))
  let anchors := (all.filter fun r => s.namedByHpa r && !hit.contains r) ++ s.hub.faultRing
  let (first, _, s) := s.placeAll new [] anchors (stays hit) (hit.filter s.namedByHpa)
  let pushed := all.filter fun r => !hit.contains r && first.any fun o => meets (o.dest, o.n) r
  let keep := (all.filter fun r => !(hit ++ pushed).contains r) ++ (hit.filter s.namedByHpa) ++ s.hub.faultRing
  s.placeAll new first keep (stays (hit ++ pushed)) (hit.filter (fun r => !s.namedByHpa r) ++ pushed)

/-- What names HPAs by the page tables and translation records follows a relocation: leaves of KIND 0, pointers, ROOT and OFF. -/
def State.renamed (s : State) (rs : List Reloc) : State :=
  let whole := fun (r : Nat × Nat) => rs.any fun o => decide (o.at_ ≤ r.1) && decide (r.1 + r.2 ≤ o.at_ + o.n)
  let pointer := fun (e : Nat) => e - e / 256 % 2 ^ 31 * 256 + movedTo rs (e / 256 % 2 ^ 31 * 256)
  let pointers := (s.hub.jobs.flatMap fun j => pointersFrom s walkLevels j.2.aligned.root.toNat).eraseDups
  let pages := (s.leaves.map fun l => l.2.2).filter fun l => l.kind = 0 && whole l.range
  let t := pointers.foldl (fun (t : State) p => t.hbmPut p.1 8 (pointer p.2)) s
  let t := pages.foldl (fun (t : State) l => t.hbmPut l.entry 8 (leafWith (s.hbmNat l.entry 8) 0 (movedTo rs l.tgt))) t
  let job := fun (j : JobRec) =>
    { j with
      root := BitVec.ofNat 39 (movedTo rs j.root.toNat),
      ho := if j.window.2 = 0 then j.ho else j.ho + BitVec.ofNat 56 (movedTo rs j.window.1) - BitVec.ofNat 56 j.window.1 }
  { t with hub := { t.hub with jobs := t.hub.jobs.map fun j => (j.1, job j.2.aligned) } }

/-- Whether an HPA lies in some ranges. -/
def inHpaRanges (l : List (Nat × Nat)) (a : Nat) : Bool := l.any fun r => decide (r.1 ≤ a) && decide (a < r.1 + r.2)

/-- Where a byte of HBM stands under a new mode: view storage keeps its place, every other byte follows its HPA, and none lands on
view storage (R41, R103). What lies unused in a place that a relocation takes is gone. -/
def placeAgain (h : Hub) (rs : List Reloc) (new : BitVec 2) (key : Nat) : Option Nat :=
  if h.inView key then some key
  else
    let a := hpaOf h.mode key
    let k := hbmKey new (movedTo rs a)
    if h.inView k || (!inHpaRanges (rs.map fun r => (r.at_, r.n)) a && inHpaRanges (rs.map fun r => (r.dest, r.n)) a) then none else some k

/-- Put the page at a range of HPAs, for which HBM has no place under a new mode, into the second tier (R41; log 10). -/
def State.toTier (s : State) (r : Nat × Nat) : State :=
  match (s.leaves.map fun l => l.2.2).find? fun l => l.kind = 0 && l.range = r with
  | none => s
  | some l => match s.tierPage l.size with
    | some t => let (c, s) := s.hbmContents r.1 r.2; s.intoTier l t c
    | none => s

/-- Move every allocated page to its place under a new mode (R41): what would lie over view storage gets another place, and what names
it follows (R103); a page for which there is none goes into the second tier. A word whose place changes is read, with the errors that
its read meets, and written: one that cannot be read has a free value (R371, R372; logs 10, 66). -/
def State.rehouse (s : State) (new : BitVec 2) : State :=
  let (rs, packed, s) := s.relocate new
  let s := packed.foldl State.toTier s
  let before := s.allocated ++ s.hub.faultRing
  let after := before.map fun r => (movedTo rs r.1, r.2)
  let moves := fun (w : Nat) =>
    !s.hub.inView (4 * w) && inHpaRanges before (hpaOf s.hub.mode (4 * w)) && decide (placeAgain s.hub rs new (4 * w) ≠ some (4 * w))
  let written := fun (w : Nat) => !s.hub.inView (4 * w) && inHpaRanges after (hpaOf new (4 * w)) && (moves w ||
    !inHpaRanges before (hpaOf s.hub.mode (4 * w)))
  let lost := (lastWords s.badHbm moves).filterMap fun w => placeAgain s.hub rs new (4 * w)
  let s := (s.moveWords ((errorWords s.badHbm s.softHbm moves).map .hbm)).renamed rs
  let bytes := s.hbm.foldl (fun (m : Store 8) e => match placeAgain s.hub rs new e.1 with
    | some k => poke m k e.2
    | none => m) []
  let bytes := lost.zipIdx.foldl (fun (m : Store 8) w => pokeBytes m w.1 4 (Config.lostWord (s.draw + w.2)).toNat) bytes
  { s with
    hbm := bytes, badHbm := s.badHbm.filter (fun b => !written b.1), softHbm := s.softHbm.filter (fun w => !written w),
    draw := s.draw + lost.length, hub := { s.hub with mode := new } }

/-- A write of NMODE (R40, R41): the value that stands is no change; any other needs no context, a halted scheduler and no change
under way. A write with bit 6 set clears ERR also where it writes the MODE that stands (log 37, DEDUCED). -/
def State.nmodeWrite (s : State) (v : Word) : State :=
  let new : BitVec 2 := v.truncate 2
  let s : State := if v.getLsbD 6 then { s with hub := { s.hub with modeErr := false } } else s
  if new = s.hub.mode then s
  else if new = 3 || s.hub.modeBusy || !s.contexts.isEmpty || !s.dispatchIdle then { s with hub := { s.hub with modeErr := true } }
  else
    let s := s.rehouse new
    let (d, s) := s.choose 65536
    let s : State := { s with hub := { s.hub with modeBusy := true } }
    s.timer (s.now + 5 * (d + 1)) 0 .modeChangeComplete

/-- NMODE_WRITE (R40, R41). -/
def execNmodeWrite (v : BitVec 64) (s : State) : Outcome := .next (s.nmodeWrite v)

/-- MODE_CHANGE_COMPLETE (R41): BUSY returns to 0. -/
def execModeChangeComplete (s : State) : Outcome := .next { s with hub := { s.hub with modeBusy := false } }

/-! ### The fault buffer (R111, R112) -/

/-- The cause of a denied record of the present generation for a page, context and access. -/
def Hub.deniedFor (h : Hub) (page : Nat) (ctx : BitVec 12) (acc : BitVec 2) : Option (BitVec 8) :=
  (h.fbrecs.find? fun r => r.denied && r.gen = h.fbgen && r.page = page && r.ctx = ctx && r.acc = acc).map (·.cause)

/-- Whether some record of a context is denied in the present generation. -/
def Hub.deniedCtx (h : Hub) (ctx : BitVec 12) : Bool := h.fbrecs.any fun r => r.denied && r.gen = h.fbgen && r.ctx = ctx

/-- The page on which a PROBE has faulted. -/
def Item.faultPage (it : Item) : Nat := (it.aux.headD 0).toNat / 65536 * 65536

/-- What a flush makes of a parked item: it fails when the record of its page, context and access is denied, whichever item's fault
wrote that record (DESIGN CHOICE, log 54), and resumes otherwise (R112). -/
def Item.flush (h : Hub) (ctx : BitVec 12) (it : Item) : Item :=
  if it.phase = .fault then
    match h.deniedFor it.faultPage ctx (probeAcc it) with
    | some c => { it with phase := .failed, todo := [], status := 10, subc := c, addr := BitVec.ofNat 56 (it.aux.headD 0).toNat, lasting := false }
    | none => { it with phase := .running }
  else it

/-- The items that are parked on a recorded fault (R111). -/
def State.parkedItems (s : State) : Nat :=
  let n := fun (q : Seq) => (q.items.filter fun it => it.phase = .fault).length
  (eight.map fun c => n (s.coach c).sq).sum + (s.hub.husks.map fun h => (h.saved.map fun k => n k.sq).sum).sum

/-- A write of FBFLUSH (R112, R115): denied items fail and denied units die at dispatch; then the generation goes up, and every
other parked item and delayed unit resumes. -/
def State.flushFaults (s : State) : State :=
  let h := s.hub
  let s := eight.foldl (fun s c =>
    match (s.coach c).unit with
    | none => s
    | some u =>
      let s := s.onSq c fun q => { q with items := q.items.map (Item.flush h u.ctx) }
      match (s.coach c).sq.phase with
      | .pinning true => if h.deniedCtx u.ctx then s.fatal c 0x20 else s.onSq c fun q => { q with phase := .pinning false }
      | _ => s) s
  let husks := s.hub.husks.map fun x =>
    { x with saved := x.saved.map fun k => { k with sq := { k.sq with items := k.sq.items.map (Item.flush h x.unit.ctx) } } }
  { s with hub := { s.hub with husks := husks, fbgen := s.hub.fbgen + 1 } }

/-- FBFLUSH_WRITE (R112). -/
def execFbflushWrite (v : BitVec 64) (s : State) : Outcome := .next (if v.getLsbD 0 then s.flushFaults else s)

/-- A write of FBDENY (R112): the record of the present generation with this index. -/
def State.denyFault (s : State) (v : Word) : State :=
  let h := s.hub
  let recs := h.fbrecs.map fun r => if r.idx = v.truncate 32 && r.gen = h.fbgen then { r with denied := true } else r
  { s with hub := { h with fbrecs := recs } }

/-- FBDENY_WRITE (R112). -/
def execFbdenyWrite (v : BitVec 64) (s : State) : Outcome := .next (s.denyFault v)

/-! ### Refresh (R128) -/

/-- STKREF of a stack. -/
def Hub.stk (h : Hub) (k : BitVec 3) : Stkref := h.stkref[k.toNat]'(k.isLt)

/-- Change STKREF of a stack. -/
def State.onStk (s : State) (k : BitVec 3) (f : Stkref → Stkref) : State :=
  { s with hub := { s.hub with stkref := s.hub.stkref.set k.toNat (f (s.hub.stk k)) k.isLt } }

/-- Ownership returns to the core once REL stands and four heartbeats have come in a row; REL clears then, and at a takeover
(DESIGN CHOICE, log 34). -/
def Stkref.giveBack (r : Stkref) : Stkref :=
  if r.owner && r.rel && 4 ≤ r.beats then { r with owner := false, rel := false, beats := 0, missed := 0 } else r

/-- REFRESH_HEARTBEAT (R128): a heartbeat is due; whether it arrives is free (log 6). -/
def execRefreshHeartbeat (k : BitVec 3) (s : State) : Outcome :=
  let s := s.timer (s.now + 17550) 0 (.refreshHeartbeat k)
  let (d, s) := s.choose 2
  let came : Bool := d = 0
  let r := s.hub.stk k
  .next <|
    if r.owner then s.onStk k fun r => { r with beats := if came then r.beats + 1 else 0 }.giveBack
    else
      let s := s.onStk k fun r => { r with missed := if came then 0 else r.missed + 1 }
      if !came && r.missed = 1 then
        let (t, s) := s.choose 35100
        s.timer (s.now + t + 1) 0 (.refreshTakeover k)
      else s

/-- REFRESH_TAKEOVER (R128): the hardwired engine owns refresh, TAKES counts, and an event of kind 2 is posted. -/
def execRefreshTakeover (k : BitVec 3) (s : State) : Outcome :=
  .next ((s.onStk k fun r => { r with owner := true, takes := r.takes + 1, rel := false, beats := 0, missed := 0 }).platEvent 2 k.toNat)

/-- A write of STKREF (R6, R128): a 1 sets REL, whoever owns refresh. While OWNER is 0 it stands without effect until the next
takeover clears it (DESIGN CHOICE, log 34). -/
def State.stkrefWrite (s : State) (k : BitVec 3) (v : Word) : State :=
  if v.getLsbD 16 then s.onStk k fun r => { r with rel := true }.giveBack else s

/-- STKREF_REL_WRITE (R128). -/
def execStkrefRelWrite (k : BitVec 3) (v : BitVec 64) (s : State) : Outcome := .next (s.stkrefWrite k v)

/-! ### The fabric's tables (R354, R360, R361) -/

/-- A write of a route-table entry (R354). -/
def State.routeWrite (s : State) (n : BitVec 10) (v : Word) : State :=
  { s with fab := { s.fab with routes := poke s.fab.routes n.toNat (v.truncate 20) } }

/-- ROUTE_TABLE_WRITE (R354, R355): held items are examined again in their next turn. -/
def execRouteTableWrite (n : BitVec 10) (v : BitVec 64) (s : State) : Outcome := .next (s.routeWrite n v)

/-- Items held on a port (R347, R355): held items, those in husks among them, toward a package whose route entry names the port. -/
def State.heldOn (s : State) (p : BitVec 3) : Nat :=
  (s.everyItem.filter fun it =>
    it.phase = .holding && (match s.farTarget it with
      | some t => (s.fab.route t.1).getLsbD (1 + p.toNat)
      | none => false)).length

/-! ### Reading the window -/

/-- A queue's registers (R60). -/
def QueueRegs.word (r : QueueRegs) (o : Nat) : Word :=
  if o = 0x00 then r.base.zeroExtend 64
  else if o = 0x08 then r.ctl.zeroExtend 64
  else if o = 0x10 then r.head.zeroExtend 64
  else if o = 0x18 then r.tail.zeroExtend 64
  else if o = 0x20 then r.err.zeroExtend 64
  else if o = 0x28 then r.deficit.zeroExtend 64
  else 0

/-- A port's registers (R347, R350). PCTL reads 0: what a bit asks for happens as it is written, and the bit is 0 again at once
(DESIGN CHOICE, log 59). -/
def State.portWord (s : State) (p : BitVec 3) (o : Nat) : Word :=
  let r := s.port p
  let lup := (r.ups.map fun l => 2 ^ l.toNat).sum
  if o = 0x008 then
    BitVec.ofNat 64 (r.st.toNat + lup * 2 ^ 3 + r.slot.toNat * 2 ^ 11 + bn r.dhold * 2 ^ 17 + s.heldOn p % 2 ^ 32 * 2 ^ 32)
  else if o = 0x010 then r.scal.zeroExtend 64
  else if o = 0x018 then BitVec.ofNat 64 (r.acal.toNat + r.cgen.toNat * 2 ^ 32)
  else if o = 0x020 then BitVec.ofNat 64 (r.csw.toNat + bn r.armed * 2 ^ 63)
  else if o = 0x028 then BitVec.ofNat 64 (bn r.snapTake + bn r.snapValid * 2 + r.snapRgen.toNat * 2 ^ 16)
  else if o = 0x030 then r.rgen.zeroExtend 64
  else if o = 0x038 then BitVec.ofNat 64 (r.spthr.toNat + bn r.auto * 2 ^ 32)
  else if 0x100 ≤ o && o < 0x300 then vrd (r.lane (BitVec.ofNat 3 ((o - 0x100) / 0x40))).snap ((o - 0x100) % 0x40 / 8) 0
  else if 0x400 ≤ o && o < 0x600 then (vrd r.active ((o - 0x400) / 8) 0).zeroExtend 64
  else if 0x600 ≤ o && o < 0x800 then (vrd r.shadow ((o - 0x600) / 8) 0).zeroExtend 64
  else 0

/-- An ageing record's word (R349); every ROLE of a port that is DOWN reads 3 (R352). LPOS of a channel that carries no position, a
spare or a retired one, reads 0 (DESIGN CHOICE, log 67). -/
def State.ageWord (s : State) (p : BitVec 3) (c w : Nat) : Word :=
  let r := s.port p
  let k := r.lane (BitVec.ofNat 3 (c / 68))
  let n : BitVec 7 := BitVec.ofNat 7 (c % 68)
  let ch := k.chan n
  if 544 ≤ c then 0
  else if w = 0 then
    let role : Nat := if r.st = 0 then 3 else ch.role.toNat
    let pos : Nat := match k.carried n with | some x => x.toNat | none => 0
    BitVec.ofNat 64 (ch.idrv.toNat + ch.prxp.toNat * 2 ^ 16 + ch.eff.toNat * 2 ^ 32 + role * 2 ^ 48 + pos * 2 ^ 50)
  else if w = 1 then BitVec.ofNat 64 (ch.ont / 1000000 % 2 ^ 48)
  else if w = 2 then ch.eolh.zeroExtend 64
  else ch.csymt.zeroExtend 64

/-- A word of a level entry, by offset (R46). -/
def levelKeyAt (off : Nat) : Option Nat :=
  if 0x80000 ≤ off && off < 0x90000 then some (graphKey ((off - 0x80000) / 16))
  else if 0x90000 ≤ off && off < 0x94000 then some (phaseKey ((off - 0x90000) / 16))
  else if 0x94000 ≤ off && off < 0x95000 then some (jobKey ((off - 0x94000) / 16))
  else none

/-- Key of a word of a view entry of the job that VTJOB selects (R118). -/
def Hub.viewKey (h : Hub) (off : Nat) : Nat := 1024 * h.vtjob.toNat + (off - 0xA0000) / 8

/-- The platform registers (R370), reads that change nothing. -/
def State.platWord (s : State) (o : Nat) : Word :=
  let p := s.plat
  if o = 0x00 then BitVec.ofNat 64 (p.start.toNat + p.step.toNat * 2 ^ 32 + p.unit.toNat * 2 ^ 40 + bn p.safe * 2 ^ 48)
  else if o = 0x08 then p.sridx.zeroExtend 64
  else if o = 0x10 then (peek p.ring p.sridx.toNat).truncate 64
  else if o = 0x18 then (peek p.ring p.sridx.toNat).extractLsb' 64 64
  else if o = 0x20 then p.srnext.zeroExtend 64
  else if o = 0x48 then p.latched.1
  else if o = 0x50 then p.latched.2.1
  else if o = 0x58 then p.latched.2.2
  else if o = 0x80 then p.pcap.zeroExtend 64
  else if o = 0x88 then p.pmeas.zeroExtend 64
  else if o = 0x90 then BitVec.ofNat 64 (((List.range 26).map fun i => (vrd p.islands i 0).toNat * 2 ^ (2 * i)).sum)
  else if 0x600 ≤ o && o < 0x640 then Config.identityKey ((o - 0x600) / 8)
  else if o = 0x640 then p.minsvn.zeroExtend 64
  else 0

/-- The fault buffer, the thrash detector and CMPCTL (R111, R116, R125). -/
def State.faultWord (s : State) (o : Nat) : Word :=
  let h := s.hub
  if o = 0x00 then h.fbbase.zeroExtend 64
  else if o = 0x08 then h.fbctl.zeroExtend 64
  else if o = 0x10 then h.fbhead.zeroExtend 64
  else if o = 0x18 then h.fbtail.zeroExtend 64
  else if o = 0x20 then h.fbgen.zeroExtend 64
  else if o = 0x38 then BitVec.ofNat 64 (bn h.fbovf + s.parkedItems % 65536 * 65536)
  else if o = 0x40 then h.thn.zeroExtend 64
  else if o = 0x48 then h.thw.zeroExtend 64
  else if o = 0x50 then h.tht.zeroExtend 64
  else if o = 0x60 then BitVec.ofNat 64 (bn h.cmpEn)
  else 0

/-- The scheduler and ordering registers (R64, R72, R134); SCTL.RUN reads 0 in SAFE (R369). -/
def State.schedWord (s : State) (o : Nat) : Word :=
  let h := s.hub
  if o = 0x00 then BitVec.ofNat 64 (bn (h.run && !s.plat.safe) + bn s.dispatchIdle * 2)
  else if o = 0x08 then h.lseed.zeroExtend 64
  else if o = 0x10 then h.pdead.zeroExtend 64
  else if o = 0x18 then h.slice.zeroExtend 64
  else if o = 0x20 then h.wdef.zeroExtend 64
  else if o = 0x30 then BitVec.ofNat 64 (bn h.cancelBusy + bn h.cancelErr * 2)
  else if o = 0x100 then h.pbeat
  else if o = 0x108 then h.dbeat
  else if o = 0x110 then h.pgroup.zeroExtend 64
  else 0

/-- The fabric's global registers (R357), reads that change nothing. -/
def State.fabWord (s : State) (o : Nat) : Word :=
  let f := s.fab
  if o = 0x00 then f.pkgid.zeroExtend 64
  else if o = 0x08 then BitVec.ofNat 64 (bn f.bsrc + bn f.blost * 2 + f.rhops.toNat * 4)
  else if o = 0x10 then f.hto.zeroExtend 64
  else if o = 0x18 then f.eolth.zeroExtend 64
  else 0

/-- The bits of a word of a view entry that are read: its reserved bits read zero (R7, R117). -/
def viewReadMask (w : Nat) : Word := if w = 0 then 0x000FFFFFFFFFFFFF else if w = 1 then 0x000000FFFFFFFFFF else 0

/-- The words of the window whose reads change nothing. -/
def State.plainWord (s : State) (off : Nat) : Word :=
  if 0x10000 ≤ off && off < 0x11000 then (s.hub.queue (BitVec.ofNat 6 ((off - 0x10000) / 0x40))).word (off % 0x40)
  else if 0x20000 ≤ off && off < 0x28000 then s.portWord (BitVec.ofNat 3 ((off - 0x20000) / 0x1000)) (off % 0x1000)
  else if 0x2F000 ≤ off && off < 0x30000 then s.fabWord (off - 0x2F000)
  else if 0x30000 ≤ off && off < 0x32000 then (peek s.fab.routes ((off - 0x30000) / 8)).zeroExtend 64
  else if 0x34000 ≤ off && off < 0x36000 then peek s.fab.windows ((off - 0x34000) / 8)
  else if 0x36000 ≤ off && off < 0x36200 then (vrd s.fab.keys ((off - 0x36000) / 8) 0).zeroExtend 64
  else if 0x40000 ≤ off && off < 0x80000 then
    s.ageWord (BitVec.ofNat 3 ((off - 0x40000) / 0x8000)) (off % 0x8000 / 0x20) (off % 0x20 / 8)
  else if 0xA0000 ≤ off && off < 0xA2000 then peek s.hub.views (s.hub.viewKey off) &&& viewReadMask (off % 32 / 8)
  else if off = 0xA2000 then s.hub.vtjob.zeroExtend 64
  else if off = 0xC000 then BitVec.ofNat 64 (s.hub.mode.toNat + bn s.hub.modeBusy * 32 + bn s.hub.modeErr * 64)
  else if 0xC100 ≤ off && off < 0xC140 then
    let r := s.hub.stk (BitVec.ofNat 3 ((off - 0xC100) / 8))
    BitVec.ofNat 64 (bn r.owner + r.takes.toNat * 2 + bn r.rel * 65536)
  else if 0xD000 ≤ off && off < 0xE000 then s.platWord (off - 0xD000)
  else if 0xE000 ≤ off && off < 0xF000 then s.faultWord (off - 0xE000)
  else if 0xF000 ≤ off && off < 0x10000 then s.schedWord (off - 0xF000)
  else
    match levelKeyAt off with
    | some k => (s.hub.level k).extractLsb' (64 * (off % 16 / 8)) 64
    | none => 0

/-- Take the next platform event (R370, R373). -/
def State.popEvent (s : State) : Word × State :=
  match s.plat.events with
  | [] => (0, s)
  | e :: t => (e.1, { s with plat := { s.plat with events := t, latched := e.2 } })

/-- Take the next event of the firmware's queue (R357). -/
def State.popFirmware (s : State) : Word × State :=
  match s.fab.evF with
  | [] => (0, s)
  | e :: t => (e, { s with fab := { s.fab with evF := t } })

/-- Take the next event of the fabric manager's queue (R357). -/
def State.popManager (s : State) : Word × State :=
  match s.fab.evM with
  | [] => (0, s)
  | e :: t => (e, { s with fab := { s.fab with evM := t } })

/-- The error counter at an offset: key 8·block + counter (R371). -/
def errorKeyAt (off : Nat) : Option Nat :=
  if 0xD100 ≤ off && off < 0xD540 && off % 0x40 ≠ 0x38 then some ((off - 0xD100) / 8) else none

/-- A read that clears what it returns; none for every other offset (R116, R128, R357, R370, R371, R378). -/
def State.clearRead (s : State) (off : Nat) : Option (Word × State) :=
  if off = 0xD040 then some s.popEvent
  else if off = 0x2F020 then some s.popFirmware
  else if off = 0x2F028 then some s.popManager
  else if off = 0x2F030 then
    some (s.fab.lostM ++ s.fab.lostF, { s with fab := { s.fab with lostF := 0, lostM := 0 } })
  else if off = 0xD060 then some (s.plat.hevlost.zeroExtend 64, { s with plat := { s.plat with hevlost := 0 } })
  else if off = 0xD0A0 then some (s.plat.mgtbad.zeroExtend 64, { s with plat := { s.plat with mgtbad := 0 } })
  else if off = 0xE058 then some (s.hub.thcnt.zeroExtend 64, { s with hub := { s.hub with thcnt := 0 } })
  else if 0xC100 ≤ off && off < 0xC140 then
    some (s.plainWord off, s.onStk (BitVec.ofNat 3 ((off - 0xC100) / 8)) fun r => { r with takes := 0 })
  else (errorKeyAt off).map fun k => (peek s.plat.errors k, { s with plat := { s.plat with errors := poke s.plat.errors k 0 } })

/-- One read of the window (R358): 8 bytes at an aligned offset; another offset reads 0 (DESIGN CHOICE, log 61). -/
def State.regRead (s : State) (off : Nat) : Word × State :=
  if off % 8 ≠ 0 then (0, s) else (s.clearRead off).getD (s.plainWord off, s)

/-- HEVT0_READ (R370, R373). -/
def execHevt0Read (s : State) : Outcome :=
  let r := s.popEvent
  .next (r.2.send (.reg 0x0D040 r.1))

/-- FEVTF_READ (R357). -/
def execFevtfRead (s : State) : Outcome :=
  let r := s.popFirmware
  .next (r.2.send (.reg 0x2F020 r.1))

/-- FEVTM_READ (R357). -/
def execFevtmRead (s : State) : Outcome :=
  let r := s.popManager
  .next (r.2.send (.reg 0x2F028 r.1))

/-- RC_COUNTER_READ (R116, R128, R357, R370, R371): the count is returned and cleared. -/
def execRcCounterRead (off : BitVec 20) (s : State) : Outcome :=
  let r := s.regRead off.toNat
  .next (r.2.send (.reg off r.1))

/-! ### Writing the window -/

/-- A register that stores 1 for 0. -/
def oneForZero {w : Nat} (v : BitVec w) : BitVec w := if v = 0 then 1 else v

/-- A write of a queue register (R60, R61). -/
def State.queueWrite (s : State) (q : BitVec 6) (o : Nat) (v : Word) : State :=
  if o = 0x00 then s.onQueue q fun r => { r with base := v.truncate 56 &&& ~~~(0x7F : BitVec 56) }
  else if o = 0x08 then s.onQueue q fun r => { r with ctl := v.truncate 26 }
  else if o = 0x18 then ran s (execQtailWrite q v s)
  else if o = 0x20 then s.onQueue q fun r => { r with err := r.err &&& ~~~(v.truncate 6) }
  else s

/-- A write of PCTL (R347, R352), its bits in ascending order. -/
def State.pctlWrite (s : State) (p : BitVec 3) (v : Word) : State :=
  let s := if v.getLsbD 0 then ran s (execPctlQreq p s) else s
  let s := if v.getLsbD 1 then ran s (execPctlDownreq p s) else s
  let s := if v.getLsbD 2 then ran s (execPctlQclr p s) else s
  if v.getLsbD 3 then ran s (execPctlRelock p s) else s

/-- A write of a port register (R347). -/
def State.portWrite (s : State) (p : BitVec 3) (o : Nat) (v : Word) : State :=
  if o = 0x000 then s.pctlWrite p v
  else if o = 0x010 then s.shadowWrite p o v
  else if o = 0x020 then s.armSwitch p v
  else if o = 0x028 then (if v.getLsbD 0 then s.askSnap p else s)
  else if o = 0x038 then s.onPort p fun r => { r with spthr := v.truncate 32, auto := v.getLsbD 32 }
  else if o = 0x040 then ran s (execFrmapWrite p v s)
  else if 0x600 ≤ o && o < 0x800 then s.shadowWrite p o v
  else s

/-- A write of a fabric register (R357). -/
def State.fabWrite (s : State) (o : Nat) (v : Word) : State :=
  let f := s.fab
  let f := if o = 0x00 then { f with pkgid := v.truncate 10 }
    else if o = 0x08 then { f with bsrc := v.getLsbD 0, rhops := v.extractLsb' 2 3 }
    else if o = 0x10 then { f with hto := oneForZero (v.truncate 32) }
    else if o = 0x18 then { f with eolth := v.truncate 16 }
    else f
  { s with fab := f }

/-- The bits of a word of a host window entry that are kept (R361). -/
def windowMask (w : Nat) : Word :=
  if w = 0 then BitVec.allOnes 64 else if w = 1 then 0xFFFFFFFFFFFF else if w = 2 then 0x07FFFFFFFFFFFFFF else 0

/-- A write of one word of a level entry (R45, R46): DONE and CANCELLED are cleared by a 1. -/
def State.levelWrite (s : State) (k : Nat) (upper : Bool) (v : Word) : State :=
  let e := s.hub.level k
  let lo : Word := e.truncate 64
  let hi : Word := e.extractLsb' 64 64
  let kept : Word := hi &&& 0x6000 &&& ~~~v
  let hi' : Word := (v &&& 0xFFFFFFFF1FFF) ||| kept
  { s with hub := s.hub.setLevel k (if upper then hi' ++ lo else hi ++ v) }

/-- The bits of a word of a view entry that are kept: SOFF's low 14 bits are zero, and a reserved bit that is set makes the entry
unusable though it reads zero (R7, R117; log 36). -/
def viewMask (w : Nat) : Word := if w = 0 then ~~~(0x3FFF : Word) else BitVec.allOnes 64

/-- A write of a platform register (R365, R369, R370); SRSTAT.WARM is for firmware only. -/
def State.platWrite (s : State) (fw : Bool) (o : Nat) (v : Word) : State :=
  if o = 0x00 then
    (if v.getLsbD 49 then ran s (execSrstatClrWrite s) else if v.getLsbD 50 && fw then ran s (execSrstatWarmWrite s) else s)
  else if o = 0x08 then { s with plat := { s.plat with sridx := v.truncate 12 } }
  else if o = 0x80 then ran s (execPcapWrite v s)
  else s

/-- A write of the fault buffer, the thrash detector or CMPCTL (R111, R116, R125). -/
def State.faultWrite (s : State) (o : Nat) (v : Word) : State :=
  let h := s.hub
  if o = 0x28 then (if v.getLsbD 0 then s.flushFaults else s)
  else if o = 0x30 then s.denyFault v
  else
    let h := if o = 0x00 then { h with fbbase := v.truncate 39 &&& ~~~(0xFFF : BitVec 39) }
      else if o = 0x08 then { h with fbctl := v.truncate 5 }
      else if o = 0x10 then { h with fbhead := v.truncate 32 }
      else if o = 0x38 then { h with fbovf := h.fbovf && !v.getLsbD 0 }
      else if o = 0x40 then { h with thn := oneForZero (v.truncate 8) }
      else if o = 0x48 then { h with thw := oneForZero (v.truncate 32) }
      else if o = 0x50 then { h with tht := oneForZero (v.truncate 32) }
      else if o = 0x60 then { h with cmpEn := v.getLsbD 0 }
      else h
    { s with hub := h }

/-- A write of a scheduler or ordering register (R64, R72, R134). -/
def State.schedWrite (s : State) (o : Nat) (v : Word) : State :=
  let h := s.hub
  if o = 0x00 then ran s (execSctlWrite v s)
  else if o = 0x08 then ran s (execLseedWrite v s)
  else if o = 0x28 then ran s (execCancelWrite v s)
  else
    let h := if o = 0x10 then { h with pdead := v.truncate 24 }
      else if o = 0x18 then { h with slice := v.truncate 24 }
      else if o = 0x20 then { h with wdef := v.truncate 16 }
      else if o = 0x30 then { h with cancelErr := h.cancelErr && !v.getLsbD 1 }
      else if o = 0x110 then { h with pgroup := v.truncate 16 }
      else h
    { s with hub := h }

/-- One write of the window (R358): 8 bytes at an aligned offset; a write elsewhere, or of a register that is only read, is
ignored, and so is one at an offset that is no multiple of 8 (DESIGN CHOICE, log 61). A view entry with VALID = 1 written over the place
of a page already allocated leaves the page where it lies (DESIGN CHOICE, log 69). `fw` says that hub firmware writes. -/
def State.regWrite (s : State) (fw : Bool) (off : Nat) (v : Word) : State :=
  if off % 8 ≠ 0 then s
  else if 0x10000 ≤ off && off < 0x11000 then s.queueWrite (BitVec.ofNat 6 ((off - 0x10000) / 0x40)) (off % 0x40) v
  else if 0x20000 ≤ off && off < 0x28000 then s.portWrite (BitVec.ofNat 3 ((off - 0x20000) / 0x1000)) (off % 0x1000) v
  else if 0x2F000 ≤ off && off < 0x30000 then s.fabWrite (off - 0x2F000) v
  else if 0x30000 ≤ off && off < 0x32000 then s.routeWrite (BitVec.ofNat 10 ((off - 0x30000) / 8)) v
  else if 0x34000 ≤ off && off < 0x36000 then
    { s with fab := { s.fab with windows := poke s.fab.windows ((off - 0x34000) / 8) (v &&& windowMask ((off - 0x34000) / 8 % 4)) } }
  else if 0x36000 ≤ off && off < 0x36200 then
    { s with fab := { s.fab with keys := vwr s.fab.keys ((off - 0x36000) / 8) (v.truncate 45) } }
  else if 0xA0000 ≤ off && off < 0xA2000 then
    { s with hub := { s.hub with views := poke s.hub.views (s.hub.viewKey off) (v &&& viewMask (off % 32 / 8)) } }
  else if off = 0xA2000 then { s with hub := { s.hub with vtjob := v.truncate 8 } }
  else if off = 0xC000 then s.nmodeWrite v
  else if 0xC100 ≤ off && off < 0xC140 then s.stkrefWrite (BitVec.ofNat 3 ((off - 0xC100) / 8)) v
  else if 0xD000 ≤ off && off < 0xE000 then s.platWrite fw (off - 0xD000) v
  else if 0xE000 ≤ off && off < 0xF000 then s.faultWrite (off - 0xE000) v
  else if 0xF000 ≤ off && off < 0x10000 then s.schedWrite (off - 0xF000) v
  else
    match levelKeyAt off with
    | some k => s.levelWrite k (decide (off % 16 = 8)) v
    | none => s

/-- REGISTER_WRITE (R358): hub firmware writes a register of the window. -/
def execRegisterWrite (off : BitVec 20) (v : BitVec 64) (s : State) : Outcome := .next (s.regWrite true off.toNat v)

end Sys2Proof.Machine
end

