-- ==== Sys2Proof/Machine/Rdma.lean ====
section
/-! DEFINITION. Host requests over the Ethernet ports (spec/25_fabric.md R358 to R361, spec/07_memory.md R113, R126,
spec/09_ordering.md R152, R153, spec/21_async.md R311). -/

namespace Sys2Proof.Machine

open Sys2Proof

/-! ### Keys and queue pairs -/

/-- Fields of a key-table entry (R360). -/
def keyJob (k : BitVec 45) : BitVec 8 := k.extractLsb' 32 8
def keyRd (k : BitVec 45) : Bool := k.getLsbD 40
def keyWr (k : BitVec 45) : Bool := k.getLsbD 41
def keyAtom (k : BitVec 45) : Bool := k.getLsbD 42
def keyReg (k : BitVec 45) : Bool := k.getLsbD 43

/-- The lowest-numbered valid entry whose RKEY matches governs (R360). -/
def Fabric.keyFor (f : Fabric) (rkey : BitVec 32) : Option (BitVec 45) :=
  f.keys.toList.find? fun k => k.getLsbD 44 && k.extractLsb' 0 32 = rkey

/-- The name of a request's queue pair: 1,024·port + queue pair. -/
def pairOf (r : RdmaReq) : Nat := 1024 * r.port.toNat + r.qp.toNat

/-- The request of a waiting operation, if it is one of a host's. -/
def rdmaOf : Instr → Option RdmaReq
  | .rdmaWriteDva r _ => some r
  | .rdmaWriteBankLine r _ => some r
  | .rdmaWriteMailbox r _ => some r
  | .rdmaWriteRegister r _ => some r
  | .rdmaReadDva r _ => some r
  | .rdmaReadRegister r _ => some r
  | .rdmaFetchAdd r _ => some r
  | .rdmaCompareSwap r _ _ => some r
  | .rdmaUnsupportedRequest r => some r
  | _ => none

/-- Whether an earlier operation of a queue pair is still to be performed: it waits, or its bank lines are not all written
(R153). -/
def State.pairBusy (s : State) (r : RdmaReq) : Bool :=
  (s.timers.any fun t => match rdmaOf t.2.2 with
    | some o => pairOf o = pairOf r
    | none => false) ||
  s.coaches.toList.any fun k => k.en.engq.any fun w => w.item.isNone && w.put.isNone && w.key = pairOf r

/-- Perform a request in its turn (R153): nothing while the port is down (R366), and only when its answer may be sent, so that a pause
of the port's priority and a rate that CNPs have lowered hold it back; an ECN mark is answered with a CNP (R359). -/
def State.inTurn (s : State) (r : RdmaReq) (i : Instr) (f : State → State) : State :=
  if !s.plat.ethUp.getLsbD r.port.toNat then s
  else if s.pairBusy r || !s.mayPost r.port r.qp then s.timer (s.now + Config.icTicks) 0 i
  else f (if r.ecn then s.send (.cnp r.port r.qp) else s)

/-- A remote-access NAK. -/
def State.nak (s : State) (r : RdmaReq) : State := s.send (.rdmaNak r.port r.qp)

/-- An acknowledgement, with data, which take their time at a lowered rate. -/
def State.ack (s : State) (r : RdmaReq) (data : List Byte) : State := (s.send (.rdmaAck r.port r.qp data)).paced r.port r.qp data.length

/-! ### DVAs (R113) -/

/-- The aligned words that `n` bytes from an address touch. -/
def wordsOver (a n : Nat) : List Nat := if n = 0 then [] else (List.range ((a + n - 1) / 4 - a / 4 + 1)).map fun i => (a / 4 + i) * 4

/-- What a host's access of a word meets: its place, an expansion to wait for, a host window whose port may not send yet, a port that
is down, whose completion fails, or another refusal. -/
inductive Reach where
  | here (p : Place)
  | packed
  | held
  | down
  | no
  deriving DecidableEq, Repr

/-- Translate a word for a host (R113, R126). -/
def State.reach (s : State) (job : BitVec 8) (a : Nat) (rd wr : Bool) : Reach :=
  match s.hubPlace job a rd wr with
  | .error _ => .no
  | .ok (p, page) =>
    if s.hub.moving.any (fun m => m.page = page) then .no
    else if s.hub.expanding.any (fun m => m.page = page) then .packed
    else match s.placeOk job p with
      | some .wait => .held
      | some (.fail 8 1) => .down
      | some _ => .no
      | none => match p with
        | .tier t => if (s.hub.compressedAt t).isSome then .packed else .here p
        | _ => .here p

/-- Perform an access of words once all of them are reached: refused whole, or after the expansion of the compressed page it
meets first; an expansion without a free page refuses it (R113, R126). -/
def State.withWords (s : State) (r : RdmaReq) (i : Instr) (job : BitVec 8) (rd wr : Bool) (as : List Nat)
    (f : List Place → State → State) : State :=
  let got := as.map fun a => s.reach job a rd wr
  let walked := s.countWalks job (as.headD 0) (4 * as.length)
  if got.contains .no then walked.nak r
  else if got.contains .down then (walked.countError 16 4).nak r
  else if got.contains .held then s.timer (s.now + Config.icTicks) 0 i
  else
    match (as.zip got).find? (fun e => e.2 = .packed) with
    | some (a, _) =>
      let (ok, s) := s.beginExpansion job a
      if ok then s.timer (s.now + Config.icTicks) 0 i else s.nak r
    | none => f (got.filterMap fun g => match g with | .here p => some p | _ => none) walked

/-- The mask and value that `data` from byte `a` on gives the word at `w`. -/
def bytesOnto (a : Nat) (data : List Byte) (w : Nat) : Lane × Lane :=
  (List.range 4).foldl (fun (m : Lane × Lane) j =>
    if a ≤ w + j && w + j < a + data.length then
      (m.1 ||| ((0xFF : Lane) <<< (8 * j)), m.2 ||| ((data.getD (w + j - a) 0).zeroExtend 32 <<< (8 * j)))
    else m) (0, 0)

/-- The bytes from `a` on of words that start at `w`. -/
def bytesFrom (a w n : Nat) (vs : List Lane) : List Byte :=
  (List.range n).map fun i => (vs.getD ((a + i - w) / 4) 0).extractLsb' (8 * ((a + i) % 4)) 8

/-- Go on with an access whose words meet no error that a second attempt does not clear (R300); refuse it otherwise. What is met counts
in the block of the die that detects it (R371). -/
def State.unlessBad (s : State) (r : RdmaReq) (keys : List WordKey) (f : State → State) : State :=
  let (ok, s) := s.readOk [keys]
  if ok then f s else s.nak r

/-- A WRITE to DVAs (R360). -/
def State.hostWriteDva (s : State) (r : RdmaReq) (i : Instr) (job : BitVec 8) (data : List Byte) : State :=
  let a := r.va.toNat % 2 ^ 56
  let as := wordsOver a data.length
  s.withWords r i job false true as fun ps s =>
    s.unlessBad r (ps.flatMap (s.putKeys job)) fun s =>
      ((ps.zip as).foldl (fun s e =>
        let m := bytesOnto a data e.2
        s.writeWord .hub job e.1 m.1 m.2) s).ack r []

/-- A READ of DVAs (R360); an uncorrectable error that no retry clears refuses it (R300). -/
def State.hostReadDva (s : State) (r : RdmaReq) (i : Instr) (job : BitVec 8) (n : Nat) : State :=
  let a := r.va.toNat % 2 ^ 56
  let as := wordsOver a n
  s.withWords r i job true false as fun ps s =>
    s.unlessBad r (ps.flatMap (s.placeKeys job)) fun s =>
      s.ack r (bytesFrom a (a / 4 * 4) n (ps.map fun p => s.readWord .hub job p 0))

/-- A Fetch&Add or Compare&Swap of 8 aligned bytes of HBM (R152, R360): `f` gives the value written, if one is. -/
def State.hostAtomic (s : State) (r : RdmaReq) (i : Instr) (f : Word → Option Word) : State :=
  match s.fab.keyFor r.rkey with
  | none => s.nak r
  | some k =>
    let a := r.va.toNat % 2 ^ 56
    if !keyAtom k || r.va.extractLsb' 56 8 ≠ 0 || a % 8 ≠ 0 then s.nak r
    else
      s.withWords r i (keyJob k) true true [a, a + 4] fun ps s =>
        if ps.any (fun p => match p with | .hbm _ => false | _ => true) then s.nak r
        else s.unlessBad r (ps.flatMap (s.placeKeys (keyJob k))) fun s =>
          let old : Word := BitVec.ofNat 64 (natOfLanes (ps.map fun p => s.readWord .atomic (keyJob k) p 0))
          let s := match f old with
            | some new => (ps.zip (lanesOfNat new.toNat 2)).foldl (fun (s : State) (e : Place × Lane) =>
                s.writeWord .atomic (keyJob k) e.1 (BitVec.allOnes 32) e.2) s
            | none => s
          s.ack r ((bytesOf old.toNat 8).map (BitVec.ofNat 8))

/-! ### Bank lines, mailboxes and registers -/

/-- The line writes of a payload that starts at a byte of a line, through LI0; each line sets its full bit (R251, R302, R360). -/
def lineWrites (pair : Nat) (bank : BitVec 6) (line byte : Nat) (data : List Byte) : List EngWrite :=
  (List.range ((byte + data.length + 255) / 256)).map fun j =>
    let put := fun (f : Nat → Nat) => BitVec.ofNat 2048 (((List.range 256).map fun x =>
      let n := 256 * j + x
      if byte ≤ n && n < byte + data.length then f (n - byte) * 2 ^ (8 * x) else 0).sum)
    { bank := bank, line := BitVec.ofNat 14 (line + j), mask := put fun _ => 255, v := put fun n => (data.getD n 0).toNat, port := 17,
      full := true, item := none, key := pair, n := 0, put := none, early := 0 }

/-- A WRITE to bank lines (R311, R360). -/
def State.hostWriteLines (s : State) (r : RdmaReq) (job : BitVec 8) (data : List Byte) : State :=
  let c : BitVec 3 := r.va.extractLsb' 28 3
  let b : BitVec 6 := r.va.extractLsb' 22 6
  if r.va.extractLsb' 31 25 ≠ 0 || data.isEmpty || !s.accepts c b job then s.nak r
  else
    let ws := lineWrites (pairOf r) b (r.va.extractLsb' 8 14).toNat (r.va.extractLsb' 0 8).toNat data
    (ws.foldl (fun s w => s.engWrite c w) s).ack r []

/-- A WRITE to a mailbox (R311, R360), which stands over an MBW that lands in the same ic (R231). -/
def State.hostWriteMailbox (s : State) (r : RdmaReq) (job : BitVec 8) (data : List Byte) : State :=
  let c : BitVec 3 := r.va.extractLsb' 7 3
  let holds : Bool := match (s.coach c).unit with
    | some u => u.job = job
    | none => false
  if r.va.extractLsb' 10 46 ≠ 0 || r.va.extractLsb' 0 3 ≠ 0 || data.length ≠ 8 || !holds then s.nak r
  else
    let v : Word := BitVec.ofNat 64 (natOf (data.map (·.toNat)))
    let n : BitVec 4 := r.va.extractLsb' 3 4
    (s.onSq c fun q => { q with mb := vwr q.mb n.toNat v, mbOut := n :: q.mbOut }).ack r []

/-- A WRITE of 8 bytes to the register window (R40, R360); NMODE is refused. -/
def State.hostWriteReg (s : State) (r : RdmaReq) (k : BitVec 45) (data : List Byte) : State :=
  let off := (r.va.extractLsb' 0 20).toNat
  if !keyReg k || r.va.extractLsb' 20 36 ≠ 0 || off % 8 ≠ 0 || data.length ≠ 8 || off = 0xC000 then s.nak r
  else (s.ack r []).regWrite false off (BitVec.ofNat 64 (natOf (data.map (·.toNat))))

/-- A READ of 8 bytes of the register window (R360). -/
def State.hostReadReg (s : State) (r : RdmaReq) (k : BitVec 45) (n : Nat) : State :=
  let off := (r.va.extractLsb' 0 20).toNat
  if !keyReg k || r.va.extractLsb' 20 36 ≠ 0 || off % 8 ≠ 0 || n ≠ 8 then s.nak r
  else
    let x := s.regRead off
    x.2.ack r ((bytesOf x.1.toNat 8).map (BitVec.ofNat 8))

/-- An RDMA WRITE: the governing key and the address select right and target (R360). -/
def State.hostWrite (s : State) (r : RdmaReq) (i : Instr) (data : List Byte) : State :=
  match s.fab.keyFor r.rkey with
  | none => s.nak r
  | some k =>
    let cls := (r.va.extractLsb' 56 8).toNat
    if !keyWr k then s.nak r
    else if cls = 0 then s.hostWriteDva r i (keyJob k) data
    else if cls = 1 then s.hostWriteLines r (keyJob k) data
    else if cls = 2 then s.hostWriteMailbox r (keyJob k) data
    else if cls = 3 then s.hostWriteReg r k data
    else s.nak r

/-- An RDMA READ: the governing key and the address select right and target (R360). -/
def State.hostRead (s : State) (r : RdmaReq) (i : Instr) (n : Nat) : State :=
  match s.fab.keyFor r.rkey with
  | none => s.nak r
  | some k =>
    let cls := (r.va.extractLsb' 56 8).toNat
    if !keyRd k then s.nak r
    else if cls = 0 then s.hostReadDva r i (keyJob k) n
    else if cls = 3 then s.hostReadReg r k n
    else s.nak r

/-- RDMA_WRITE_DVA (R113, R153, R360). -/
def execRdmaWriteDva (r : RdmaReq) (data : List Byte) (s : State) : Outcome :=
  let i := Instr.rdmaWriteDva r data
  .next (s.inTurn r i fun s => s.hostWrite r i data)

/-- RDMA_WRITE_BANK_LINE (R153, R311, R360). -/
def execRdmaWriteBankLine (r : RdmaReq) (data : List Byte) (s : State) : Outcome :=
  let i := Instr.rdmaWriteBankLine r data
  .next (s.inTurn r i fun s => s.hostWrite r i data)

/-- RDMA_WRITE_MAILBOX (R153, R311, R360). -/
def execRdmaWriteMailbox (r : RdmaReq) (data : List Byte) (s : State) : Outcome :=
  let i := Instr.rdmaWriteMailbox r data
  .next (s.inTurn r i fun s => s.hostWrite r i data)

/-- RDMA_WRITE_REGISTER (R40, R153, R360). Log 35. -/
def execRdmaWriteRegister (r : RdmaReq) (data : List Byte) (s : State) : Outcome :=
  let i := Instr.rdmaWriteRegister r data
  .next (s.inTurn r i fun s => s.hostWrite r i data)

/-- RDMA_READ_DVA (R113, R153, R360). -/
def execRdmaReadDva (r : RdmaReq) (len : BitVec 32) (s : State) : Outcome :=
  let i := Instr.rdmaReadDva r len
  .next (s.inTurn r i fun s => s.hostRead r i len.toNat)

/-- RDMA_READ_REGISTER (R153, R360). Log 35. -/
def execRdmaReadRegister (r : RdmaReq) (len : BitVec 32) (s : State) : Outcome :=
  let i := Instr.rdmaReadRegister r len
  .next (s.inTurn r i fun s => s.hostRead r i len.toNat)

/-- RDMA_FETCH_ADD (R152, R360). -/
def execRdmaFetchAdd (r : RdmaReq) (v : BitVec 64) (s : State) : Outcome :=
  let i := Instr.rdmaFetchAdd r v
  .next (s.inTurn r i fun s => s.hostAtomic r i fun old => some (old + v))

/-- RDMA_COMPARE_SWAP (R152, R360). -/
def execRdmaCompareSwap (r : RdmaReq) (cmp v : BitVec 64) (s : State) : Outcome :=
  let i := Instr.rdmaCompareSwap r cmp v
  .next (s.inTurn r i fun s => s.hostAtomic r i fun old => if old = cmp then some v else none)

/-- RDMA_UNSUPPORTED_REQUEST (R359): an invalid-request NAK. -/
def execRdmaUnsupportedRequest (r : RdmaReq) (s : State) : Outcome :=
  .next (s.inTurn r (.rdmaUnsupportedRequest r) fun s => s.send (.rdmaInvalid r.port r.qp))

/-! ### Congestion and pauses (R359) -/

/-- The rate of a queue pair in Mb/s: the line rate until a CNP reduces it. -/
def Fabric.rate (f : Fabric) (port : BitVec 2) (qp : BitVec 10) : Nat :=
  match f.rates.find? (fun e => e.1 = port && e.2.1 = qp) with
  | some e => e.2.2.1
  | none => 400000

/-- CNP_RECEIVE (R359): the rate goes down, by an amount that the spec leaves to the RoCEv2 annex (log 17); what the pair sends next
waits as that rate says. -/
def execCnpReceive (port : BitVec 2) (qp : BitVec 10) (s : State) : Outcome :=
  .next <|
    if !s.plat.ethUp.getLsbD port.toNat then s
    else
      let (d, s) := s.choose (s.fab.rate port qp)
      { s with fab := { s.fab with rates := (port, qp, d, s.now) :: s.fab.rates.filter fun e => !(e.1 = port && e.2.1 = qp) } }

/-- PFC_PAUSE_RECEIVE (R359): one of the two priorities of a port is paused or goes on. -/
def execPfcPauseReceive (port : BitVec 2) (prio : BitVec 1) (pause : Bool) (s : State) : Outcome :=
  .next <|
    if !s.plat.ethUp.getLsbD port.toNat then s
    else
      let rest := s.fab.paused.filter fun e => e ≠ (port, prio)
      { s with fab := { s.fab with paused := if pause then (port, prio) :: rest else rest } }

end Sys2Proof.Machine
end

