-- ==== Sys2Proof/Machine/Mgmt.lean ====
section
/-! DEFINITION. The management port (spec/27_platform.md R376 to R379). -/

namespace Sys2Proof.Machine

open Sys2Proof

/-- The bytes of a request or response before its TAG (R378). -/
def mgmtBytes (seq : Word) (op status : BitVec 8) (off : Word) (payload : List Byte) : List Byte :=
  let le := fun (v n : Nat) => (bytesOf v n).map (BitVec.ofNat 8)
  le seq.toNat 8 ++ [op, status] ++ le payload.length 2 ++ le 0 4 ++ le off.toNat 8 ++ payload

/-- The bytes of a request before its TAG (R378). -/
def datagramBytes (m : Datagram) : List Byte := mgmtBytes m.seq m.op 0 m.offset m.payload

/-- A response with its TAG, under MKEY as it stands when the response is sent (R378; log 33). -/
def State.respond (s : State) (m : Datagram) (status : BitVec 8) (off : Word) (payload : List Byte) : State :=
  s.send (.mgmt m.seq m.op status off payload (Config.kmac256 s.plat.mkey (mgmtBytes m.seq m.op status off payload)))

/-- Whether a datagram is dropped (R378): once a key is set, a wrong TAG or a SEQ that is not new. -/
def Platform.drops (p : Platform) (m : Datagram) : Bool :=
  p.mkey ≠ 0 && (m.tag ≠ Config.kmac256 p.mkey (datagramBytes m) ||
    (match p.lastSeq with | some n => decide (m.seq.toNat ≤ n.toNat) | none => false))

/-- The attestation report over a nonce (R377); MAGIC, PKGID, START and MINSVN take four bytes each (log 11). -/
def State.report (s : State) (nonce : List Byte) : List Byte :=
  let le := fun (v n : Nat) => (bytesOf v n).map (BitVec.ofNat 8)
  let body := le 0x4154545A 4 ++ le s.fab.pkgid.toNat 4 ++ le s.plat.start.toNat 4 ++ le s.plat.minsvn.toNat 4 ++
    (s.plat.images.flatMap fun i => le i.1.toNat 4 ++ i.2) ++ nonce
  body ++ Config.slhSign body ++ Config.certificate

/-- Send a report in fragments of at most 1,024 bytes, the first at `off`. -/
def State.fragments (s : State) (m : Datagram) (off : Nat) (l : List Byte) : Nat → State
  | 0 => s
  | n + 1 =>
    if l.isEmpty then s
    else (s.respond m 0 (BitVec.ofNat 64 off) (l.take 1024)).fragments m (off + 1024) (l.drop 1024) n

/-- Whether an OFFSET names an 8-byte word of the register window. Log 33. -/
def inWindow (o : Word) : Bool := o.toNat < 2 ^ 20 && o.toNat % 8 = 0

/-- Perform an accepted request (R376 to R379). -/
def State.manage (s : State) (m : Datagram) : State :=
  let val := natOf (m.payload.map (·.toNat))
  let done := fun (s : State) => s.respond m 0 m.offset []
  let no := s.respond m 1 m.offset []
  if m.op = 1 then
    if inWindow m.offset then
      let r := s.regRead m.offset.toNat
      r.2.respond m 0 m.offset ((bytesOf r.1.toNat 8).map (BitVec.ofNat 8))
    else no
  else if m.op = 2 then
    if inWindow m.offset && m.payload.length = 8 then (done s).regWrite false m.offset.toNat (BitVec.ofNat 64 val) else no
  else if m.op = 3 then (done s).warmStart.booting s.agenda
  else if m.op = 4 then (done s).coldStart.booting s.agenda
  else if m.op = 5 then
    if m.payload.length = 32 then
      let r := s.report m.payload
      s.fragments m 0 r (r.length / 1024 + 1)
    else no
  else if m.op = 6 then
    if m.offset.toNat < 2 ^ 42 && m.payload.length ≤ 1024 then
      let slot := m.offset.toNat / 2 ^ 40
      let off := m.offset.toNat % 2 ^ 40
      let put := fun (f : Store 9) (e : Byte × Nat) =>
        poke f (slot * 2 ^ 40 + (off + e.2) % 2 ^ 40) ((256 : BitVec 9) ||| e.1.zeroExtend 9)
      let s : State := { s with plat := { s.plat with flash := m.payload.zipIdx.foldl put s.plat.flash } }
      done s
    else no
  else if m.op = 7 then
    if m.payload.length = 4 && s.plat.minsvn.toNat ≤ val then done { s with plat := { s.plat with minsvn := BitVec.ofNat 32 val } } else no
  else if m.op = 8 then
    if m.payload.length = 32 then done { s with plat := { s.plat with mkey := BitVec.ofNat 256 val } } else no
  else no

/-- A management request (R378): dropped and counted, busy during a reset, refused while no key is set and it is neither KEY nor
READ, or performed. Log 33. -/
def State.mgmtRequest (s : State) (m : Datagram) : State :=
  if s.plat.drops m then { s with plat := { s.plat with mgtbad := s.plat.mgtbad + 1 } }
  else if s.plat.step ≠ 0xFF && !s.plat.safe then s.respond m 2 m.offset []
  else if s.plat.mkey = 0 && m.op ≠ 1 && m.op ≠ 8 then s.respond m 1 m.offset []
  else ({ s with plat := { s.plat with lastSeq := some m.seq } }).manage m

/-- MGMT_READ (R378). -/
def execMgmtRead (m : Datagram) (s : State) : Outcome := .next (s.mgmtRequest { m with op := 1 })

/-- MGMT_WRITE (R378, R379). -/
def execMgmtWrite (m : Datagram) (s : State) : Outcome := .next (s.mgmtRequest { m with op := 2 })

/-- MGMT_WARM (R365, R378): the response goes first. -/
def execMgmtWarm (m : Datagram) (s : State) : Outcome := .next (s.mgmtRequest { m with op := 3 })

/-- MGMT_COLD (R365, R378): the response goes first. -/
def execMgmtCold (m : Datagram) (s : State) : Outcome := .next (s.mgmtRequest { m with op := 4 })

/-- MGMT_ATTEST (R377, R378). -/
def execMgmtAttest (m : Datagram) (s : State) : Outcome := .next (s.mgmtRequest { m with op := 5 })

/-- MGMT_FLASH (R376, R378). -/
def execMgmtFlash (m : Datagram) (s : State) : Outcome := .next (s.mgmtRequest { m with op := 6 })

/-- MGMT_SVN (R374, R378). -/
def execMgmtSvn (m : Datagram) (s : State) : Outcome := .next (s.mgmtRequest { m with op := 7 })

/-- MGMT_KEY (R378). -/
def execMgmtKey (m : Datagram) (s : State) : Outcome := .next (s.mgmtRequest { m with op := 8 })

/-- MGMT_UNKNOWN_OP (R378): the OP as it stands in the datagram. -/
def execMgmtUnknownOp (m : Datagram) (s : State) : Outcome := .next (s.mgmtRequest m)

end Sys2Proof.Machine
end

