-- ==== Sys2Proof/Machine/Dispatch.lean ====
section
/-! DEFINITION. The dispatch: one arm per constructor of Instr, each one direct call of its meaning. -/

namespace Sys2Proof.Machine

open Sys2Proof

def exec (i : Instr) (s : State) : Host.Outcome State Fault Refusal :=
  match i with
  | .rsolveAccept c id => Sys2Proof.Machine.execRsolveAccept c id s
  | .rsolveSwitch c id => Sys2Proof.Machine.execRsolveSwitch c id s
  | .itemPost c id => Sys2Proof.Machine.execItemPost c id s
  | .putAcknowledgement c id status => Sys2Proof.Machine.execPutAcknowledgement c id status s
  | .fenceScTick c id => Sys2Proof.Machine.execFenceScTick c id s
  | .viewMergeTimeout id => Sys2Proof.Machine.execViewMergeTimeout id s
  | .trapEntry c cause member arg => Sys2Proof.Machine.execTrapEntry c cause member arg s
  | .fatalContextError c cause => Sys2Proof.Machine.execFatalContextError c cause s
  | .preemptRequest c cancel => Sys2Proof.Machine.execPreemptRequest c cancel s
  | .sliceExpiry c ctx stamp => Sys2Proof.Machine.execSliceExpiry c ctx stamp s
  | .pdeadExpiry c ctx stamp => Sys2Proof.Machine.execPdeadExpiry c ctx stamp s
  | .huskResume c ctx => Sys2Proof.Machine.execHuskResume c ctx s
  | .launchDispatchBegin q slot => Sys2Proof.Machine.execLaunchDispatchBegin q slot s
  | .thrashHoldExpiry page => Sys2Proof.Machine.execThrashHoldExpiry page s
  | .pageExpansion page => Sys2Proof.Machine.execPageExpansion page s
  | .unitRetire c status => Sys2Proof.Machine.execUnitRetire c status s
  | .launchComplete q slot => Sys2Proof.Machine.execLaunchComplete q slot s
  | .qtailWrite q v => Sys2Proof.Machine.execQtailWrite q v s
  | .cancelWrite v => Sys2Proof.Machine.execCancelWrite v s
  | .sctlWrite v => Sys2Proof.Machine.execSctlWrite v s
  | .lseedWrite v => Sys2Proof.Machine.execLseedWrite v s
  | .nmodeWrite v => Sys2Proof.Machine.execNmodeWrite v s
  | .fbflushWrite v => Sys2Proof.Machine.execFbflushWrite v s
  | .fbdenyWrite v => Sys2Proof.Machine.execFbdenyWrite v s
  | .refreshHeartbeat k => Sys2Proof.Machine.execRefreshHeartbeat k s
  | .refreshTakeover k => Sys2Proof.Machine.execRefreshTakeover k s
  | .stkrefRelWrite k v => Sys2Proof.Machine.execStkrefRelWrite k v s
  | .podBeatTake received bnum => Sys2Proof.Machine.execPodBeatTake received bnum s
  | .rdmaWriteDva r data => Sys2Proof.Machine.execRdmaWriteDva r data s
  | .rdmaWriteBankLine r data => Sys2Proof.Machine.execRdmaWriteBankLine r data s
  | .rdmaWriteMailbox r data => Sys2Proof.Machine.execRdmaWriteMailbox r data s
  | .rdmaWriteRegister r data => Sys2Proof.Machine.execRdmaWriteRegister r data s
  | .rdmaReadDva r len => Sys2Proof.Machine.execRdmaReadDva r len s
  | .rdmaReadRegister r len => Sys2Proof.Machine.execRdmaReadRegister r len s
  | .rdmaFetchAdd r v => Sys2Proof.Machine.execRdmaFetchAdd r v s
  | .rdmaCompareSwap r cmp v => Sys2Proof.Machine.execRdmaCompareSwap r cmp v s
  | .rdmaUnsupportedRequest r => Sys2Proof.Machine.execRdmaUnsupportedRequest r s
  | .putArrival m => Sys2Proof.Machine.execPutArrival m s
  | .remoteDcopyRequest m => Sys2Proof.Machine.execRemoteDcopyRequest m s
  | .flitReceive p l bits => Sys2Proof.Machine.execFlitReceive p l bits s
  | .linkNakReceive p l n => Sys2Proof.Machine.execLinkNakReceive p l n s
  | .lanesetRelockTimeout p l stamp => Sys2Proof.Machine.execLanesetRelockTimeout p l stamp s
  | .remapReceive p l pos spare n => Sys2Proof.Machine.execRemapReceive p l pos spare n s
  | .remapSwitch p l pos spare => Sys2Proof.Machine.execRemapSwitch p l pos spare s
  | .pctlQreq p => Sys2Proof.Machine.execPctlQreq p s
  | .pctlDownreq p => Sys2Proof.Machine.execPctlDownreq p s
  | .pctlQclr p => Sys2Proof.Machine.execPctlQclr p s
  | .pctlRelock p => Sys2Proof.Machine.execPctlRelock p s
  | .lightTest p => Sys2Proof.Machine.execLightTest p s
  | .portRelockTimeout p stamp => Sys2Proof.Machine.execPortRelockTimeout p stamp s
  | .quiesceTimeout p stamp => Sys2Proof.Machine.execQuiesceTimeout p stamp s
  | .drainMarkerReceive p l => Sys2Proof.Machine.execDrainMarkerReceive p l s
  | .lanesetLock p l pkg port => Sys2Proof.Machine.execLanesetLock p l pkg port s
  | .peerStateReport p st => Sys2Proof.Machine.execPeerStateReport p st s
  | .slotBoundary p => Sys2Proof.Machine.execSlotBoundary p s
  | .calendarSwitch p => Sys2Proof.Machine.execCalendarSwitch p s
  | .cswWrite p v => Sys2Proof.Machine.execCswWrite p v s
  | .shadowCalendarWrite p off v => Sys2Proof.Machine.execShadowCalendarWrite p off v s
  | .snapTake p => Sys2Proof.Machine.execSnapTake p s
  | .frmapWrite p v => Sys2Proof.Machine.execFrmapWrite p v s
  | .routeTableWrite n v => Sys2Proof.Machine.execRouteTableWrite n v s
  | .holdTimeout c id stamp => Sys2Proof.Machine.execHoldTimeout c id stamp s
  | .rcCounterRead off => Sys2Proof.Machine.execRcCounterRead off s
  | .registerWrite off v => Sys2Proof.Machine.execRegisterWrite off v s
  | .mgmtRead m => Sys2Proof.Machine.execMgmtRead m s
  | .mgmtWrite m => Sys2Proof.Machine.execMgmtWrite m s
  | .mgmtWarm m => Sys2Proof.Machine.execMgmtWarm m s
  | .mgmtCold m => Sys2Proof.Machine.execMgmtCold m s
  | .mgmtAttest m => Sys2Proof.Machine.execMgmtAttest m s
  | .mgmtFlash m => Sys2Proof.Machine.execMgmtFlash m s
  | .mgmtSvn m => Sys2Proof.Machine.execMgmtSvn m s
  | .mgmtKey m => Sys2Proof.Machine.execMgmtKey m s
  | .mgmtUnknownOp m => Sys2Proof.Machine.execMgmtUnknownOp m s
  | .thermalGateBegin die => Sys2Proof.Machine.execThermalGateBegin die s
  | .thermalGateEnd die => Sys2Proof.Machine.execThermalGateEnd die s
  | .powerCapEngage meas => Sys2Proof.Machine.execPowerCapEngage meas s
  | .powerCapRelease meas => Sys2Proof.Machine.execPowerCapRelease meas s
  | .pcapWrite v => Sys2Proof.Machine.execPcapWrite v s
  | .islandStateRequest n st => Sys2Proof.Machine.execIslandStateRequest n st s
  | .networkSyllable r w s0 t p a e => Sys2Proof.Machine.execNetworkSyllable r w s0 t p a e s
  | .tree h w t x => Sys2Proof.Machine.execTree h w t x s
  | .jump h w t x imm => Sys2Proof.Machine.execJump h w t x imm s
  | .call h w t x imm => Sys2Proof.Machine.execCall h w t x imm s
  | .ret h w t x => Sys2Proof.Machine.execRet h w t x s
  | .loop h w t x l n g y => Sys2Proof.Machine.execLoop h w t x l n g y s
  | .trap h w t x c => Sys2Proof.Machine.execTrap h w t x c s
  | .yield h w t x => Sys2Proof.Machine.execYield h w t x s
  | .exit h w t x => Sys2Proof.Machine.execExit h w t x s
  | .rtt h w t x => Sys2Proof.Machine.execRtt h w t x s
  | .bsel h w t x k s0 => Sys2Proof.Machine.execBsel h w t x k s0 s
  | .brk h w t x c => Sys2Proof.Machine.execBrk h w t x c s
  | .add d a b => Sys2Proof.Machine.execAdd d a b s
  | .sub d a b => Sys2Proof.Machine.execSub d a b s
  | .and d a b => Sys2Proof.Machine.execAnd d a b s
  | .or d a b => Sys2Proof.Machine.execOr d a b s
  | .xor d a b => Sys2Proof.Machine.execXor d a b s
  | .andn d a b => Sys2Proof.Machine.execAndn d a b s
  | .shl d a b => Sys2Proof.Machine.execShl d a b s
  | .shr d a b => Sys2Proof.Machine.execShr d a b s
  | .sar d a b => Sys2Proof.Machine.execSar d a b s
  | .min d a b => Sys2Proof.Machine.execMin d a b s
  | .max d a b => Sys2Proof.Machine.execMax d a b s
  | .minu d a b => Sys2Proof.Machine.execMinu d a b s
  | .maxu d a b => Sys2Proof.Machine.execMaxu d a b s
  | .clz d a => Sys2Proof.Machine.execClz d a s
  | .popc d a => Sys2Proof.Machine.execPopc d a s
  | .mul d a b => Sys2Proof.Machine.execMul d a b s
  | .mulh d a b => Sys2Proof.Machine.execMulh d a b s
  | .mulhu d a b => Sys2Proof.Machine.execMulhu d a b s
  | .sel d a b c => Sys2Proof.Machine.execSel d a b c s
  | .addi d a imm => Sys2Proof.Machine.execAddi d a imm s
  | .andi d a imm => Sys2Proof.Machine.execAndi d a imm s
  | .ori d a imm => Sys2Proof.Machine.execOri d a imm s
  | .xori d a imm => Sys2Proof.Machine.execXori d a imm s
  | .shli d a imm => Sys2Proof.Machine.execShli d a imm s
  | .shri d a imm => Sys2Proof.Machine.execShri d a imm s
  | .sari d a imm => Sys2Proof.Machine.execSari d a imm s
  | .liw d e => Sys2Proof.Machine.execLiw d e s
  | .lid d e => Sys2Proof.Machine.execLid d e s
  | .cmp c a k b => Sys2Proof.Machine.execCmp c a k b s
  | .cmpi c a k imm => Sys2Proof.Machine.execCmpi c a k imm s
  | .cset d a b l => Sys2Proof.Machine.execCset d a b l s
  | .ld d a z s0 o => Sys2Proof.Machine.execLd d a z s0 o s
  | .st s0 a z o => Sys2Proof.Machine.execSt s0 a z o s
  | .mbr d m => Sys2Proof.Machine.execMbr d m s
  | .mbw s0 m => Sys2Proof.Machine.execMbw s0 m s
  | .srr d n => Sys2Proof.Machine.execSrr d n s
  | .srw s0 n => Sys2Proof.Machine.execSrw s0 n s
  | .srset s0 n => Sys2Proof.Machine.execSrset s0 n s
  | .srclr s0 n => Sys2Proof.Machine.execSrclr s0 n s
  | .mvx d c v l => Sys2Proof.Machine.execMvx d c v l s
  | .mxv s0 c v l => Sys2Proof.Machine.execMxv s0 c v l s
  | .agb g a => Sys2Proof.Machine.execAgb g a s
  | .agl g l b s0 => Sys2Proof.Machine.execAgl g l b s0 s
  | .agp g a => Sys2Proof.Machine.execAgp g a s
  | .agr g => Sys2Proof.Machine.execAgr g s
  | .vadd w d a b k r f => Sys2Proof.Machine.execVadd w d a b k r f s
  | .vsub w d a b k r f => Sys2Proof.Machine.execVsub w d a b k r f s
  | .vmul w d a b k r f => Sys2Proof.Machine.execVmul w d a b k r f s
  | .vmax w d a b k f => Sys2Proof.Machine.execVmax w d a b k f s
  | .vmin w d a b k f => Sys2Proof.Machine.execVmin w d a b k f s
  | .vabs w d a k f => Sys2Proof.Machine.execVabs w d a k f s
  | .vneg w d a k f => Sys2Proof.Machine.execVneg w d a k f s
  | .vfcmp w d a b k c f => Sys2Proof.Machine.execVfcmp w d a b k c f s
  | .viadd w d a b k s0 f => Sys2Proof.Machine.execViadd w d a b k s0 f s
  | .visub w d a b k s0 f => Sys2Proof.Machine.execVisub w d a b k s0 f s
  | .vimul w d a b k s0 f => Sys2Proof.Machine.execVimul w d a b k s0 f s
  | .vimulh w d a b k f => Sys2Proof.Machine.execVimulh w d a b k f s
  | .vimax w d a b k f => Sys2Proof.Machine.execVimax w d a b k f s
  | .vimin w d a b k f => Sys2Proof.Machine.execVimin w d a b k f s
  | .vshl w d a b k s0 f => Sys2Proof.Machine.execVshl w d a b k s0 f s
  | .vshr w d a b k f => Sys2Proof.Machine.execVshr w d a b k f s
  | .vsar w d a b k f => Sys2Proof.Machine.execVsar w d a b k f s
  | .vicmp w d a b k c f => Sys2Proof.Machine.execVicmp w d a b k c f s
  | .viabs w d a k s0 f => Sys2Proof.Machine.execViabs w d a k s0 f s
  | .vand w d a b k => Sys2Proof.Machine.execVand w d a b k s
  | .vor w d a b k => Sys2Proof.Machine.execVor w d a b k s
  | .vxor w d a b k => Sys2Proof.Machine.execVxor w d a b k s
  | .vandn w d a b k => Sys2Proof.Machine.execVandn w d a b k s
  | .vsel w d a b k => Sys2Proof.Machine.execVsel w d a b k s
  | .vmov w d a k => Sys2Proof.Machine.execVmov w d a k s
  | .vli w d k e => Sys2Proof.Machine.execVli w d k e s
  | .vkop w d a b l => Sys2Proof.Machine.execVkop w d a b l s
  | .vpopc w d a k f => Sys2Proof.Machine.execVpopc w d a k f s
  | .vclz w d a k f => Sys2Proof.Machine.execVclz w d a k f s
  | .vlcnt w d k => Sys2Proof.Machine.execVlcnt w d k s
  | .vcvt w d a t s0 r u p => Sys2Proof.Machine.execVcvt w d a t s0 r u p s
  | .vmxp w d a t s0 r p => Sys2Proof.Machine.execVmxp w d a t s0 r p s
  | .vmxs w d a t s0 => Sys2Proof.Machine.execVmxs w d a t s0 s
  | .vmxu w d a t s0 r u p => Sys2Proof.Machine.execVmxu w d a t s0 r u p s
  | .vfma f w d a b c r u => Sys2Proof.Machine.execVfma f w d a b c r u s
  | .vexp2 d a => Sys2Proof.Machine.execVexp2 d a s
  | .vlog2 d a => Sys2Proof.Machine.execVlog2 d a s
  | .vrcpe d a => Sys2Proof.Machine.execVrcpe d a s
  | .vrsqe d a => Sys2Proof.Machine.execVrsqe d a s
  | .vrcps d a b r => Sys2Proof.Machine.execVrcps d a b r s
  | .vrsqs d a b r => Sys2Proof.Machine.execVrsqs d a b r s
  | .vsqrt d a r => Sys2Proof.Machine.execVsqrt d a r s
  | .ftbl d a r f t => Sys2Proof.Machine.execFtbl d a r f t s
  | .ftld a t p => Sys2Proof.Machine.execFtld a t p s
  | .fmov d a => Sys2Proof.Machine.execFmov d a s
  | .psum f r c d => Sys2Proof.Machine.execPsum f r c d s
  | .pmax f c d => Sys2Proof.Machine.execPmax f c d s
  | .pmin f c d => Sys2Proof.Machine.execPmin f c d s
  | .psums f r c s0 d => Sys2Proof.Machine.execPsums f r c s0 d s
  | .pmaxs f c s0 d => Sys2Proof.Machine.execPmaxs f c s0 d s
  | .pmins f c s0 d => Sys2Proof.Machine.execPmins f c s0 d s
  | .cmpct c d => Sys2Proof.Machine.execCmpct c d s
  | .mfire b z => Sys2Proof.Machine.execMfire b z s
  | .mtile d t c => Sys2Proof.Machine.execMtile d t c s
  | .mfmt a b m => Sys2Proof.Machine.execMfmt a b m s
  | .mgeom a => Sys2Proof.Machine.execMgeom a s
  | .mclr b n => Sys2Proof.Machine.execMclr b n s
  | .mdrn b g c => Sys2Proof.Machine.execMdrn b g c s
  | .mpre b g => Sys2Proof.Machine.execMpre b g s
  | .dcopyLin d t a r s0 imm => Sys2Proof.Machine.execDcopyLin d t a r s0 imm s
  | .dcopyStr d t a r s0 imm => Sys2Proof.Machine.execDcopyStr d t a r s0 imm s
  | .dcopyNest d t a r s0 imm => Sys2Proof.Machine.execDcopyNest d t a r s0 imm s
  | .dcopyPad d t a r s0 imm => Sys2Proof.Machine.execDcopyPad d t a r s0 imm s
  | .dcopyView d t a r s0 imm => Sys2Proof.Machine.execDcopyView d t a r s0 imm s
  | .dcopyRem d t a r s0 imm => Sys2Proof.Machine.execDcopyRem d t a r s0 imm s
  | .dcopyHost d t a r s0 imm => Sys2Proof.Machine.execDcopyHost d t a r s0 imm s
  | .put d t a r s0 => Sys2Proof.Machine.execPut d t a r s0 s
  | .hgath d t a r s0 m => Sys2Proof.Machine.execHgath d t a r s0 m s
  | .hredSum d t a r s0 u f => Sys2Proof.Machine.execHredSum d t a r s0 u f s
  | .hredMax d t a r s0 u f => Sys2Proof.Machine.execHredMax d t a r s0 u f s
  | .hredMin d t a r s0 u f => Sys2Proof.Machine.execHredMin d t a r s0 u f s
  | .hcvt d t a r s0 => Sys2Proof.Machine.execHcvt d t a r s0 s
  | .hatomAdd d t a r s0 w => Sys2Proof.Machine.execHatomAdd d t a r s0 w s
  | .hatomMax d t a r s0 w => Sys2Proof.Machine.execHatomMax d t a r s0 w s
  | .hatomMin d t a r s0 w => Sys2Proof.Machine.execHatomMin d t a r s0 w s
  | .hatomXchg d t a r s0 w => Sys2Proof.Machine.execHatomXchg d t a r s0 w s
  | .hatomCas d t a r s0 w => Sys2Proof.Machine.execHatomCas d t a r s0 w s
  | .hatomAddFp32 d t a r s0 => Sys2Proof.Machine.execHatomAddFp32 d t a r s0 s
  | .hatomMaxFp32 d t a r s0 => Sys2Proof.Machine.execHatomMaxFp32 d t a r s0 s
  | .hatomMinFp32 d t a r s0 => Sys2Proof.Machine.execHatomMinFp32 d t a r s0 s
  | .probeUnpin d t a r s0 => Sys2Proof.Machine.execProbeUnpin d t a r s0 s
  | .probeR d t a r s0 => Sys2Proof.Machine.execProbeR d t a r s0 s
  | .probeW d t a r s0 => Sys2Proof.Machine.execProbeW d t a r s0 s
  | .probeRw d t a r s0 => Sys2Proof.Machine.execProbeRw d t a r s0 s
  | .fence t s0 => Sys2Proof.Machine.execFence t s0 s
  | .fenceSc t s0 => Sys2Proof.Machine.execFenceSc t s0 s
  | .vsync t => Sys2Proof.Machine.execVsync t s
  | .tadv d t => Sys2Proof.Machine.execTadv d t s
  | .tsetSet d t => Sys2Proof.Machine.execTsetSet d t s
  | .tsetSeterr d t => Sys2Proof.Machine.execTsetSeterr d t s
  | .tsetClrerr d t => Sys2Proof.Machine.execTsetClrerr d t s
  | .enq d t a r s0 => Sys2Proof.Machine.execEnq d t a r s0 s
  | .cload d t a r s0 => Sys2Proof.Machine.execCload d t a r s0 s
  | .rsolve d t a r s0 k m => Sys2Proof.Machine.execRsolve d t a r s0 k m s
  | .rd b x => Sys2Proof.Machine.execRd b x s
  | .rdc b x => Sys2Proof.Machine.execRdc b x s
  | .rdi b x => Sys2Proof.Machine.execRdi b x s
  | .waitf b x n => Sys2Proof.Machine.execWaitf b x n s
  | .rload r k b x => Sys2Proof.Machine.execRload r k b x s
  | .wr b x => Sys2Proof.Machine.execWr b x s
  | .wrm b x m => Sys2Proof.Machine.execWrm b x m s
  | .wrf b x n => Sys2Proof.Machine.execWrf b x n s
  | .rsave r k b x => Sys2Proof.Machine.execRsave r k b x s
  | .pageMigrationComplete page => Sys2Proof.Machine.execPageMigrationComplete page s
  | .otherHostTierWrite addr v => Sys2Proof.Machine.execOtherHostTierWrite addr v s
  | .cnpReceive port qp => Sys2Proof.Machine.execCnpReceive port qp s
  | .pfcPauseReceive port prio pause => Sys2Proof.Machine.execPfcPauseReceive port prio pause s
  | .bundleIssue => Sys2Proof.Machine.execBundleIssue s
  | .resultLanding => Sys2Proof.Machine.execResultLanding s
  | .hitchLaneArrival => Sys2Proof.Machine.execHitchLaneArrival s
  | .engineLineWrite => Sys2Proof.Machine.execEngineLineWrite s
  | .mtileFiring => Sys2Proof.Machine.execMtileFiring s
  | .routeLoadSwitch => Sys2Proof.Machine.execRouteLoadSwitch s
  | .softYield => Sys2Proof.Machine.execSoftYield s
  | .huskSave => Sys2Proof.Machine.execHuskSave s
  | .stallWatchdogExpiry => Sys2Proof.Machine.execStallWatchdogExpiry s
  | .lotteryDraw => Sys2Proof.Machine.execLotteryDraw s
  | .modeChangeComplete => Sys2Proof.Machine.execModeChangeComplete s
  | .packageBeat => Sys2Proof.Machine.execPackageBeat s
  | .podBeatLost => Sys2Proof.Machine.execPodBeatLost s
  | .correctionWindowEnd => Sys2Proof.Machine.execCorrectionWindowEnd s
  | .ageingRefresh => Sys2Proof.Machine.execAgeingRefresh s
  | .fevtfRead => Sys2Proof.Machine.execFevtfRead s
  | .fevtmRead => Sys2Proof.Machine.execFevtmRead s
  | .hevt0Read => Sys2Proof.Machine.execHevt0Read s
  | .coldReset => Sys2Proof.Machine.execColdReset s
  | .warmReset => Sys2Proof.Machine.execWarmReset s
  | .srstatWarmWrite => Sys2Proof.Machine.execSrstatWarmWrite s
  | .srstatClrWrite => Sys2Proof.Machine.execSrstatClrWrite s
  | .thermalShutdown => Sys2Proof.Machine.execThermalShutdown s
  | .powerLoss => Sys2Proof.Machine.execPowerLoss s
  | .effHourlySample => Sys2Proof.Machine.execEffHourlySample s

end Sys2Proof.Machine
end

