-- ==== Sys2Proof/Machine/Turn.lean ====
section
/-! DEFINITION. One ic of a place, one moment of the machine, and what a task of the agenda does (notes/assumptions 3, 4, 5;
spec/11_bundle.md R159, spec/03_execution.md R69, R70, spec/14_control_scalar.md R216, R234, spec/23_traps.md R331 to R337). -/

namespace Sys2Proof.Machine

open Sys2Proof

/-! ### One ic of a place -/

/-- Whether a context is frozen in an ic (R234): until the first ic of its handler or of its restored issue, or by a hard
freeze. -/
def Seq.frozen (q : Seq) (ic : Nat) : Bool := decide (ic < q.thaw) || (match q.phase with | .parking h => h | _ => false)

/-- A master's sequencer as an ic begins: the posts of the ic before are taken, and what governs from this ic on governs
(R179, R183, R211, R234). -/
def Seq.begin_ (q : Seq) (ic : Nat) : Seq :=
  let q := q.takePosts
  let w := match q.winNext with
    | some p => if p.1 ≤ ic then some p.2 else none
    | none => none
  { q.auditTake ic with
    winBase := w.getD q.winBase, winNext := if w.isSome then none else q.winNext,
    cyc := if q.begun && !q.frozen (ic - 1) then q.cyc + 1 else q.cyc }

/-- Begin an ic on the members of a place. -/
def State.beginIc (s : State) (m : BitVec 3) : State :=
  let s := (s.members m).foldl (fun s c => s.onCoach c fun k => { k with ic := k.ic + 1 }) s
  s.onSq m fun q => q.begin_ (s.coach m).ic

/-- Whether every operation of a member has executed and its results have landed (R335, step 2). -/
def Coach.drained (k : Coach) : Bool :=
  k.en.skew.isEmpty && k.en.loader.isEmpty && k.en.hitch.isEmpty && (k.en.inflight.all fun r => r.tile) &&
    k.en.switches.all fun w => w.item.isSome

/-- Whether nothing that an engine has accepted for a member is still to be written (R311). -/
def Coach.still (k : Coach) : Bool := k.en.inflight.isEmpty && k.en.engq.isEmpty && k.en.switches.isEmpty

/-- Whether a PROBE of a context is parked on a fault. -/
def Seq.probing (q : Seq) : Bool := q.items.any fun it => it.phase = .fault

/-- The stall limit of a unit in ticks (R70). -/
def State.stallLimit (s : State) (u : Unit) : Nat := (if u.wdog = 0 then s.hub.wdef.toNat else u.wdog.toNat) * Config.usTicks

/-- An ic of a stalled context (R70): the count advances, but not while a PROBE is parked (R110). -/
def State.stallTurn (s : State) (m : BitVec 3) : List Task × State :=
  let q := (s.coach m).sq
  if q.probing then ([], s)
  else
    let n := q.stall + Config.icTicks
    let s := s.onSq m fun q => { q with stall := n }
    match (s.coach m).unit with
    | some u => (if s.stallLimit u ≤ n then [.op (evFrame m) .stallWatchdogExpiry] else [], s)
    | none => ([], s)

/-- What the sequencer of a place does in an ic: tasks that come first, whether a bundle is to be fetched, and the state. -/
structure Plan where
  first : List Task
  fetch : Bool
  state : State

/-- A bundle that waits reads the full bits its WAITF names (R18, R250, R371). -/
def State.countWait (s : State) (m : BitVec 3) : State :=
  if (s.members m).any fun c => (s.coach c).en.full.any fun e => disagree e.2 then
    let q := (s.coach m).sq
    let b := (fetchBundle q).1
    let l := legalOps b
    s.countFull m l (onPath (headOp l) (syllable b 14) (bundlePath q (headOp l) b))
  else s

/-- The bundle next in line of a running context is judged on a copy in which this ic's results have landed and its entries have
switched. A unit's first bundle
waits until every arrival accepted before it stands in its bank (R19). -/
def State.planRun (s : State) (m : BitVec 3) : Plan :=
  let k := s.coach m
  let q := k.sq
  let owed := !q.begun && (s.members m).any fun c => (s.coach c).en.engq.any fun w => w.item.isNone
  if k.ic < q.earliest || owed then { first := [], fetch := false, state := s }
  else
    match judge (s.landAll m) m with
    | .cause c mem arg =>
      if q.inh then
        let s := s.doubleFault m c mem arg
        { first := [.op (evFrame m) (.fatalContextError m 0x22)], fetch := false, state := s }
      else { first := [.op (evFrame m) (.trapEntry m c mem arg)], fetch := false, state := s }
    | .preempt => { first := [], fetch := false, state := s.hardFreeze m }
    | v =>
      if q.inh && q.preempt.any (·.hard) then
        { first := [], fetch := false, state := s.onSq m fun q => { q with phase := .draining true } }
      else
        match v with
        | .wait => let w := (s.countWait m).stallTurn m; { first := w.1, fetch := false, state := w.2 }
        | _ => { first := [], fetch := true, state := s }

/-- What the sequencer of a place does in an ic, by its phase. -/
def State.planPlace (s : State) (m : BitVec 3) : Plan :=
  let q := (s.coach m).sq
  let ms := s.members m
  let quiet := ms.all fun c => (s.coach c).drained
  let gangDone : Bool := q.gang.all fun g => decide (g.due ≤ (s.coach m).ic)
  let still := ms.all fun c => (s.coach c).still
  let none_ : Plan := { first := [], fetch := false, state := s }
  if q.inh && q.pending.any (fun p => p.hnd) && (match q.phase with | .dead _ => false | _ => true) then
    { none_ with first := [.op (evFrame m) (.fatalContextError m 0x22)] }
  else
    match q.phase with
    | .running => s.planRun m
    | .draining hard =>
      if !(quiet && gangDone) then none_
      else if hard then { none_ with state := s.onSq m fun q => { q with phase := .parking true } }
      else { none_ with first := [.op (evFrame m) .softYield] }
    | .parking _ => if still && q.items.all Item.atRest then { none_ with first := [.op (evFrame m) .huskSave] } else none_
    | .exited => if quiet && still && q.items.isEmpty then { none_ with first := [.op (evFrame m) (.unitRetire m 1)] } else none_
    | .dead _ => if still then { none_ with first := [.op (evFrame m) (.unitRetire m 2)] } else none_
    | .pinning _ => none_
    | .parked => none_

/-- The tasks of a member as an ic begins: landings, then the entries that switch. -/
def State.landTasks (s : State) (c : BitVec 3) : List Task :=
  let k := s.coach c
  [.op (evFrame c) .resultLanding, .op (evFrame c) .hitchLaneArrival] ++
  (if k.en.switches.any fun w => w.item = none && w.due ≤ k.ic then [.op (evFrame c) .routeLoadSwitch] else [])

/-- The solver's switches of a member that are due: a slot's write of the same condition bit in this ic stands over theirs (R248). -/
def State.solveTasks (s : State) (c : BitVec 3) : List Task := (s.solverDue c).map fun p => .op (evFrame p.1) (.rsolveSwitch p.1 p.2)

/-- One ic of a place: what stops or goes on in its sequencer, and the tasks of its members in their order (log 4). Of a solver's and
an RLOAD's switch of one entry in one ic the RLOAD's comes second and stands (log 70, DESIGN CHOICE). -/
def State.placeTurn (s : State) (m : BitVec 3) : State :=
  let s := (s.beginIc m).comeBack m
  let p := s.planPlace m
  let s := p.state
  let ms := s.members m
  let tiles := ms.filter fun c => !(s.coach c).en.tiles.isEmpty
  let tasks := p.first ++ ms.flatMap s.solveTasks ++ ms.flatMap s.landTasks ++ tiles.map (fun c => Task.op (evFrame c) .mtileFiring) ++
    (if p.fetch then [.fetch m] else []) ++ ms.map Task.ops ++ [.ops m] ++ ms.map Task.loader ++
    ms.map (fun c => Task.op (evFrame c) .engineLineWrite) ++ [.service m]
  { s with agenda := tasks ++ s.agenda }

/-! ### One moment -/

/-- Whether an input still reaches a module that has no power: the power comes back. -/
def isPowerOn (i : Instr) : Bool := match i with | .coldReset => true | _ => false

/-- Whether an input is a management access of a register: within one ic it follows the firmware's accesses (R379). -/
def isManagement (i : Instr) : Bool := match i with | .mgmtRead _ => true | .mgmtWrite _ => true | _ => false

/-- The masters and the free coaches: one for each place. -/
def State.heads (s : State) : List (BitVec 3) :=
  eight.filter fun c => match (s.coach c).unit with | some u => u.master = c | none => true

/-- The masters and the free coaches whose place runs an ic at this moment. -/
def State.placesNow (s : State) : List (BitVec 3) := s.heads.filter fun c => !s.gatedNow c

/-- What goes on at a place that runs no ic (R381): its items and its arrivals. -/
def State.gatedTasks (s : State) (m : BitVec 3) : List Task :=
  (s.members m).map (fun c => Task.op (evFrame c) .engineLineWrite) ++ [.service m]

/-- A coach of a gated place as a moment begins: what took effect in its last ic or has arrived since stands in its banks, and its
engine read ports are free again. -/
def Coach.settle (k : Coach) : Coach :=
  let t := ({ k with ic := k.ic + 1 } : Coach).landPosts
  { t with ic := k.ic, en := { t.en with readIc := [] } }

/-- The places at this moment: those that run an ic, and those that are gated (R381). -/
def State.placesTurn (s : State) : State :=
  let gated := s.heads.filter s.gatedNow
  let tasks := s.placesNow.map Task.place ++ gated.flatMap s.gatedTasks
  let t := (gated.flatMap s.members).foldl (fun (s : State) (c : BitVec 3) => s.onCoach c Coach.settle) s
  { t with agenda := tasks ++ s.agenda }

/-- A coach as a moment begins: no mailbox has been written from outside in it (R231). -/
def Coach.quietBoxes (k : Coach) : Coach := { k with sq := { k.sq with mbOut := [] } }

/-- The next moment: time goes on by one ic, and what is due in it is put on the agenda (log 4). -/
def State.tick (s : State) : State :=
  let t := s.now + Config.icTicks
  let s : State := { s with now := t, plat := { s.plat with odd := !s.plat.odd }, coaches := s.coaches.map Coach.quietBoxes }
  let due := s.timers.filter fun e => e.1 ≤ t
  let ins := s.inputs.filter fun e => e.1 ≤ t
  let s : State := { s with timers := s.timers.filter (fun e => !(e.1 ≤ t)), inputs := s.inputs.filter fun e => !(e.1 ≤ t) }
  let ops := fun (l : List (Nat × BitVec 3 × Instr)) => l.map fun e => Task.op (evFrame e.2.1) e.2.2
  let own := (ins.filter fun e => !isManagement e.2.2) ++ ins.filter fun e => isManagement e.2.2
  if s.plat.powered then
    let boot : List Task := if s.plat.safe || s.plat.step = 0xFF then [] else [.boot]
    { s with agenda := boot ++ ops due ++ ops own ++ [.schedule, .fabric, .places] }
  else { s with agenda := ops (ins.filter fun e => isPowerOn e.2.2) }

/-- The machine with an empty agenda: the next moment, or nothing ever happens again. -/
def State.advance (s : State) : Outcome :=
  if !s.plat.powered && s.inputs.isEmpty then .fault .unpowered else .next s.tick

/-! ### Tasks -/

/-- Fetch: the bundle next in line issues, and the first operation due in this ic runs. -/
def State.fetchTurn (s : State) (m : BitVec 3) : Outcome :=
  match exec .bundleIssue { s with cur := evFrame m } with
  | .next s =>
    match s.takeOps m with
    | ([], s) => .next s
    | (o :: rest, s) => exec o.2 { s with cur := o.1, agenda := rest.map (fun p => Task.op p.1 p.2) ++ s.agenda }
  | o => o

/-- Put a coach's operations of this ic on the agenda. -/
def State.opsTurn (s : State) (c : BitVec 3) : State :=
  let r := s.takeOps c
  { r.2 with agenda := r.1.map (fun p => Task.op p.1 p.2) ++ r.2.agenda }

/-- What a task does. -/
def State.runTask (s : State) : Task → Outcome
  | .op fr i => exec i { s with cur := fr }
  | .places => .next s.placesTurn
  | .place c => .next (s.placeTurn c)
  | .fetch c => s.fetchTurn c
  | .ops c => .next (s.opsTurn c)
  | .loader c => .next (s.loaderTurn c)
  | .service c => .next (s.service c)
  | .fabric => .next s.fabricTurn
  | .schedule => .next s.schedTurn
  | .boot => .next s.bootTurn

/-! ### A program for the next fetch (log 7) -/

/-- A unit that holds everything a coach can reserve. -/
def wholeUnit : Unit :=
  { ctx := 0, gsize := 0, member := 0, master := 0, queue := 0, slot := 0, lin := 0, job := 0, bmask := BitVec.allOnes 48, accb := 256,
    rrd := 511, rwr := 511, tokN := 64, wdog := 0, hndl := 0, kaddr := 0, klen := 0, prio := 0, since := 0, cload := false }

/-- The slot in which a word of the opcode table stands: that of the class whose reading `decodeTableWord` takes (log 8). -/
def tableSlot (nbits w : Nat) : Slot :=
  match decodeTableWord nbits w with
  | none => .h
  | some i => (((tableOrder.find? fun k => decide (decodeCls k (BitVec.ofNat 32 w) = some i)).map Cls.slot).getD .h)

/-- A bundle that holds one word in a slot; every other syllable is zero. -/
def bundleOf (sl : Slot) (w : Nat) : Bundle := BitVec.ofNat 512 (w % 2 ^ 32 * 2 ^ (32 * sl.syl))

/-- Coach 0 runs a unit with a bundle next in line, and its fetch is the next task. -/
def State.withBundle (s : State) (b : Bundle) : State :=
  let k := s.coach 0
  let s := s.setCoach 0 { k with
    unit := some wholeUnit, sq := { k.sq with code := poke k.sq.code k.sq.pc b, phase := .running, earliest := k.ic } }
  { s with agenda := .fetch 0 :: s.agenda }

end Sys2Proof.Machine
end

