-- ==== Sys2Proof/Machine/Step.lean ====
section
/-! DEFINITION. One step of the machine: the first task of the agenda, or the next moment; and the placing of a word where the
next step fetches (notes/assumptions 4 and 7). -/

namespace Sys2Proof.Machine

open Sys2Proof

/-- One step. -/
def step (s : State) : Host.Outcome State Fault Refusal :=
  match s.agenda with
  | [] => s.advance
  | t :: rest => State.runTask { s with agenda := rest } t

/-- The state with a word as the bundle that the next step fetches on coach 0, in the slot of its reading (log 7, log 8). -/
def State.withFetchWord (s : State) (nbits w : Nat) : State := s.withBundle (bundleOf (tableSlot nbits w) w)

end Sys2Proof.Machine
end

