-- ==== Sys2Proof/Safety.lean ====
section
/-! DEFINITION. What counts as a safe run: no step stops. -/

namespace Sys2Proof

/-- One step goes on: it ends neither in a fault nor in a refusal. -/
def Machine.State.goesOn (s : Machine.State) : Prop := ∃ t, Machine.step s = .next t

/-- `n` steps go on. -/
def Machine.State.safeFor : Nat → Machine.State → Prop
  | 0, _ => True
  | n + 1, s => ∃ t, Machine.step s = .next t ∧ Machine.State.safeFor n t

/-- The memories have their canonical form: HBM, second tier and host memory. -/
def Machine.State.memoryWf (s : Machine.State) : Prop :=
  Machine.Memory.wf s.hbm = true ∧ Machine.Memory.wf s.tier = true ∧ Machine.Memory.wf s.host = true

/-- The stores of a coach have their canonical form. -/
def Machine.Coach.storesWf (k : Machine.Coach) : Prop :=
  [Machine.canon k.sq.ss, Machine.canon k.sq.code, Machine.canon k.en.tables, Machine.canon k.en.banks, Machine.canon k.en.full,
    Machine.canon k.en.acc, Machine.canon k.en.routesR, Machine.canon k.en.routesW, Machine.canon k.en.rin,
    Machine.canon k.en.oport].all id = true

/-- The stores of the coaches, of the husks and of the hub's, the fabric's and the platform's tables have their canonical
form. -/
def Machine.State.storesWf (s : Machine.State) : Prop :=
  (∀ c : BitVec 3, (s.coach c).storesWf) ∧ (∀ h ∈ s.hub.husks, Machine.canon h.image = true ∧ ∀ k ∈ h.saved, k.storesWf) ∧
  [Machine.canon s.hub.levels, Machine.canon s.hub.views, Machine.canon s.fab.routes, Machine.canon s.fab.windows,
    Machine.canon s.plat.ring, Machine.canon s.plat.errors, Machine.canon s.plat.flash].all id = true

end Sys2Proof
end

