-- ==== Sys2Proof/Certificates/Slice0/Obligations.lean ====
section
/-! DEFINITION. The statements for the provers, in the order of OBLIGATIONS.json. -/

/-! ### What the statements speak of -/

namespace Sys2Proof.Claims

open Sys2Proof Sys2Proof.Machine

/-- The invariant of the memories: each of HBM, second tier and host memory has its canonical form. -/
def MemoryInv (s : State) : Prop := s.memoryWf

/-- The invariant of the other stores: each of those of the coaches, husks and tables has its canonical form. -/
def StoresInv (s : State) : Prop := s.storesWf

/-- x[r] of the master: x0 reads zero (R5). -/
def xv (s : State) (r : BitVec 5) : Word := if r = 0 then 0 else (s.coach s.cur.master).sq.x[r.toNat]

/-- c[r] of the master: c0 reads one (R5). -/
def cv (s : State) (r : BitVec 4) : Bool := r = 0 || (s.coach s.cur.master).sq.c.getLsbD r.toNat

/-- Register, latency and value of a scalar result (R223 to R227, R231), by integer arithmetic. -/
def scalarSpec (s : State) : Instr → Option (BitVec 5 × Nat × Word)
  | .add d a b => some (d, 1, BitVec.ofInt 64 ((xv s a).toInt + (xv s b).toInt))
  | .sub d a b => some (d, 1, BitVec.ofInt 64 ((xv s a).toInt - (xv s b).toInt))
  | .and d a b => some (d, 1, xv s a &&& xv s b)
  | .or d a b => some (d, 1, xv s a ||| xv s b)
  | .xor d a b => some (d, 1, xv s a ^^^ xv s b)
  | .andn d a b => some (d, 1, xv s a &&& ~~~xv s b)
  | .shl d a b => some (d, 1, BitVec.ofNat 64 ((xv s a).toNat * 2 ^ ((xv s b).toNat % 64)))
  | .shr d a b => some (d, 1, BitVec.ofNat 64 ((xv s a).toNat / 2 ^ ((xv s b).toNat % 64)))
  | .sar d a b => some (d, 1, BitVec.ofInt 64 ((xv s a).toInt / 2 ^ ((xv s b).toNat % 64)))
  | .min d a b => some (d, 1, BitVec.ofInt 64 (min (xv s a).toInt (xv s b).toInt))
  | .max d a b => some (d, 1, BitVec.ofInt 64 (max (xv s a).toInt (xv s b).toInt))
  | .minu d a b => some (d, 1, BitVec.ofNat 64 (min (xv s a).toNat (xv s b).toNat))
  | .maxu d a b => some (d, 1, BitVec.ofNat 64 (max (xv s a).toNat (xv s b).toNat))
  | .clz d a => some (d, 1, BitVec.ofNat 64 ((List.range 64).takeWhile fun i => !(xv s a).getLsbD (63 - i)).length)
  | .popc d a => some (d, 1, BitVec.ofNat 64 ((List.range 64).countP fun i => (xv s a).getLsbD i))
  | .sel d a b c => some (d, 1, if cv s c then xv s a else xv s b)
  | .addi d a i => some (d, 1, BitVec.ofInt 64 ((xv s a).toInt + i.toInt))
  | .andi d a i => some (d, 1, xv s a &&& BitVec.ofNat 64 i.toNat)
  | .ori d a i => some (d, 1, xv s a ||| BitVec.ofNat 64 i.toNat)
  | .xori d a i => some (d, 1, xv s a ^^^ BitVec.ofNat 64 i.toNat)
  | .shli d a i => some (d, 1, BitVec.ofNat 64 ((xv s a).toNat * 2 ^ i.toNat))
  | .shri d a i => some (d, 1, BitVec.ofNat 64 ((xv s a).toNat / 2 ^ i.toNat))
  | .sari d a i => some (d, 1, BitVec.ofInt 64 ((xv s a).toInt / 2 ^ i.toNat))
  | .liw d e => some (d, 1, BitVec.ofInt 64 (s.cur.ext.extractLsb' (32 * e.toNat) 32).toInt)
  | .lid d e => some (d, 1, BitVec.ofNat 64
      ((s.cur.ext.extractLsb' (32 * (2 * e.toNat + 1)) 32).toNat * 2 ^ 32 + (s.cur.ext.extractLsb' (32 * (2 * e.toNat)) 32).toNat))
  | .mbr d m => some (d, 2, (s.coach s.cur.master).sq.mb[m.toNat])
  | _ => none

/-- The relations of R196 between two words, by code. -/
def relSpec (k : BitVec 3) (a o : Word) : Bool :=
  match k.toNat with
  | 0 => a.toNat = o.toNat
  | 1 => a.toNat ≠ o.toNat
  | 2 => a.toInt < o.toInt
  | 3 => o.toInt ≤ a.toInt
  | 4 => a.toNat < o.toNat
  | 5 => o.toNat ≤ a.toNat
  | 6 => (List.range 64).any fun i => a.getLsbD i && o.getLsbD i
  | _ => (List.range 64).all fun i => !(a.getLsbD i && o.getLsbD i)

/-- Condition bit and value of CMP, CMPI and CSET (R228, R229). -/
def condSpec (s : State) : Instr → Option (BitVec 4 × Bool)
  | .cmp c a k b => some (c, relSpec k (xv s a) (xv s b))
  | .cmpi c a k i => some (c, relSpec k (xv s a) (BitVec.ofInt 64 i.toInt))
  | .cset c a b l => some (c, l.toNat / 2 ^ (2 * (cv s a).toNat + (cv s b).toNat) % 2 = 1)
  | _ => none

/-- The effective address of LD and ST for an access of `n` bytes (R230). -/
def eaSpec (a : Word) (o : BitVec 13) (n : Nat) : Nat :=
  let ea := ((a.toInt + o.toInt) % 2 ^ 18).toNat
  ea - ea % n

/-- The registers that SRR reads (R232), laid out as their rules say, with a return stack of at most four entries; sy.gbind,
sy.gskew and sy.audit as they govern, pending writes apart (R38, R183), sy.fflag together for the gang (R95), sy.mfmt as it
governs the reading bundle (R281). -/
def sysSpec (s : State) (n : Nat) : Option Word :=
  let k := s.coach s.cur.master
  let q := k.sq
  let due := q.gang.filter fun g => g.due ≤ k.ic
  match n with
  | 0x000 =>
    let own : BitVec 3 × BitVec 2 × BitVec 2 := match k.unit with | some u => (u.master, u.member, u.gsize) | none => (s.cur.master, 0, 0)
    some (0#53 ++ own.1 ++ own.2.1 ++ own.2.2 ++ BitVec.ofBool (decide (4 ≤ s.cur.master.toNat)) ++ s.cur.master)
  | 0x001 => some q.unitReg
  | 0x002 => some q.gridReg
  | 0x003 => some (BitVec.ofNat 64 q.winBase.toNat)
  | 0x004 => some (0#46 ++ BitVec.ofNat 3 q.rstk.length ++ q.rstk.headD 0)
  | 0x005 => some q.cyc
  | 0x006 => some s.hub.pbeat
  | 0x010 => some (0#28 ++ (due.filterMap (·.bind)).getLast?.getD q.gbind)
  | 0x011 => some (0#10 ++ (due.filterMap (·.skew)).getLast?.getD q.gskew)
  | 0x018 => some (0#8 ++ q.hb)
  | 0x019 => some (0#8 ++ q.hl)
  | 0x01A => some (0#8 ++ q.ho)
  | 0x01B => some (0#25 ++ q.ptr)
  | 0x020 => some (0#24 ++ ((s.members s.cur.master).map fun c => (s.coach c).en.fflag).foldr (· ||| ·) 0)
  | 0x021 => some (0#32 ++ k.en.va.seed)
  | 0x022 => some (0#32 ++ k.en.vb.seed)
  | 0x023 => some (0#32 ++ k.en.vc.seed)
  | 0x024 => some (0#63 ++ BitVec.ofBool (((q.auditNext.filter fun a => a.1 ≤ k.ic).map (·.2.2)).getLast?.getD q.audit))
  | 0x025 => some (0#63 ++ BitVec.ofBool q.brk)
  | 0x026 => some (0#35 ++ q.padr)
  | 0x028 => some (0#32 ++ q.zs[0])
  | 0x029 => some (0#32 ++ q.zs[1])
  | 0x02A => some (0#32 ++ q.zs[2])
  | 0x02B => some (0#32 ++ q.zs[3])
  | 0x030 =>
    let v := ((k.en.latchQ.filter fun p => p.1 ≤ s.cur.bno).getLast?.map (·.2.2)).getD k.en.latch
    let a := v.extractLsb' 0 4
    some (0#40 ++ BitVec.ofNat 8 (if a = 7 then 128 else if a = 1 ∨ a = 2 then 32 else 64) ++ 0#7 ++ v)
  | 0x031 => some (0#7 ++ k.en.mgeom)
  | 0x040 => some (0#49 ++ q.epc)
  | 0x041 => some (0#53 ++ q.ecause)
  | 0x042 => some q.earg
  | 0x043 =>
    let pend := if q.inh = true then !q.pending.isEmpty || q.preempt.isSome else q.pend
    some (0#46 ++ BitVec.ofBool pend ++ q.rdep ++ q.ldep ++ BitVec.ofBool q.disc ++ q.qlen ++ BitVec.ofBool q.inh)
  | _ => none

/-- Test `j` of a TREE (R168): the condition bit against its sense, as they stand. -/
def treeTestSpec (s : State) (j : Nat) : Bool :=
  let e3 := s.cur.ext.extractLsb' 96 32
  cv s (e3.extractLsb' (5 * j) 4) != e3.getLsbD (5 * j + 4)

/-- Whether bundle `p` lies in the body of a loop level. -/
def inBody (l : LoopLevel) (p : Nat) : Prop := l.first ≤ p ∧ p ≤ l.last

/-- The levels that a break to bundle `p` leaves of a loop stack (R172): the innermost ones that do not hold `p` are popped. -/
def breaksTo (old new : List LoopLevel) (p : Nat) : Prop :=
  ∃ n, new = old.drop n ∧ (∀ l ∈ old.take n, ¬ inBody l p) ∧ (∀ l, new.head? = some l → inBody l p)

/-- A control operation of the bundle that issues makes bundle `p` next in line with the loop levels `ls`, after its hold
and a redirect of `r` ics (R159); nothing else changes. -/
def flowsTo (s : State) (p : Nat) (ls : List LoopLevel) (hold r : Nat) : State :=
  s.onSq s.cur.master fun q =>
    { q with pc := p, loops := ls, loopBuf := if ls = [] then [] else q.loopBuf,
             earliest := (s.coach s.cur.master).ic + 1 + hold + r }

/-- What follows the last bundle `i` of zero or more bodies (R172), after a hold and a redirect of `r` ics: the levels that end at
`i` with no iteration left are popped; a level that ends at `i` with one left goes back to its first bundle, which under a
pre-emption request outside the handler begins the yield when the back-edge is yield-safe (R69, R171); otherwise the following
bundle is next. -/
def followsBody (s : State) (i hold r : Nat) (t : State) : Prop :=
  let q := (s.coach s.cur.master).sq
  ∃ done rest, q.loops = done ++ rest ∧ (∀ l ∈ done, l.last = i ∧ l.left ≤ 1) ∧
    (∀ l u, rest = l :: u → l.last = i → 1 < l.left ∧
      t = (let g := flowsTo s l.first ({ l with left := l.left - 1 } :: u) hold r
        if l.ys = true ∧ q.preempt.isSome = true ∧ q.inh = false then g.onSq s.cur.master fun q => { q with phase := .draining false } else g)) ∧
    (∀ l u, rest = l :: u → l.last ≠ i → t = flowsTo s (i + 1) rest hold r) ∧
    (rest = [] → t = flowsTo s (i + 1) [] hold r)

/-- Slots that hold an instruction of each class (R190). -/
def slotsOf (k : Cls) : List Slot := [Slot.h, .n, .s0, .s1, .va, .vb, .vc, .f, .mx, .ax, .m0, .m1].filter fun sl => sl.cls = k

/-- An element of lane `l` of a vector source of the executing slot. -/
def el (s : State) (f : Nat) (r : BitVec 5) (l j : Nat) : Nat := elemOf f (laneOf (vsrc s.cen s.cl r) l) j

/-- An operation on elements: destination, modified lanes, latency, format, rounding mode, and each element's value and
flags (R256, R257, R259, R260, R265). -/
def elementSpec (s : State) : Instr → Option (BitVec 5 × BitVec 64 × Nat × Nat × BitVec 3 × (Nat → Nat → Nat × BitVec 6))
  | .vadd w d a b k r f => some (d, modified s.cen s.cl w k, 4, f.toNat, r, fun l j =>
      fpAdd f.toNat r.toNat (el s f.toNat a l j) (el s f.toNat b l j) (s.vrand r l j))
  | .vsub w d a b k r f => some (d, modified s.cen s.cl w k, 4, f.toNat, r, fun l j =>
      fpSub f.toNat r.toNat (el s f.toNat a l j) (el s f.toNat b l j) (s.vrand r l j))
  | .vmul w d a b k r f => some (d, modified s.cen s.cl w k, 4, f.toNat, r, fun l j =>
      fpMul f.toNat r.toNat (el s f.toNat a l j) (el s f.toNat b l j) (s.vrand r l j))
  | .vmax w d a b k f => some (d, modified s.cen s.cl w k, 4, f.toNat, 0, fun l j =>
      (fpMaxMin f.toNat true (el s f.toNat a l j) (el s f.toNat b l j), 0))
  | .vmin w d a b k f => some (d, modified s.cen s.cl w k, 4, f.toNat, 0, fun l j =>
      (fpMaxMin f.toNat false (el s f.toNat a l j) (el s f.toNat b l j), 0))
  | .vabs w d a k f => some (d, modified s.cen s.cl w k, 2, f.toNat, 0, fun l j =>
      (withSign f.toNat (fun _ => false) (el s f.toNat a l j), 0))
  | .vneg w d a k f => some (d, modified s.cen s.cl w k, 2, f.toNat, 0, fun l j =>
      (withSign f.toNat (fun n => !n) (el s f.toNat a l j), 0))
  | .viadd w d a b k u f => some (d, modified s.cen s.cl w k, 2, ifFmt f, 0, fun l j =>
      intResult (ifFmt f) u (decodeInt (ifFmt f) (el s (ifFmt f) a l j) + decodeInt (ifFmt f) (el s (ifFmt f) b l j)))
  | .visub w d a b k u f => some (d, modified s.cen s.cl w k, 2, ifFmt f, 0, fun l j =>
      intResult (ifFmt f) u (decodeInt (ifFmt f) (el s (ifFmt f) a l j) - decodeInt (ifFmt f) (el s (ifFmt f) b l j)))
  | .vimul w d a b k u f => some (d, modified s.cen s.cl w k, 2, ifFmt f, 0, fun l j =>
      intResult (ifFmt f) u (decodeInt (ifFmt f) (el s (ifFmt f) a l j) * decodeInt (ifFmt f) (el s (ifFmt f) b l j)))
  | .vimulh w d a b k f => some (d, modified s.cen s.cl w k, 2, ifFmt f, 0, fun l j =>
      (encodeInt (ifFmt f) (decodeInt (ifFmt f) (el s (ifFmt f) a l j) * decodeInt (ifFmt f) (el s (ifFmt f) b l j) /
        2 ^ fmtWidth (ifFmt f)), 0))
  | .vimax w d a b k f => some (d, modified s.cen s.cl w k, 2, ifFmt f, 0, fun l j =>
      (encodeInt (ifFmt f) (max (decodeInt (ifFmt f) (el s (ifFmt f) a l j)) (decodeInt (ifFmt f) (el s (ifFmt f) b l j))), 0))
  | .vimin w d a b k f => some (d, modified s.cen s.cl w k, 2, ifFmt f, 0, fun l j =>
      (encodeInt (ifFmt f) (min (decodeInt (ifFmt f) (el s (ifFmt f) a l j)) (decodeInt (ifFmt f) (el s (ifFmt f) b l j))), 0))
  | .viabs w d a k u f => some (d, modified s.cen s.cl w k, 2, ifFmt f, 0, fun l j =>
      intResult (ifFmt f) u (decodeInt (ifFmt f) (el s (ifFmt f) a l j)).natAbs)
  | .vshl w d a b k u f => some (d, modified s.cen s.cl w k, 2, ifFmt f, 0, fun l j =>
      intResult (ifFmt f) u (decodeInt (ifFmt f) (el s (ifFmt f) a l j) * 2 ^ el s (ifFmt f) b l j))
  | .vshr w d a b k f => some (d, modified s.cen s.cl w k, 2, ifFmt f, 0, fun l j =>
      (el s (ifFmt f) a l j / 2 ^ el s (ifFmt f) b l j, 0))
  | .vsar w d a b k f => some (d, modified s.cen s.cl w k, 2, ifFmt f, 0, fun l j =>
      (encodeInt (ifFmt f) (decodeInt (ifFmt f) (el s (ifFmt f) a l j) / 2 ^ el s (ifFmt f) b l j), 0))
  | .vpopc w d a k f => some (d, modified s.cen s.cl w k, 3, ifFmt f, 0, fun l j =>
      (((List.range (fmtWidth (ifFmt f))).countP fun i => (el s (ifFmt f) a l j).testBit i), 0))
  | .vclz w d a k f => some (d, modified s.cen s.cl w k, 3, ifFmt f, 0, fun l j =>
      (((List.range (fmtWidth (ifFmt f))).takeWhile fun i => !(el s (ifFmt f) a l j).testBit (fmtWidth (ifFmt f) - 1 - i)).length, 0))
  | .vfma f w d a b c r u => some (d, belowMask (widthLanes w), 4, f.toNat, r, fun l j =>
      fpFma f.toNat r.toNat (u = 1) (el s f.toNat a l j) (el s f.toNat b l j) (el s f.toNat c l j) (s.vrand r l j))
  | _ => none

/-- An operation on whole lanes: destination, modified lanes, latency, and each lane's value (R262, R263, R265). -/
def laneSpec (s : State) : Instr → Option (BitVec 5 × BitVec 64 × Nat × (Nat → Lane))
  | .vand w d a b k => some (d, modified s.cen s.cl w k, 2, fun l => s.vlane a l &&& s.vlane b l)
  | .vor w d a b k => some (d, modified s.cen s.cl w k, 2, fun l => s.vlane a l ||| s.vlane b l)
  | .vxor w d a b k => some (d, modified s.cen s.cl w k, 2, fun l => s.vlane a l ^^^ s.vlane b l)
  | .vandn w d a b k => some (d, modified s.cen s.cl w k, 2, fun l => s.vlane a l &&& ~~~s.vlane b l)
  | .vsel w d a b k => some (d, belowMask (widthLanes w), 2, fun l =>
      if (kread (s.cen.cluster s.cl) k).getLsbD l then s.vlane a l else s.vlane b l)
  | .vmov w d a k => some (d, modified s.cen s.cl w k, 2, fun l => s.vlane a l)
  | .vli w d k e => some (d, modified s.cen s.cl w k, 2, fun _ => s.cur.ext.extractLsb' (32 * e.toNat) 32)
  | .vlcnt w d k => some (d, belowMask (widthLanes w), 3, fun l =>
      BitVec.ofNat 32 ((List.range (l + 1)).countP fun i => (kread (s.cen.cluster s.cl) k).getLsbD i))
  | _ => none

/-- The relations of R196 between two numbers, by compare code. -/
def orderSpec (c : Nat) (x y : Int) : Bool :=
  match c with
  | 0 => x = y
  | 1 => x ≠ y
  | 2 => x < y
  | 3 => x ≤ y
  | 4 => y < x
  | _ => y ≤ x

/-- An operation on masks: destination, modified bits, and each bit (R258, R261, R264). -/
def maskSpec (s : State) : Instr → Option (BitVec 3 × BitVec 64 × (Nat → Bool))
  | .vfcmp w d a b k c f => some (d, modified s.cen s.cl w k, fun l =>
      (List.range (fmtElems f.toNat)).all fun j => fpRel f.toNat c.toNat (el s f.toNat a l j) (el s f.toNat b l j))
  | .vicmp w d a b k c f => some (d, modified s.cen s.cl w k, fun l =>
      (List.range (fmtElems (ifFmt f))).all fun j =>
        orderSpec c.toNat (decodeInt (ifFmt f) (el s (ifFmt f) a l j)) (decodeInt (ifFmt f) (el s (ifFmt f) b l j)))
  | .vkop w d a b o => some (d, belowMask (widthLanes w), fun l =>
      o.toNat / 2 ^ (2 * ((kread (s.cen.cluster s.cl) a).getLsbD l).toNat + ((kread (s.cen.cluster s.cl) b).getLsbD l).toNat) % 2 = 1)
  | _ => none

/-- Lower and upper bound of each integer format (R83). -/
def intSpec : Nat → ℤ × ℤ
  | 9 => (-2147483648, 2147483647)
  | 10 => (-32768, 32767)
  | 11 => (-128, 127)
  | 12 => (0, 255)
  | _ => (-8, 7)

/-- One element from a format to a format (R267), by what kinds of format they are. -/
def convSpec (tf sf mode : Nat) (sat : Bool) (b u : Nat) : Nat × BitVec 6 :=
  let v := decodeInt sf b
  if 9 ≤ sf ∧ 9 ≤ tf then
    let w := if sat = true then max (intSpec tf).1 (min (intSpec tf).2 v) else v
    ((w % 2 ^ fmtWidth tf).toNat, if w = v then 0 else flSA)
  else if 9 ≤ sf then roundNum tf mode sat (.fin (decide (v < 0)) v.natAbs 0) u
  else if 9 ≤ tf then numToInt tf mode (decodeNum sf b) u
  else roundNum tf mode sat (decodeNum sf b) u

/-- The scale of block `k` of a source, from those of its 32 elements that lie below the width (R85, R269). -/
def scaleSpec (s : State) (tf sf n : Nat) (a : BitVec 5) (k : Nat) : Nat :=
  mxScale tf (((List.range 32).filter fun j => 32 * k + j < n * fmtElems sf).map fun j =>
    decodeNum sf (el s sf a ((32 * k + j) / fmtElems sf) ((32 * k + j) % fmtElems sf)))

/-- A placed conversion (R267): destination format, source format, part, width, destination, source, rounding mode and
each produced element's value and flags from its source bits (R266, R269). -/
def convertSpec (s : State) : Instr →
    Option (Nat × Nat × Nat × BitVec 2 × BitVec 5 × BitVec 5 × BitVec 3 × (Nat → Nat → Nat → Nat × BitVec 6))
  | .vcvt w d a t f r u p => if t = f then none else
      some (t.toNat, f.toNat, p.toNat, w, d, a, r, fun l j b => convSpec t.toNat f.toNat r.toNat (u = 1) b (s.vrand r l j))
  | .vmxp w d a t f r p =>
      some (t.toNat, f.toNat, p.toNat, w, d, a, r, fun l j b =>
        mxElem t.toNat r.toNat (scaleSpec s t.toNat f.toNat (widthLanes w) a ((l * fmtElems f.toNat + j) / 32))
          (decodeNum f.toNat b) (s.vrand r l j))
  | .vmxu w d a t f r u p =>
      some (t.toNat, f.toNat, p.toNat, w, d, a, r, fun l j b =>
        roundNum t.toNat r.toNat (u = 1)
          (if (s.vlane d l).toNat % 256 = 255 then .nan else (decodeNum f.toNat b).scale (((s.vlane d l).toNat % 256 : Nat) - 127 : Int))
          (s.vrand r l j))
  | _ => none

/-- A special function on the lanes of a source (R98 to R100, R271): destination, source, latency, whether it delivers an
estimate, and each lane's value and flags from its bits and the lane's free value. -/
def sfSpec (s : State) : Instr → Option (BitVec 3 × BitVec 3 × Nat × Bool × (Nat → Nat → BitVec 32 → Nat × BitVec 6))
  | .vexp2 d a => some (d, a, 8, true, fun _ b e => exp2Elem b e)
  | .vlog2 d a => some (d, a, 8, true, fun _ b e => log2Elem b e)
  | .vrcpe d a => some (d, a, 8, true, fun _ b e => rcpeElem b e)
  | .vrsqe d a => some (d, a, 8, true, fun _ b e => rsqeElem b e)
  | .vrcps d a b r => some (d, a, 4, false, fun l x _ => refineElem false r.toNat x (laneOf (fsrc s.cen b) l).toNat)
  | .vrsqs d a b r => some (d, a, 4, false, fun l x _ => refineElem true r.toNat x (laneOf (fsrc s.cen b) l).toNat)
  | .vsqrt d a r => some (d, a, 12, false, fun _ x _ => sqrtElem r.toNat x)
  | .fmov d a => some (d, a, 6, false, fun _ x _ => (x, 0))
  | _ => none

/-- A scan (R275 to R278): operation, format, rounding mode, whether the carry is taken in, register of the heads (0 for
none) and destination. -/
def scanSpec : Instr → Option (Nat × BitVec 4 × BitVec 3 × BitVec 1 × BitVec 3 × BitVec 3)
  | .psum f r c d => some (0, f, r, c, 0, d)
  | .pmax f c d => some (1, f, 0, c, 0, d)
  | .pmin f c d => some (2, f, 0, c, 0, d)
  | .psums f r c g d => some (0, f, r, c, g, d)
  | .pmaxs f c g d => some (1, f, 0, c, g, d)
  | .pmins f c g d => some (2, f, 0, c, g, d)
  | _ => none

/-- The elements that output element `n` of a scan combines (R276 to R278): from the last head at or before `n`, the carry
first when there is no such head. -/
def scanTermsSpec (carry : List Nat) (xs : List Nat) (head : Nat → Bool) (n : Nat) : List Nat :=
  match (List.range (n + 1)).reverse.find? fun i => head i with
  | some i => (List.range (n + 1 - i)).map fun k => xs.getD (i + k) 0
  | none => carry ++ (List.range (n + 1)).map fun k => xs.getD k 0

/-- Major opcode, SUB, consistency bits and descriptor length of a command that issues an item (R203 to R205): token, acquire,
release, scope, the descriptor's register and words. -/
def commandSpec : Instr → Option (BitVec 6 × Nat × BitVec 4 × BitVec 1 × BitVec 1 × BitVec 4 × BitVec 5 × Nat)
  | .dcopyLin d t a r sc i => some (1, 0 + 8 * i.toNat, t, a, r, sc, d, 8)
  | .dcopyStr d t a r sc i => some (1, 1 + 8 * i.toNat, t, a, r, sc, d, 8)
  | .dcopyNest d t a r sc i => some (1, 2 + 8 * i.toNat, t, a, r, sc, d, 8)
  | .dcopyPad d t a r sc i => some (1, 3 + 8 * i.toNat, t, a, r, sc, d, 8)
  | .dcopyView d t a r sc i => some (1, 4 + 8 * i.toNat, t, a, r, sc, d, 8)
  | .dcopyRem d t a r sc i => some (1, 5 + 8 * i.toNat, t, a, r, sc, d, 8)
  | .dcopyHost d t a r sc i => some (1, 6 + 8 * i.toNat, t, a, r, sc, d, 8)
  | .put d t a r sc => some (2, 0, t, a, r, sc, d, 2)
  | .hgath d t a r sc m => some (3, m.toNat, t, a, r, sc, d, 5)
  | .hredSum d t a r sc u f => some (4, 0 + 4 * f.toNat + 64 * u.toNat, t, a, r, sc, d, 4)
  | .hredMax d t a r sc u f => some (4, 1 + 4 * f.toNat + 64 * u.toNat, t, a, r, sc, d, 4)
  | .hredMin d t a r sc u f => some (4, 2 + 4 * f.toNat + 64 * u.toNat, t, a, r, sc, d, 4)
  | .hcvt d t a r sc => some (5, 0, t, a, r, sc, d, 4)
  | .hatomAdd d t a r sc w => some (6, 0 + w.toNat, t, a, r, sc, d, 4)
  | .hatomMax d t a r sc w => some (6, 2 + w.toNat, t, a, r, sc, d, 4)
  | .hatomMin d t a r sc w => some (6, 4 + w.toNat, t, a, r, sc, d, 4)
  | .hatomXchg d t a r sc w => some (6, 6 + w.toNat, t, a, r, sc, d, 4)
  | .hatomCas d t a r sc w => some (6, 8 + w.toNat, t, a, r, sc, d, 4)
  | .hatomAddFp32 d t a r sc => some (6, 10, t, a, r, sc, d, 4)
  | .hatomMaxFp32 d t a r sc => some (6, 11, t, a, r, sc, d, 4)
  | .hatomMinFp32 d t a r sc => some (6, 12, t, a, r, sc, d, 4)
  | .probeUnpin d t a r sc => some (7, 0, t, a, r, sc, d, 2)
  | .probeR d t a r sc => some (7, 1, t, a, r, sc, d, 2)
  | .probeW d t a r sc => some (7, 2, t, a, r, sc, d, 2)
  | .probeRw d t a r sc => some (7, 3, t, a, r, sc, d, 2)
  | .fence t sc => some (8, 0, t, 0, 0, sc, 0, 0)
  | .fenceSc t sc => some (9, 0, t, 0, 0, sc, 0, 0)
  | .vsync t => some (10, 0, t, 0, 0, 0, 0, 0)
  | .enq d t a r sc => some (13, 0, t, a, r, sc, d, 2)
  | .cload d t a r sc => some (14, 0, t, a, r, sc, d, 2)
  | .rsolve d t a r sc k m => some (15, m.toNat + 4 * k.toNat, t, a, r, sc, d, 2)
  | .mtile d t _ => some (2, 0x7FF, t, 0, 0, 0, d, 3)
  | _ => none

/-- What a source terminal that is no bank's presents to a read route of the executing coach (R23, R24, R164, R383): drain ports, hitch-in
ports, the word of ZS that a code names, and the master's scalar registers, those of the bundle's issue where the slot has skew. -/
def presents (s : State) (p : BitVec 4) (x : Nat) : Lane :=
  let q := (s.coach (s.masterOf s.cur.coach)).sq
  let l := x % 64
  if x / 64 < 56 then laneOf (peek s.cen.oport (x / 64 - 43)) l
  else if x / 64 < 60 then laneOf (peek s.cen.oport (x / 64 - 35)) l
  else if x / 64 = 60 then padWord q p
  else
    let w : Word := if l < 2 then 0 else if s.cur.sb = [] then q.x.toList.getD (l / 2) 0 else s.cur.sb.getD (l / 2) 0
    w.extractLsb' (32 * (l % 2)) 32

/-- The codes of the checks of R303 to R320 and R246 that a command's descriptor fails, by major opcode and SUB. -/
def checksSpec (s : State) (maj : BitVec 6) (sub : Nat) (w : List Word) : List Nat :=
  let k := s.coach s.cur.coach
  match maj.toNat with
  | 1 => if sub % 8 = 4 then checkView k (s.hub.viewEntry (s.jobOf s.cur.master) ((dword w 0).extractLsb' 0 8).toNat) w
    else if sub % 8 < 4 then checkCopy k (sub % 8) (sub / 8) w else checkFar s k (sub % 8) w
  | 2 => checkPut s k w
  | 3 => checkGather k w
  | 4 => checkReduce (sub / 4 % 16) w
  | 5 => checkConvert w ++ s.checkScales s.cur.master s.cur.coach w
  | 6 => checkAtom (decide (sub < 10 ∧ sub % 2 = 1)) w ++ s.checkAtomKind s.cur.master s.cur.coach w
  | 7 => checkProbe w
  | 13 => checkEnq w
  | 14 => checkCload w
  | 15 => checkSolve (match k.unit with | some u => if sub / 4 = 1 then u.rwr else u.rrd | none => 0) w
  | _ => []

/-- Block, row group and sy.mgeom after an MDRN or MPRE (R285): the enable is bit `en`, the counter stands at bit `lo`. -/
def walkSpec (g : BitVec 57) (en lo : Nat) (b : BitVec 8) (r : BitVec 3) (blk : BitVec 8) (rg : Nat) (h : BitVec 57) : Prop :=
  let bw := (g.extractLsb' 0 3).toNat + 1
  let bh := (g.extractLsb' 3 3).toNat + 1
  let p := (g.extractLsb' lo 9).toNat
  let at_ := if g.getLsbD 6 = true then (p / 8 % bh, p / 8 / bh) else (p / 8 / bw, p / 8 % bw)
  if g.getLsbD en = true then
    blk.toNat = (b.toNat + 8 * at_.1 + at_.2) % 256 ∧ rg = (r.toNat + p) % 8 ∧
    (h.extractLsb' lo 9).toNat = (p + 1) % (8 * bw * bh) ∧ ∀ i, i < lo ∨ lo + 9 ≤ i → h.getLsbD i = g.getLsbD i
  else blk = b ∧ rg = r.toNat ∧ h = g

/-- A firing's results to a block that are on their way or set aside, and the ic at which each consumed, within the seven before now
(R282). -/
def firedSpec (s : State) (blk : BitVec 8) (r : Result) (rows : List (BitVec 6 × Line × Line)) (t : Nat) : Prop :=
  let k := s.coach s.cur.coach
  (r ∈ k.en.inflight ∨ ∃ h, (s.coach (s.masterOf s.cur.coach)).sq.held = some h ∧ (s.cur.coach, r) ∈ h.queue) ∧
  r.dest = .acc blk rows (some t) ∧ t < k.ic ∧ k.ic ≤ t + 7

/-- The base of each element of an MFIRE (R282): +0.0, what the latest firing of the last seven ics computed, or what the block
holds. -/
def baseSpec (s : State) (z : BitVec 1) (blk : BitVec 8) (base : Nat → Nat → Nat) : Prop :=
  (z = 1 ∧ ∀ i < 64, ∀ j < 64, base i j = 0) ∨
  (z = 0 ∧ (∀ r rows t, ¬ firedSpec s blk r rows t) ∧ s.cen.badAcc = [] ∧ s.cen.softAcc = [] ∧
    ∀ i < 64, ∀ j < 64, base i j = (laneOf (peek s.cen.acc (64 * blk.toNat + i)) j).toNat) ∨
  (z = 0 ∧ ∃ r rows t, ∃ v : Nat → Line, firedSpec s blk r rows t ∧
    (∀ i < 64, rows.find? (fun x => x.1.toNat = i) = some (BitVec.ofNat 6 i, BitVec.allOnes 2048, v i)) ∧
    (∀ r' rows' t', firedSpec s blk r' rows' t' → r' = r ∨ t' < t) ∧
    ∀ i < 64, ∀ j < 64, base i j = (laneOf (v i) j).toNat)

/-- The value of a finite number. -/
def numQ : Machine.Num → ℚ
  | .fin n m e => (if n = true then -1 else 1) * (m : ℚ) * (2 : ℚ) ^ e
  | _ => 0

/-- An encoding stands for a finite number of a sign and a value. -/
def decodesTo (f b : Nat) (neg : Bool) (q : ℚ) : Prop := ∃ m e, decodeNum f b = .fin neg m e ∧ numQ (.fin neg m e) = q

/-- Exponent bits, mantissa bits, smallest exponent, largest finite value and NaN result (+0 where there is none) of each
floating-point format (R80, R89). -/
def fpSpec : Nat → Nat × Nat × ℤ × ℚ × Nat
  | 0 => (8, 23, -126, (2 - 2 ^ (-23 : ℤ)) * 2 ^ 127, 0x7FC00000)
  | 1 => (8, 7, -126, (2 - 2 ^ (-7 : ℤ)) * 2 ^ 127, 0x7FC0)
  | 2 => (5, 10, -14, 65504, 0x7E00)
  | 3 => (4, 3, -6, 448, 0x7F)
  | 4 => (5, 2, -14, 57344, 0x7E)
  | 5 => (2, 3, 0, 15 / 2, 0)
  | 6 => (3, 2, -2, 28, 0)
  | _ => (2, 1, 0, 6, 0)

/-- The multiple of the spacing that rounding takes for a magnitude of `y` spacings (R87). -/
def stepSpec (mode : Nat) (neg : Bool) (y : ℚ) (u : Nat) : ℤ :=
  let lo := ⌊y⌋
  if (lo : ℚ) = y then lo
  else match mode with
    | 0 => if y - lo < 1 / 2 then lo else if 1 / 2 < y - lo then lo + 1 else if lo % 2 = 0 then lo else lo + 1
    | 1 => lo
    | 2 => if neg = true then lo else lo + 1
    | 3 => if neg = true then lo + 1 else lo
    | 4 => if lo % 2 = 1 then lo else lo + 1
    | _ => if (u : ℤ) < ⌊(y - lo) * 65536⌋ then lo + 1 else lo

/-- Word `i` of a table. -/
def tword (e : Engine) (t : BitVec 6) (i : Nat) : Lane := laneOf (peek e.tables (16 * t.toNat + i / 64)) (i % 64)

/-- A well-formed table (R272). -/
def tableSpec (e : Engine) (t : BitVec 6) : Prop :=
  (∃ n m x, decodeNum 0 (tword e t 0).toNat = .fin n m x) ∧ (∃ n m x, decodeNum 0 (tword e t 1).toNat = .fin n m x) ∧
  0 < numQ (decodeNum 0 (tword e t 1).toNat) ∧ 1 ≤ (tword e t 2).toInt ∧ (tword e t 2).toInt ≤ 1019

/-- A number times a weight between 0 and 1. -/
def weighed (w : ℚ) (n a : Machine.Num) : Prop :=
  (n = .nan ∧ a = .nan) ∨ (∃ s, n = .inf s ∧ a = .inf s) ∨ ∃ s m e k g, n = .fin s m e ∧ a = .fin s k g ∧ numQ a = w * numQ n

/-- What FTBL interpolates for an element that is no NaN, before it rounds, and whether that was an invalid operation (R274). -/
def pieceSpec (e : Engine) (t : BitVec 6) (rm : Nat) (x y : Machine.Num) (iv : Bool) : Prop :=
  let node := fun (i : Nat) => decodeNum 0 (tword e t (4 + i)).toNat
  let n := (tword e t 2).toNat
  let u := (numQ x - numQ (decodeNum 0 (tword e t 0).toNat)) * numQ (decodeNum 0 (tword e t 1).toNat)
  let i := ⌊u⌋.toNat
  let fin : Prop := ∃ a m g, x = .fin a m g
  ((x = .inf true ∨ fin ∧ u ≤ 0) → y = node 0 ∧ iv = false) ∧
  ((x = .inf false ∨ fin ∧ (n : ℚ) ≤ u) → y = node n ∧ iv = false) ∧
  (fin → 0 < u → u < n → u = i → y = node i ∧ iv = false) ∧
  (fin → 0 < u → u < n → u ≠ i → ∃ a b, weighed (1 - (u - i)) (node i) a ∧ weighed (u - i) (node (i + 1)) b ∧ (y, iv) = numAdd rm a b)

/-- LSEED after a draw that a queue alone is eligible for (R65): one step on, as it was where the queue's deficit forces the draw. -/
def seedAfter (h : Hub) (q : BitVec 6) : BitVec 32 :=
  let x1 := h.lseed ^^^ (h.lseed <<< 13)
  let x2 := x1 ^^^ (x1 >>> 17)
  if (h.queue q).deficit.toNat < 1024 then x2 ^^^ (x2 <<< 5) else h.lseed

/-- Whether counting up an entry sets its DONE (R47). -/
def doneBy (e : BitVec 128) : Bool :=
  e.getLsbD 76 && !e.getLsbD 77 && decide (e.extractLsb' 0 32 + 1 = e.extractLsb' 32 32) && decide (e.extractLsb' 32 32 ≠ 0)

/-- Whether counting along a chain of entries reaches one: every entry before it passes it on. -/
def passedTo (h : Hub) (ch : List Nat) (f : BitVec 128 → Prop) (k : Nat) : Prop :=
  ∃ i : Nat, ch[i]? = some k ∧ ∀ j < i, ∀ o, ch[j]? = some o → f (peek h.levels o)

/-- The words of `n` bytes of a job's DVAs lie in HBM, word `i` at the HPA `p i`, for the hub. -/
def inHbm (s : State) (job : BitVec 8) (a n : Nat) (wr : Bool) (p : Nat → Nat) : Prop :=
  ∀ i < (a % 4 + n + 3) / 4, ∃ name, s.hubPlace job ((a / 4 * 4 + 4 * i) % 2 ^ 56) (!wr) wr = .ok (.hbm (p i), name)

/-- Where byte `i` from a DVA on stands, its words at the HPAs `p`. -/
def cellKey (s : State) (p : Nat → Nat) (a i : Nat) : Nat := hbmKey s.hub.mode (p ((a % 4 + i) / 4) / 4 * 4) + (a % 4 + i) % 4

/-- The number that `n` bytes from a DVA on hold, least significant first. -/
def cellOf (s : State) (p : Nat → Nat) (a n : Nat) : Nat :=
  ((List.range n).map fun i => (peek s.hbm (cellKey s p a i)).toNat * 256 ^ i).sum

/-! What the pieces of items do: the words of HBM, second tier and host memory, where no error waits and nothing is written through a
view. -/

/-- No error waits in a memory, no write through a view waits, and every memory has its canonical form. -/
def Calm (s : State) : Prop :=
  s.badHbm = [] ∧ s.softHbm = [] ∧ s.badTier = [] ∧ s.badPut = [] ∧ s.badHost = [] ∧ s.viewLog = [] ∧ MemoryInv s

/-- A word's memory (0 HBM, 1 second tier, 2 host memory) and its four bytes there. -/
abbrev Spot := Nat × List Nat

/-- The word of a place; that of an HPA, which a heap window may leave unaligned (R105), takes the four bytes from it on. -/
def spot (s : State) : Place → Option Spot
  | .hbm p => some (0, (List.range 4).map fun i => hbmKey s.hub.mode (p + i))
  | .tier a => some (1, (List.range 4).map fun i => a / 4 * 4 + i)
  | .host w o => match hostAddr s.fab w (o / 4 * 4) 4 with
    | .ok a => some (2, (List.range 4).map fun i => a + i)
    | .error _ => none
  | .view _ _ => none

/-- A byte of one of the three memories. -/
def byteAt (s : State) (m k : Nat) : Byte := if m = 0 then peek s.hbm k else if m = 1 then peek s.tier k else peek s.host k

/-- The word at a spot. -/
def wordAt (s : State) (x : Spot) : Lane :=
  BitVec.ofNat 32 ((List.range 4).map fun i => (byteAt s x.1 (x.2.getD i 0)).toNat * 256 ^ i).sum

/-- From one state to another some words are written, each byte of them by one of the writes of it, and no other byte of a memory. -/
def wrote (s t : State) (W : Spot → Lane → Prop) : Prop :=
  ∀ m < 3, ∀ b,
    (∃ x v i, W x v ∧ x.1 = m ∧ x.2[i]? = some b ∧ byteAt t m b = v.extractLsb' (8 * i) 8) ∨
    (∀ x v, W x v → ¬ (x.1 = m ∧ b ∈ x.2)) ∧ byteAt t m b = byteAt s m b

/-- An item can read, or write, the word of a DVA, which lies at a spot. -/
def reachable (s : State) (m : BitVec 3) (it : Item) (wr : Bool) (a : Nat) (x : Spot) : Prop :=
  ∃ p, s.itemPlace (s.coach m).sq it.coach (s.ctxOf m) a wr = .ok p ∧ s.placeOk (s.jobOf m) p = none ∧ spot s p = some x ∧
    ∀ t, wr = true → p = .tier t → s.hub.compressedAt t = none

/-- Count, memory stride and second-side stride of level `k` of a DCOPY (R305). -/
def levelSpec (form : Nat) (d : List Word) (k : Nat) : Nat × Int × Int :=
  let w := dword d (2 + k)
  if (form = 1 ∧ k = 1) ∨ form = 2 ∨ form = 3 then ((w.extractLsb' 0 16).toNat + 1, (w.extractLsb' 16 28).toInt, (w.extractLsb' 44 20).toInt)
  else (1, 0, 0)

/-- A position of a DCOPY: its three level numbers and its word in the run (R305). -/
def isPos (form : Nat) (d : List Word) (n : Nat × Nat × Nat × Nat) : Prop :=
  n.1 < (levelSpec form d 1).1 ∧ n.2.1 < (levelSpec form d 2).1 ∧ n.2.2.1 < (levelSpec form d 3).1 ∧
  4 * n.2.2.2 + 4 ≤ ((dword d 2).extractLsb' 0 32).toNat

/-- The memory address of a position, and its word offset on the second side (R305). -/
def posMem (form : Nat) (d : List Word) (n : Nat × Nat × Nat × Nat) : Int :=
  (((dword d 0).extractLsb' 0 56).toNat : Int) + n.1 * (levelSpec form d 1).2.1 + n.2.1 * (levelSpec form d 2).2.1 +
    n.2.2.1 * (levelSpec form d 3).2.1 + 4 * n.2.2.2
def posOff (form : Nat) (d : List Word) (n : Nat × Nat × Nat × Nat) : Int :=
  (n.1 : Int) * (levelSpec form d 1).2.2 + n.2.1 * (levelSpec form d 2).2.2 + n.2.2.1 * (levelSpec form d 3).2.2 + n.2.2.2

/-- The bank word of a position, of the 2^20 of its bank (R304). -/
def posBank (form : Nat) (d : List Word) (n : Nat × Nat × Nat × Nat) : Nat :=
  ((64 * (((dword d 1).extractLsb' 8 14).toNat : Int) + ((dword d 1).extractLsb' 22 6).toNat + posOff form d n) % 1048576).toNat

/-- The DVA of a position on the second side of direction mem (R304, R305). -/
def posDest (form : Nat) (d : List Word) (n : Nat × Nat × Nat × Nat) : Int := (((dword d 1).extractLsb' 0 56).toNat : Int) + 4 * posOff form d n

/-- Whether a position of form pad is valid, its pad word, and whether a pad position writes it (R306). -/
def posValid (form : Nat) (d : List Word) (n : Nat × Nat × Nat × Nat) : Prop :=
  let below := fun (x v : Nat) => v = 0 ∨ x < v
  form = 3 → below (4 * n.2.2.2) ((dword d 2).extractLsb' 32 24).toNat ∧ below n.1 ((dword d 7).extractLsb' 0 16).toNat ∧
    below n.2.1 ((dword d 7).extractLsb' 16 16).toNat ∧ below n.2.2.1 ((dword d 7).extractLsb' 32 16).toNat
def isPadWord (d : List Word) (v : Lane) : Prop :=
  ∀ i < 32, v.getLsbD i = (dword d 6).getLsbD (i % (8 * 2 ^ ((dword d 6).extractLsb' 34 2).toNat))
def padFills (d : List Word) : Prop := (dword d 6).extractLsb' 32 2 = 1

/-- Where a valid position's memory word stands (R305, R308): through a DVA, or in form host at an offset of its registration. -/
def posSpot (s : State) (m : BitVec 3) (it : Item) (form : Nat) (wr : Bool) (n : Nat × Nat × Nat × Nat) (x : Spot) : Prop :=
  if form = 6 then
    let p := Place.host ((dword it.desc 0).extractLsb' 48 8).toNat (((dword it.desc 0).extractLsb' 0 48).toNat + 4 * n.2.2.2)
    s.placeOk (s.jobOf m) p = none ∧ spot s p = some x
  else 0 ≤ posMem form it.desc n ∧ reachable s m it wr (posMem form it.desc n).toNat x

/-- What a position brings to its second side: the word of memory, or the pad word of a pad position that writes. -/
def brings (s : State) (m : BitVec 3) (it : Item) (form : Nat) (n : Nat × Nat × Nat × Nat) (v : Lane) : Prop :=
  isPos form it.desc n ∧
  ((posValid form it.desc n ∧ ∃ x, posSpot s m it form false n x ∧ v = wordAt s x) ∨
    (¬ posValid form it.desc n ∧ padFills it.desc ∧ isPadWord it.desc v))

/-- A coach whose bank `b` can be read by the engine path now, with nothing waiting and no error in it. -/
def quietBank (k : Coach) (b : BitVec 6) : Prop :=
  b ∉ k.en.readIc ∧ k.en.engq = [] ∧ k.en.badBank = [] ∧ k.en.onceBank = [] ∧ k.en.softBank = []

/-- Element (i, j) of the rectangle of form view at word `w`, element `e` of it (R119, R307): the bit where it stands in its stack. -/
def viewBit (g : BitVec 256) (d : List Word) (w e : Nat) : Nat :=
  let rc := logicalRC (vf g 42 2) ((dword d 3).extractLsb' 0 32).toNat ((dword d 3).extractLsb' 32 32).toNat (vTH g) (vTW g) (32 / vL g) (32 * w / vL g + e)
  elemBit g (((dword d 2).extractLsb' 0 32).toNat + rc.1) (((dword d 2).extractLsb' 32 32).toNat + rc.2)

/-- Bit `p` of the packed stream of bits that starts at a DVA, each word of which stands at a spot. -/
def streamBit (s : State) (x : Nat → Spot) (a p : Nat) : Bool := (wordAt s (x (a + 4 * (p / 32)))).getLsbD (p % 32)

/-- An element of `n` bits of such a stream, from bit `p` on. -/
def streamElem (s : State) (x : Nat → Spot) (a p n : Nat) : Nat :=
  ((List.range n).map fun i => (streamBit s x a (p + i)).toNat * 2 ^ i).sum

/-- The reduction of the encodings of one element (R313). -/
def reduceSpec (op fmt rm : Nat) (l : List Nat) : Nat × BitVec 6 :=
  if fmt < 8 then
    if op = 0 then
      let z := sumNums rm (l.map (decodeNum fmt))
      let r := roundNum fmt rm false z.1 0
      (r.1, r.2 ||| if z.2 = true then flIV else 0)
    else
      let v := l.tail.foldl (fpMaxMin fmt (op = 1)) (l.headD 0)
      (if decodeNum fmt v = .nan then fpNan fmt else v % 2 ^ fmtWidth fmt, 0)
  else
    let v := l.map (decodeInt fmt)
    let z := if op = 0 then v.sum else v.tail.foldl (fun a b => if op = 1 then max a b else min a b) (v.headD 0)
    ((z % 2 ^ fmtWidth fmt).toNat, 0)

/-- The new value of an atomic on `w` bits, if it writes, and its flags (R315): by SUB[3:1] below 10, then the three on FP32. -/
def atomSpec (sub w old opnd cmp : Nat) : Option Nat × BitVec 6 :=
  let sg := fun (v : Nat) => (BitVec.ofNat w v).toInt
  if sub < 2 then (some ((old + opnd) % 2 ^ w), 0)
  else if sub < 4 then (some (if sg old < sg opnd then opnd else old), 0)
  else if sub < 6 then (some (if sg opnd < sg old then opnd else old), 0)
  else if sub < 8 then (some opnd, 0)
  else if sub < 10 then (if old = cmp then some opnd else none, 0)
  else if sub = 10 then (some (fpAdd 0 0 old opnd 0).1, (fpAdd 0 0 old opnd 0).2)
  else (some (fpMaxMin 0 (sub = 11) old opnd), 0)

/-- The table row of an index (R312): its number, or none for a row of pads, of PADW in mode strict and of zeros else. -/
def rowSpec (mode : Nat) (x n : Int) : Option Int :=
  if 0 ≤ x ∧ x < n then some x
  else if mode = 1 then some (if x < 0 then 0 else n - 1)
  else if mode = 2 then some (x % n)
  else none

/-- Index of entry `e` of a solver list, as its lanes were read (R246). -/
def solveIndex (it : Item) (e : Nat) : Int := ((it.aux.getD (e / 2) 0).extractLsb' (16 * (e % 2)) 16).toInt

/-- Fields of an RSOLVE's descriptor (R246): listed terminals, indexed terminals. -/
def solveFbase (it : Item) : Nat := ((dword it.desc 0).extractLsb' 38 12).toNat
def solveFcnt (it : Item) : Nat := ((dword it.desc 0).extractLsb' 50 13).toNat
def solveObase (it : Item) : Nat := ((dword it.desc 1).extractLsb' 0 12).toNat
def solveOcnt (it : Item) : Nat := ((dword it.desc 1).extractLsb' 12 13).toNat

/-- The indexed terminal that a list index names, by mode 0 zero, 1 clamp, 2 wrap, 3 strict (R247); none for an index that names none. -/
def solveTarget (it : Item) (i : Int) : Option Nat :=
  let n : Int := solveOcnt it
  let mode := (it.sub.extractLsb' 0 2).toNat
  if i = -32768 then none
  else if 0 ≤ i ∧ i < n then some (solveObase it + i.toNat)
  else if mode = 1 then some (solveObase it + (if i < 0 then 0 else n.toNat - 1))
  else if mode = 2 then some (solveObase it + (i % n).toNat)
  else none

/-- Whether an index lies out of range, other than the one that leaves its terminal out. -/
def solveOut (it : Item) (i : Int) : Prop := i ≠ -32768 ∧ ¬ (0 ≤ i ∧ i < solveOcnt it)

/-- The last list entry that names a terminal, whose source a write entry routes there (R247). -/
def solveKeeps (it : Item) (t e : Nat) : Prop :=
  e < solveFcnt it ∧ solveTarget it (solveIndex it e) = some t ∧ ∀ o < solveFcnt it, e < o → solveTarget it (solveIndex it o) ≠ some t

/-- A PROBE fails at a piece with a walk cause (R110, R316). -/
def probeFails (s : State) (m : BitVec 3) (it : Item) (key c : Nat) : Prop :=
  ∃ t it', s.perform m it key = t ∧ t.item m it.id = some it' ∧ it'.phase = .failed ∧ it'.status = 10 ∧ it'.subc = BitVec.ofNat 8 c ∧
    it'.todo = [] ∧ it'.pieces = it.pieces ∧ t.hub = s.hub ∧ t.hbm = s.hbm ∧ ∀ c, (t.coach c).en.tlb = (s.coach c).en.tlb

/-- Order of numbers that are no NaN, −0 below +0 (R91). -/
def numLess (x y : Machine.Num) : Prop :=
  match x, y with
  | .inf a, .inf b => a = true ∧ b = false
  | .inf a, .fin _ _ _ => a = true
  | .fin _ _ _, .inf b => b = false
  | .fin a _ _, .fin b _ _ => numQ x < numQ y ∨ (numQ x = numQ y ∧ numQ x = 0 ∧ a = true ∧ b = false)
  | _, _ => False

/-- Order of numbers as compares take it: −0 equals +0, and a NaN is below nothing and above nothing (R258). -/
def below (x y : Machine.Num) : Prop := numLess x y ∧ ¬ ((∃ a m e, x = .fin a m e ∧ numQ x = 0) ∧ ∃ a m e, y = .fin a m e ∧ numQ y = 0)

end Sys2Proof.Claims
section Statements

open Sys2Proof Sys2Proof.Machine Sys2Proof.Claims

/-! ### The machine as a whole -/

/-- Reset leaves the values that the spec's tables give: coaches parked without a unit, sy.padr with VLANES 64 (R221), the
seeds (R92), the format latch (R280), zero bindings (R35), NMODE 0 (R40), LSEED, PDEAD, WDEF (R64), the thrash detector
(R116), fabric defaults (R347, R357, R360) and PCAP (R370). -/
def Obligations.ResetValues : Prop :=
  (∀ c : BitVec 3,
    let k := State.reset.coach c
    k.unit = none ∧ k.sq.phase = .parked ∧ k.sq.padr = 64 <<< 16 ∧ k.sq.gbind = 0 ∧ k.sq.gskew = 0 ∧ k.sq.audit = false ∧
    k.sq.brk = false ∧ k.sq.winBase = 0 ∧ k.sq.rstk = [] ∧ k.sq.inh = false ∧ k.en.fflag = 0 ∧ k.en.latch = 0x033 ∧ k.en.mgeom = 0 ∧
    k.en.va.seed = 1 ∧ k.en.vb.seed = 1 ∧ k.en.vc.seed = 1) ∧
  State.reset.hub.mode = 0 ∧ State.reset.hub.lseed = 1 ∧ State.reset.hub.pdead = 200 ∧ State.reset.hub.slice = 0 ∧
  State.reset.hub.wdef = 10000 ∧ State.reset.hub.run = false ∧ State.reset.hub.thn = 4 ∧ State.reset.hub.thw = 1000 ∧
  State.reset.hub.tht = 10000 ∧ State.reset.hub.pbeat = 0 ∧ State.reset.fab.rhops = 3 ∧ State.reset.fab.hto = 1000 ∧
  State.reset.plat.pcap = 2600

/-- At reset the memories and every store have their canonical form: nothing is listed. -/
def Obligations.ResetMeetsInvariants : Prop := MemoryInv State.reset ∧ StoresInv State.reset

/-- Every step keeps the canonical form of the memories, from every state that has it, whatever the agenda holds. -/
def Obligations.StepKeepsMemoryInvariant : Prop := ∀ s t : State, MemoryInv s → Sys2Proof.Machine.step s = .next t → MemoryInv t

/-- Every step keeps the canonical form of the coaches' stores (scalar store, code, banks, full bits, accumulators, route
entries, tables, ports), of the husks' and of the tables of hub, fabric and platform, from every state that has it. -/
def Obligations.StepKeepsStoresInvariant : Prop := ∀ s t : State, StoresInv s → Sys2Proof.Machine.step s = .next t → StoresInv t

/-- A step never refuses, and it stops only when the module has no power, nothing is left to do and no input can come (the
model's own end of a run, log 4). -/
def Obligations.StepStopsOnlyWithoutPower : Prop :=
  ∀ s : State, (∀ r, Sys2Proof.Machine.step s ≠ .refused r) ∧
    ∀ f, Sys2Proof.Machine.step s = .fault f → s.agenda = [] ∧ s.plat.powered = false ∧ s.inputs = []

/-- A step runs the decoded instruction. With an operation at the head of the agenda it is exec of that instruction, its frame in place
and the operation taken off. A step that fetches issues the bundle next in line, whose slots decode to instructions (R158, R159,
R191), and runs the first operation due in the ic: the instruction that one of the fetched bundle's slots decodes to, in its slot, or
one that an earlier bundle issued with a skew (R36); the other operations due stand on the agenda. That what is left to do at a
moment stands on an agenda, and that one step performs one operation, is the model's choice (log 4, DESIGN CHOICE). -/
def Obligations.StepRunsDecodedInstruction : Prop :=
  (∀ (s : State) (fr : Frame) (i : Instr) (rest : List Task), s.agenda = .op fr i :: rest →
     Sys2Proof.Machine.step s = exec i { s with agenda := rest, cur := fr }) ∧
  (∀ (s s2 : State) (m : BitVec 3) (rest : List Task) (b : Bundle) (l : List (Slot × Instr)) (path : Nat) (fr : Frame) (i : Instr)
     (ops : List (Frame × Instr)),
     s.agenda = .fetch m :: rest →
     judge { s with agenda := rest, cur := evFrame m } m = .issue b l path →
     (State.issueBundle { s with agenda := rest, cur := evFrame m } m b l path).takeOps m = ((fr, i) :: ops, s2) →
     b = (fetchBundle (s.coach m).sq).1 ∧ decodeBundle b = .ok l ∧
       ((fr.slot, i) ∈ l ∨ ∃ o ∈ (s.coach m).en.skew, o.frame = fr ∧ o.op = i) ∧
       (∀ sl, (sl, i) ∈ l → decodeSlot sl (syllable b sl.syl) = .ok (some i)) ∧
       Sys2Proof.Machine.step s = exec i { s2 with cur := fr, agenda := (ops.map fun p => Task.op p.1 p.2) ++ s2.agenda })

/-- A bundle that is to issue issues (R159, R36): the issue counts advance, the stall count is cleared (R70), every scalar and
control operation that runs on the bundle's path takes its place on the master for this ic, every operation of a gang slot (N, VA to
M1) on each member that sy.gbind binds the slot to, for the ic that sy.gskew gives it, an AX operation that acts once on the master
alone (R35, R36, R295), and a bundle without a control operation holds its successor for HOLD ics. -/
def Obligations.BundleIssues : Prop :=
  ∀ (s : State) (b : Bundle) (l : List (Slot × Instr)) (path : Nat), judge s s.cur.coach = .issue b l path →
    ∃ t, exec .bundleIssue s = .next t ∧
      let k := s.coach s.cur.coach
      let k' := t.coach s.cur.coach
      k'.sq.seq = k.sq.seq + 1 ∧ k'.sq.stall = 0 ∧ k'.sq.bno = (if k.sq.inh then k.sq.bno else k.sq.bno + 1) ∧
      k'.sq.x = k.sq.x ∧ k'.sq.c = k.sq.c ∧ k'.sq.ss = k.sq.ss ∧ k'.sq.tok = k.sq.tok ∧ k'.sq.rstk = k.sq.rstk ∧
      (∀ sl i, (sl, i) ∈ l → gangSlot sl = none → onPath (headOp l) (syllable b 14) path sl = true →
        ∃ o ∈ k'.en.skew, o.op = i ∧ o.due = k.ic ∧ o.frame.slot = sl ∧ o.frame.master = s.cur.coach ∧ o.frame.seq = k.sq.seq ∧
          o.frame.ext = b.extractLsb' 384 128) ∧
      (∀ sl i j, (sl, i) ∈ l → gangSlot sl = some j → onPath (headOp l) (syllable b 14) path sl = true →
        let due := k.sq.gang.filter fun g => g.due ≤ k.ic
        let bind := (((due.filterMap (·.bind)).getLast?.getD k.sq.gbind).extractLsb' (4 * j) 4).toNat
        let skew := (((due.filterMap (·.skew)).getLast?.getD k.sq.gskew).extractLsb' (6 * j) 6).toNat
        let ms := s.members s.cur.coach
        ∀ c, (if sl = .ax ∧ onMaster i = true then c = s.cur.coach else if bind = 15 then c ∈ ms else ms[bind]? = some c) →
          ∃ o ∈ (t.coach c).en.skew, o.op = i ∧ o.due = k.ic + skew ∧ o.frame.slot = sl ∧ o.frame.coach = c ∧
            o.frame.master = s.cur.coach ∧ o.frame.seq = k.sq.seq ∧ o.frame.ext = b.extractLsb' 384 128) ∧
      (headOp l = none → k'.sq.earliest = k.ic + 1 + (headHold b)) ∧
      t.hbm = s.hbm ∧ t.tier = s.tier ∧ t.host = s.host ∧ t.hub = s.hub

/-! ### Encodings (R190 to R206) -/

/-- Words written out from the spec's encodings decode to the instructions they stand for. -/
def Obligations.WordsDecode : Prop :=
  -- JUMP to index 0x123 and BSEL of x4 with 4 buckets (R208)
  decodeSlot .h 0x20000123#32 = .ok (some (.jump 0 0 0 0 0x123)) ∧
  decodeSlot .h 0xA0000064#32 = .ok (some (.bsel 0 0 0 0 3 4)) ∧
  -- ADD x3, x1, x2 (R194): major 1, XD at 25:21, XA at 20:16, XB at 15:11
  decodeSlot .s0 0b000001_00011_00001_00010_00000000000#32 = .ok (some (.add 3 1 2)) ∧
  -- VAND va3, va1, va2, ka0 with W = 64 (R197): major 32, W at 25:24
  decodeSlot .va 0b100000_10_00011_00001_00010_000_000000#32 = .ok (some (.vand 2 3 1 2 0)) ∧
  -- MCLR block 5, count field 2 (R201): major 5
  decodeSlot .mx 0b000101_00000101_00000010_0000000000#32 = .ok (some (.mclr 5 2)) ∧
  -- TADV of x7 to t3 (R203): major 11
  decodeSlot .ax 0b001011_00111_0011_00000000000000000#32 = .ok (some (.tadv 7 3)) ∧
  -- RD of bank 9 by x4 (R206): major 1
  decodeSlot .m0 0b000001_001001_00100_000000000000000#32 = .ok (some (.rd 9 4)) ∧
  -- a reserved major opcode is no instruction
  decodeSlot .s0 0b111111_00000000000000000000000000#32 = .error .noRow

/-- Decoding an encoded well-formed instruction gives it back in every slot of its class, with every operand at every value
the encoding admits. -/
def Obligations.DecodeOfEncode : Prop :=
  ∀ (i : Instr) (k : Cls) (sl : Slot), i.cls = some k → i.wf = true → sl ∈ slotsOf k → encode i ≠ 0 →
    decodeSlot sl (encode i) = .ok (some i)

/-- Encoding a decoded syllable gives the syllable back: no bit of a word that a slot admits is without meaning, and what a
slot admits is a well-formed instruction of the slot's class. -/
def Obligations.EncodeOfDecode : Prop :=
  ∀ (sl : Slot) (w : Lane) (i : Instr), decodeSlot sl w = .ok (some i) → i.wf = true ∧ i.cls = some sl.cls ∧ encode i = w

/-! ### Results on their way (R160) -/

/-- Setting a result out adds exactly one entry to the coach's results, in the order of issue, and changes nothing else. In the ic in
which a coach's results land, each scalar register takes the value of the last of them in the order of issue that names it and keeps
its value when none does; the same of the condition bits; what is due stands on its way no more; memories, hub and every other coach's
registers and banks are as before, and a result that is not yet due stays on its way unchanged (R160). How a vector result and a mask result land (R26): lanes of the mask change and no other;
register 31 and mask 0 keep nothing; register 30 is the cluster's output port. -/
def Obligations.ResultsSetOutAndLand : Prop :=
  ((∀ (s : State) (c : BitVec 3) (lat : Nat) (fl : BitVec 40) (d : Dest),
     let k := s.coach c
     let r : Result := { due := s.icNow + lat, seq := s.cur.seq, syl := s.cur.slot.syl, flags := fl, again := false, tile := false, dest := d }
     ∃ before after, k.en.inflight = before ++ after ∧
       (∀ q ∈ before, ¬ (r.seq < q.seq ∨ (r.seq = q.seq ∧ r.syl < q.syl))) ∧
       (∀ q ∈ after.head?, r.seq < q.seq ∨ (r.seq = q.seq ∧ r.syl < q.syl)) ∧
       s.result c lat fl d = { s with coaches := s.coaches.set c.toNat { k with en := { k.en with inflight := before ++ r :: after } } c.isLt }) ∧
   (∀ s : State, ∃ t, exec .resultLanding s = .next t ∧
     let k := s.coach s.cur.coach
     let k' := t.coach s.cur.coach
     let due := k.en.inflight.filter fun r => !r.dest.post && r.due ≤ k.ic
     (∀ r : BitVec 5, r ≠ 0 →
       xread k'.sq r = ((due.filterMap fun e => match e.dest with | .xr d v => if d = r then some v else none | _ => none).getLast?.getD (xread k.sq r))) ∧
     xread k'.sq 0 = 0 ∧
     (∀ r : BitVec 4, r ≠ 0 →
       cread k'.sq r = ((due.filterMap fun e => match e.dest with | .cr d v => if d = r then some v else none | _ => none).getLast?.getD (cread k.sq r))) ∧
     cread k'.sq 0 = true ∧
     (∀ e ∈ k'.en.inflight, e ∈ k.en.inflight ∧ ¬ (e ∈ due)) ∧ (∀ e ∈ k.en.inflight, k.ic < e.due → e ∈ k'.en.inflight) ∧
     t.hbm = s.hbm ∧ t.tier = s.tier ∧ t.host = s.host ∧ t.hub = s.hub ∧
     (∀ c, c ≠ s.cur.coach → (t.coach c).sq.x = (s.coach c).sq.x ∧ (t.coach c).en.banks = (s.coach c).en.banks))) ∧
  ((∀ (k : Coach) (cl : Cl) (r : BitVec 5) (mask v : Line), r.toNat < 28 →
     let k' := k.landDest (.vr cl r mask v)
     ((k'.en.cluster cl).v[r.toNat]? = some (blend mask v (vrd (k.en.cluster cl).v r.toNat 0))) ∧
     (∀ r' : BitVec 5, r' ≠ r → vrd (k'.en.cluster cl).v r'.toNat 0 = vrd (k.en.cluster cl).v r'.toNat 0) ∧
     k'.sq = k.sq ∧ k'.en.banks = k.en.banks ∧ k'.en.acc = k.en.acc ∧ (k'.en.cluster cl).k = (k.en.cluster cl).k) ∧
   (∀ (k : Coach) (cl : Cl) (mask v : Line), k.landDest (.vr cl 31 mask v) = k) ∧
   (∀ (k : Coach) (cl : Cl) (r : BitVec 3) (mask v : BitVec 64),
     (r = 0 → k.landDest (.kr cl r mask v) = k) ∧
     (r ≠ 0 → kread ((k.landDest (.kr cl r mask v)).en.cluster cl) r = blend mask v (kread (k.en.cluster cl) r))) ∧
   (∀ (cu : Cluster), kread cu 0 = BitVec.allOnes 64) ∧
   (∀ (s : State) (cl : Cl) (lat : Nat) (mask v : Line) (fl : BitVec 6), ∃ d,
     s.resultV cl lat 30 mask v fl = s.result s.cur.coach lat (flGroup cl.group fl) d ∧ d = .oport (BitVec.ofNat 6 cl.num) mask (v &&& mask)))

/-! ### Scalar instructions (R222 to R238) -/

/-- SEL takes CS from bits [10:7], has latency 1 and computes x[XA] if c[CS] = 1, else x[XB], with c[CS] as it stands in the
execution ic, so that with c0 it yields x[XA]; x0 discards the result, and nothing else changes. -/
def Obligations.SelectReadsCondition : Prop :=
  ∀ (d a b : BitVec 5) (c : BitVec 4) (s : State),
    (encode (.sel d a b c)).extractLsb' 7 4 = c ∧
    exec (.sel d a b c) s = .next (if d = 0 then s else
      s.result s.cur.master 1 0 (.xr d (if c = 0 ∨ (s.coach s.cur.master).sq.c.getLsbD c.toNat = true then xv s a else xv s b)))

/-- MUL, MULH and MULHU take the SR form and put the low half, the upper half of the signed product and the upper half of the
unsigned product of the exact 128-bit product on its way with latency 3; nothing else changes. -/
def Obligations.MultiplyHalves : Prop :=
  ∀ (d a b : BitVec 5) (s : State),
    (∀ i ∈ [Instr.mul d a b, .mulh d a b, .mulhu d a b],
      (encode i).extractLsb' 21 5 = d ∧ (encode i).extractLsb' 16 5 = a ∧ (encode i).extractLsb' 11 5 = b) ∧
    exec (.mul d a b) s = .next (if d = 0 then s else s.result s.cur.master 3 0
      (.xr d ((BitVec.ofInt 128 ((xv s a).toInt * (xv s b).toInt)).extractLsb' 0 64))) ∧
    (BitVec.ofInt 128 ((xv s a).toInt * (xv s b).toInt)).extractLsb' 0 64 =
      (BitVec.ofNat 128 ((xv s a).toNat * (xv s b).toNat)).extractLsb' 0 64 ∧
    exec (.mulh d a b) s = .next (if d = 0 then s else s.result s.cur.master 3 0
      (.xr d ((BitVec.ofInt 128 ((xv s a).toInt * (xv s b).toInt)).extractLsb' 64 64))) ∧
    exec (.mulhu d a b) s = .next (if d = 0 then s else s.result s.cur.master 3 0
      (.xr d ((BitVec.ofNat 128 ((xv s a).toNat * (xv s b).toNat)).extractLsb' 64 64)))

/-- CLZ and POPC take the SR form with XB = 0 and have latency 1: XD receives the number of leading zero bits of x[XA], 64 for
zero, or the number of one bits, 0 to 64; x0 discards the result, and nothing else changes. -/
def Obligations.LeadingZerosAndOnes : Prop :=
  ∀ (d a : BitVec 5) (s : State),
    (∀ i ∈ [Instr.clz d a, .popc d a],
      (encode i).extractLsb' 21 5 = d ∧ (encode i).extractLsb' 16 5 = a ∧ (encode i).extractLsb' 11 5 = 0) ∧
    ∃ z n : Nat, z ≤ 64 ∧ n ≤ 64 ∧
      (∀ j < z, (xv s a).getLsbD (63 - j) = false) ∧ (z < 64 → (xv s a).getLsbD (63 - z) = true) ∧
      n = ((List.range 64).filter fun j => (xv s a).getLsbD j).length ∧
      exec (.clz d a) s = .next (if d = 0 then s else s.result s.cur.master 1 0 (.xr d (BitVec.ofNat 64 z))) ∧
      exec (.popc d a) s = .next (if d = 0 then s else s.result s.cur.master 1 0 (.xr d (BitVec.ofNat 64 n)))

/-- CSET computes CD := LOP[2·c[CA] + c[CB]] with latency 1, which under each named LOP is the operation of that name; c0
discards it, and nothing else changes. -/
def Obligations.ConditionTruthTable : Prop :=
  ∀ (d a b l : BitVec 4) (s : State),
    let v : Bool := l.getLsbD (2 * (cv s a).toNat + (cv s b).toNat)
    exec (.cset d a b l) s = .next (if d = 0 then s else s.result s.cur.master 1 0 (.cr d v)) ∧
    (l = 0x0 → v = false) ∧ (l = 0xF → v = true) ∧ (l = 0x1 → v = !(cv s a || cv s b)) ∧ (l = 0x4 → v = (cv s a && !cv s b)) ∧
    (l = 0xD → v = (cv s a || !cv s b)) ∧ (l = 0x6 → v = (cv s a ^^ cv s b)) ∧ (l = 0x7 → v = !(cv s a && cv s b)) ∧
    (l = 0x8 → v = (cv s a && cv s b)) ∧ (l = 0x9 → v = !(cv s a ^^ cv s b)) ∧ (l = 0xA → v = cv s b) ∧ (l = 0x3 → v = !cv s a) ∧
    (l = 0xC → v = cv s a) ∧ (l = 0xE → v = (cv s a || cv s b))

/-- The scalar arithmetic, immediates and MBR complete from every state: the value that integer arithmetic gives is put on its way to
the master's register with the latency of its rule, x0 discards it, and nothing else changes. CMP, CMPI and CSET put the relation, or
the entry of the truth table, on its way to the condition bit with latency 1; c0 discards it; nothing else changes. -/
def Obligations.ScalarResults : Prop :=
  (∀ (s : State) (i : Instr) (d : BitVec 5) (lat : Nat) (v : Word), scalarSpec s i = some (d, lat, v) →
     exec i s = .next (if d = 0 then s else s.result s.cur.master lat 0 (.xr d v))) ∧
  (∀ (s : State) (i : Instr) (d : BitVec 4) (v : Bool), condSpec s i = some (d, v) →
     exec i s = .next (if d = 0 then s else s.result s.cur.master 1 0 (.cr d v)))

/-- LD reads the bytes at the effective address, low byte first, extends them by SGN and lands 3 ics later; x0 discards it and nothing
else changes. ST puts its bytes on their way with latency 1, and their landing writes exactly the bytes of the effective address up:
every other byte of the scalar store, and everything else of the coach, is as before (R230). MBW puts x[XS] on its way to the mailbox;
landing changes that mailbox only, and loses to a write from outside in the same ic (R231). MVX takes one lane of the master's source
register, port or zero with latency 3; MXV puts one lane on its way to the register or the output port (R235). -/
def Obligations.LoadsStoresAndMoves : Prop :=
  ((∀ (d a : BitVec 5) (z : BitVec 2) (g : BitVec 1) (o : BitVec 13) (s : State),
     let n := 2 ^ z.toNat
     let ea := eaSpec (xv s a) o n
     let v : BitVec (8 * n) := BitVec.ofNat (8 * n) (((List.range n).map fun k => (peek (s.coach s.cur.master).sq.ss (ea + k)).toNat * 256 ^ k).sum)
     exec (.ld d a z g o) s = .next (if d = 0 then s else
       s.result s.cur.master 3 0 (.xr d (if g = 1 then v.signExtend 64 else v.zeroExtend 64)))) ∧
   (∀ (x a : BitVec 5) (z : BitVec 2) (o : BitVec 13) (s : State),
     let n := 2 ^ z.toNat
     let ea := eaSpec (xv s a) o n
     let st : Dest := .ss ea n (xv s x)
     exec (.st x a z o) s = .next (s.result s.cur.master 1 0 st) ∧
     ∀ k : Coach, k.landDest st = { k with sq := { k.sq with ss := (k.landDest st).sq.ss } } ∧ (canon k.sq.ss = true →
       (∀ p, (p < ea ∨ ea + n ≤ p) → peek (k.landDest st).sq.ss p = peek k.sq.ss p) ∧
       (∀ j < n, peek (k.landDest st).sq.ss (ea + j) = (xv s x).extractLsb' (8 * j) 8)))) ∧
  ((∀ (x : BitVec 5) (m : BitVec 4) (s : State), exec (.mbw x m) s = .next (s.result s.cur.master 1 0 (.mb m (xv s x)))) ∧
   (∀ (k : Coach) (m : BitVec 4) (v : Word),
     (m ∉ k.sq.mbOut → k.landDest (.mb m v) = { k with sq := { k.sq with mb := k.sq.mb.set m.toNat v } }) ∧
     (m ∈ k.sq.mbOut → k.landDest (.mb m v) = k)) ∧
   (∀ (d : BitVec 5) (c : BitVec 2) (v : BitVec 5) (l : BitVec 6) (s : State), c.toNat ≤ 2 →
     let e := (s.coach s.cur.master).en
     let cu := if c = 0 then e.va else if c = 1 then e.vb else e.vc
     let line : Line :=
       if h : v.toNat < 28 then cu.v[v.toNat]
       else if v = 28 then peek e.rin (34 + 2 * c.toNat) else if v = 29 then peek e.rin (35 + 2 * c.toNat) else 0
     exec (.mvx d c v l) s = .next (if d = 0 then s else s.result s.cur.master 3 0 (.xr d (0#32 ++ line.extractLsb' (32 * l.toNat) 32)))) ∧
   (∀ (x : BitVec 5) (c : BitVec 2) (v : BitVec 5) (l : BitVec 6) (s : State), c.toNat ≤ 2 →
     ∃ mask w : Line,
       (∀ j < 64, laneOf mask j = if j = l.toNat then 0xFFFFFFFF else 0) ∧ laneOf w l.toNat = (xv s x).extractLsb' 0 32 ∧
       (v = 30 → ∀ j < 64, j ≠ l.toNat → laneOf w j = 0) ∧
       exec (.mxv x c v l) s = .next (s.result s.cur.master 3 0
         (if v = 30 then .oport (BitVec.ofNat 6 c.toNat) mask w
          else .vr (if c = 0 then .a else if c = 1 then .b else .c) v mask w))))

/-- SRR puts the register, laid out as its rule says, on its way with latency 2; x0 discards it; nothing else changes. -/
def Obligations.SystemRegisterReads : Prop :=
  ∀ (s : State) (d : BitVec 5) (n : BitVec 12) (v : Word), (s.coach s.cur.master).sq.rstk.length ≤ 4 → sysSpec s n.toNat = some v →
    exec (.srr d n) s = .next (if d = 0 then s else s.result s.cur.master 2 0 (.xr d v))

/-- SRW, SRSET and SRCLR write x[XS], the register with those bits set, and the register with those bits cleared. A write of
sy.brk, sy.padr, sy.zs, sy.epc or sy.estat lands in the next ic (R233); one of sy.fflag or a seed reaches every member;
sy.audit governs 2 ics later (R183); sy.gbind and sy.gskew, with values that R35 and R37 allow and no write pending, are pending
for 64 ics while the values that govern stay (R38). What a landing write leaves: sy.padr stores a VLANES above 64 as 64 and no
reserved bit (R221), sy.brk takes bit 0 (R214), a seed restarts the lane generators of its cluster, by the member that the coach
is of its unit (R92), sy.epc takes at most 16,384 (R328), and sy.fflag keeps only flag bits (R94). -/
def Obligations.SystemRegisterWrites : Prop :=
  (∀ (s : State) (x : BitVec 5) (n : BitVec 12) (i : Instr) (v : Word),
    (i, v) ∈ [(Instr.srw x n, xv s x), (.srset x n, sysRead s n ||| xv s x), (.srclr x n, sysRead s n &&& ~~~xv s x)] →
    (n ∈ [0x025#12, 0x026#12, 0x028#12, 0x029#12, 0x02A#12, 0x02B#12, 0x040#12, 0x043#12] →
      exec i s = .next (s.result s.cur.master 1 0 (.sy n v))) ∧
    (n ∈ [0x020#12, 0x021#12, 0x022#12, 0x023#12] →
      exec i s = .next ((s.members s.cur.master).foldl (fun s c => s.result c 1 0 (.sy n v)) s)) ∧
    (n = 0x024 → ∃ t, exec i s = .next t ∧ (t.coach s.cur.master).sq.auditNext =
        ((s.coach s.cur.master).sq.auditNext.filter fun a => (s.coach s.cur.master).ic < a.1) ++ [((s.coach s.cur.master).ic + 2, s.cur.seq, v.getLsbD 0)] ∧
      (t.coach s.cur.master).sq.x = (s.coach s.cur.master).sq.x) ∧
    (n = 0x010 ∨ n = 0x011 →
      let q := (s.coach s.cur.master).sq
      let ic := (s.coach s.cur.master).ic
      let now := q.bindNow ic
      let size : BitVec 2 := match (s.coach s.cur.master).unit with | some u => u.gsize | none => 0
      gangOk size (if n = 0x010 then v.extractLsb' 0 36 else now.1) (if n = 0x011 then v.extractLsb' 0 54 else now.2) = true →
      (∀ g ∈ q.gang, g.due ≤ ic) →
      ∃ t g, exec i s = .next t ∧ (t.coach s.cur.master).sq.gang = [g] ∧ g.due = ic + 64 ∧
        (n = 0x010 → g.bind = some (v.extractLsb' 0 36) ∧ g.skew = none) ∧ (n = 0x011 → g.skew = some (v.extractLsb' 0 54) ∧ g.bind = none) ∧
        (t.coach s.cur.master).sq.gbind = now.1 ∧ (t.coach s.cur.master).sq.gskew = now.2 ∧ (t.coach s.cur.master).sq.x = q.x)) ∧
  (∀ (k : Coach) (v : Word),
    (k.landDest (.sy 0x025 v)).sq.brk = v.getLsbD 0 ∧
    ((k.landDest (.sy 0x026 v)).sq.padr.extractLsb' 0 16 = v.extractLsb' 0 16 ∧
      ((k.landDest (.sy 0x026 v)).sq.padr.extractLsb' 16 7).toNat = min 64 (v.extractLsb' 16 7).toNat ∧
      (k.landDest (.sy 0x026 v)).sq.padr.getLsbD 23 = false ∧
      (k.landDest (.sy 0x026 v)).sq.padr.extractLsb' 24 5 = v.extractLsb' 24 5) ∧
    (∀ cl : Cl, ∀ n : BitVec 12, n.toNat = 0x021 + cl.group →
      let cu := (k.landDest (.sy n v)).en.cluster cl
      let m : Nat := match k.unit with | some u => u.member.toNat | none => 0
      cu.seed = v.extractLsb' 0 32 ∧ cu.v = (k.en.cluster cl).v ∧ cu.k = (k.en.cluster cl).k ∧
      (∀ l : Fin 64, cu.rng[l] =
        (let z := v.extractLsb' 0 32 ^^^ BitVec.ofNat 32 ((l.val + 1 + 64 * m) * 0x9E3779B9); if z = 0 then 1 else z)) ∧
      ∀ d : Cl, d ≠ cl → (k.landDest (.sy n v)).en.cluster d = k.en.cluster d) ∧
    ((k.landDest (.sy 0x040 v)).sq.epc.toNat = min 16384 (v.extractLsb' 0 15).toNat) ∧
    (∀ b, (k.landDest (.sy 0x020 v)).en.fflag.getLsbD b = (v.getLsbD b && decide (b < 40) && decide (b % 8 < 6))))

/-- AGB, AGL, AGP and AGR set one generator out on every member that BN binds, landing SN ics later, at the end of that ic
(R236, R238). A generator's line is (base + Σ n·S) modulo 16,384; a step of level k zeroes the levels below, adds one to its
counter and wraps it to zero at its bound, a bound of 0 or 1 at every step; other levels and the set-up stay (R165). AGL
zeroes its level's counter, AGR every counter (R236). -/
def Obligations.AddressGenerators : Prop :=
  (∀ (s : State) (i : Instr) (g : BitVec 6) (p : AgPart),
    (∃ (a b t : BitVec 5) (l : BitVec 3), (i, p) ∈ [(Instr.agb g a, AgPart.base ((xv s a).extractLsb' 0 14)),
      (.agl g l b t, .level l.toNat ((xv s b).extractLsb' 0 16) ((xv s t).extractLsb' 0 14)),
      (.agp g a, .pad ((xv s a).extractLsb' 0 28)), (.agr g, .zero)]) →
    let k := s.coach s.cur.master
    let now := k.sq.bindNow k.ic
    exec i s = .next ((boundTo s s.cur.master (now.1.extractLsb' 0 4).toNat).foldl
      (fun s c => s.result c (now.2.extractLsb' 0 6).toNat 0 (.ag g p)) s)) ∧
  (∀ (g : AddrGen) (k : Fin 6),
    g.line.toNat = (g.base.toNat + ((List.finRange 6).map fun j => g.ctr[j].toNat * g.stride[j].toNat).sum) % 16384 ∧
    (let h := g.step k.val
     h.base = g.base ∧ h.bound = g.bound ∧ h.stride = g.stride ∧ h.pad = g.pad ∧
     (∀ j : Fin 6, j < k → h.ctr[j] = 0) ∧ (∀ j : Fin 6, k < j → h.ctr[j] = g.ctr[j]) ∧
     h.ctr[k].toNat = if g.bound[k].toNat ≤ g.ctr[k].toNat + 1 then 0 else g.ctr[k].toNat + 1) ∧
    (∀ b t, let h := g.setup (.level k.val b t)
      h.bound[k] = b ∧ h.stride[k] = t ∧ h.ctr[k] = 0 ∧ h.base = g.base ∧ ∀ j : Fin 6, j ≠ k → h.ctr[j] = g.ctr[j]) ∧
    (∀ j : Fin 6, (g.setup .zero).ctr[j] = 0))

/-! ### Control operations (R166 to R174, R208 to R221) -/

/-- JUMP makes its index next in line with a redirect of two ics and breaks out of the bodies it leaves (R209, R172). Outside every
loop body, CALL with fewer than four entries pushes the following index, moves the window base up by 12 in the next ic and transfers
(R210, R211), and RET with an entry pops it, moves the base back and transfers, in the handler above the depth at its entry (R331);
nothing else changes. RET on an empty return stack outside the handler takes the illegal-bundle trap with the bundle's index as
argument (R210). TREE (R168, R169): a chain takes the path of its first test that holds, a fork the path of its two inner tests when
the first holds, and otherwise flow goes on; the path's signed offset from the bundle gives the target of a transfer. -/
def Obligations.JumpsCallsReturnsTrees : Prop :=
  ((∀ (s : State) (h : BitVec 4) (w : BitVec 1) (t : BitVec 4) (x : BitVec 5) (i : BitVec 14),
     let q := (s.coach s.cur.master).sq
     let ic := (s.coach s.cur.master).ic
     (∃ ls, breaksTo q.loops ls i.toNat ∧ exec (.jump h w t x i) s = .next (flowsTo s i.toNat ls h.toNat 2)) ∧
     (s.cur.index ≤ 16383 → q.loops = [] → q.rstk.length < 4 → exec (.call h w t x i) s = .next ((flowsTo s i.toNat q.loops h.toNat 2).onSq s.cur.master fun q =>
       { q with rstk := BitVec.ofNat 15 (s.cur.index + 1) :: q.rstk, winNext := some (ic + 1, q.winBase + 12) })) ∧
     (∀ a r, q.rstk = a :: r → q.loops = [] → (q.inh = true → q.rstk.length ≠ q.rdep.toNat) → exec (.ret h w t x) s = .next ((flowsTo s a.toNat q.loops h.toNat 2).onSq s.cur.master fun q =>
       { q with rstk := r, winNext := some (ic + 1, q.winBase - 12) }))) ∧
   (∀ (s : State) (h : BitVec 4) (w : BitVec 1) (t : BitVec 4) (x : BitVec 5), (s.coach s.cur.master).sq.rstk = [] →
     (s.coach s.cur.master).sq.inh = false → s.cur.index ≤ 16384 →
     ∃ u, exec (.ret h w t x) s = .next u ∧ (u.coach s.cur.master).sq.inh = true ∧
       (u.coach s.cur.master).sq.ecause.extractLsb' 0 8 = 0x01 ∧
       (u.coach s.cur.master).sq.earg = BitVec.ofNat 64 (s.cur.index + 31 * 2 ^ 16))) ∧
  (∀ (s : State) (h : BitVec 4) (w : BitVec 1) (t : BitVec 4) (x : BitVec 5),
     let q := (s.coach s.cur.master).sq
     let e3 := s.cur.ext.extractLsb' 96 32
     let nt := (e3.extractLsb' 20 2).toNat
     let ofs := fun p : Nat => ((s.cur.ext.extractLsb' (16 * (p - 1)) 16).toInt)
     let goes := fun p : Nat => ∀ tgt : Nat, (s.cur.index : Int) + ofs p = tgt →
       ∃ ls, breaksTo q.loops ls tgt ∧ exec (.tree h w t x) s = .next (flowsTo s tgt ls h.toNat 2)
     (e3.extractLsb' 22 2 = 0 →
       (∀ j ≤ nt, treeTestSpec s j = true → (∀ i < j, treeTestSpec s i = false) → goes (j + 1)) ∧
       ((∀ j ≤ nt, treeTestSpec s j = false) → exec (.tree h w t x) s = .next (s.goNext s.cur.index h.toNat))) ∧
     (e3.extractLsb' 22 2 = 1 →
       (treeTestSpec s 0 = true → goes (1 + (treeTestSpec s 1).toNat + 2 * (treeTestSpec s 2).toNat)) ∧
       (treeTestSpec s 0 = false → exec (.tree h w t x) s = .next (s.goNext s.cur.index h.toNat))))

/-- LOOP with a count of zero skips the body with a redirect, which for the enclosing levels counts as the issue of the body's last
bundle, a back-edge of theirs and its yield among it (R69, R171, R172); a count of n pushes a level of n iterations of the body,
whose first bundle is next in line, without a redirect. Sequential flow goes on from its bundle the same way, without a redirect. -/
def Obligations.LoopsAndSequentialFlow : Prop :=
  (∀ (s : State) (h : BitVec 4) (w : BitVec 1) (t : BitVec 4) (x : BitVec 5) (l : BitVec 3) (n g : BitVec 5) (y : BitVec 1),
    let q := (s.coach s.cur.master).sq
    let trips := ((xv s g).extractLsb' 0 32).toNat
    (trips ≠ 0 → exec (.loop h w t x l n g y) s = .next (flowsTo s (s.cur.index + 1)
      ({ first := s.cur.index + 1, last := s.cur.index + 1 + n.toNat, left := trips, ys := y = 1 } :: q.loops) h.toNat 0)) ∧
    (trips = 0 → ∃ u, exec (.loop h w t x l n g y) s = .next u ∧ followsBody s (s.cur.index + 1 + n.toNat) h.toNat 2 u)) ∧
  (∀ (s : State) (i hold : Nat), followsBody s i hold 0 (s.goNext i hold))

/-- TRAP and BRK under sy.brk.EN leave the trap to be taken at the bundle that would have issued next, with their code (R213,
R214); BRK otherwise, and YIELD without a request or in the handler, are sequential flow (R214, R215); YIELD under a request
outside the handler stops issue (R215); EXIT ends issue and withdraws a request (R216), and in the handler what the trap had set
aside goes, with the tiles that it stopped, while what the handler has still under way stays the handler's (R331). -/
def Obligations.TrapBreakYieldExit : Prop :=
  ∀ (s : State) (h : BitVec 4) (w : BitVec 1) (t : BitVec 4) (x : BitVec 5) (c : BitVec 14),
    let m := s.cur.master
    let q := (s.coach m).sq
    let next := s.goNext s.cur.index h.toNat
    exec (.trap h w t x c) s = .next (next.onSq m fun q => { q with postTrap := some (0x02, c) }) ∧
    (q.brk = true → exec (.brk h w t x c) s = .next (next.onSq m fun q => { q with postTrap := some (0x03, c) })) ∧
    (q.brk = false → exec (.brk h w t x c) s = .next next) ∧
    (q.preempt = none ∨ q.inh = true → exec (.yield h w t x) s = .next next) ∧
    (q.preempt ≠ none → q.inh = false → exec (.yield h w t x) s = .next (next.onSq m fun q => { q with phase := .draining false })) ∧
    (q.inh = false → exec (.exit h w t x) s = .next (s.onSq m fun q => { q with phase := .exited, preempt := none })) ∧
    (q.inh = true → ∃ u, exec (.exit h w t x) s = .next u ∧
      let q' := (u.coach m).sq
      q'.phase = .exited ∧ q'.preempt = none ∧ q'.held = none ∧ q'.inh = true ∧ q'.x = q.x ∧ q'.c = q.c ∧ q'.ss = q.ss ∧ q'.tok = q.tok ∧
      (∀ it, it ∈ q'.items → it ∈ q.items) ∧ (∀ it ∈ q.items, it.sub ≠ 0x7FF → it ∈ q'.items) ∧
      (∀ c ∈ s.members m, (u.coach c).en.tiles = (s.coach c).en.tiles.filter fun tl => !q.stoppedTile tl) ∧
      u.hbm = s.hbm ∧ u.tier = s.tier ∧ u.host = s.host ∧ u.hub = s.hub)

/-- BSEL (R219, R220): the first entry of the table whose SIZE is at least d is chosen; its TARGET is next in line with a
redirect, and sy.padr receives PLINES, VLANES and BKT with MISS 0 in the next ic; without one, MISS is set and flow goes
on. -/
def Obligations.BucketSelection : Prop :=
  ∀ (s : State) (h : BitVec 4) (w : BitVec 1) (t : BitVec 4) (x : BitVec 5) (n : BitVec 4) (r : BitVec 5),
    let q := (s.coach s.cur.master).sq
    let d := ((xv s r).extractLsb' 0 32).toNat
    let ent := fun i : Nat => ssWord q.ss ((s.cur.ext.extractLsb' 0 18).toNat + 8 * i)
    let size := fun i => ((ent i).extractLsb' 0 32).toNat
    (∀ k ≤ n.toNat, d ≤ size k → (∀ i < k, size i < d) →
      ∃ p : BitVec 29,
        exec (.bsel h w t x n r) s = .next ((flowsTo s ((ent k).extractLsb' 32 14).toNat q.loops h.toNat 2).result s.cur.master 1 0 (.sy 0x026 (p.zeroExtend 64))) ∧
        (let per := 2 ^ ((ent k).extractLsb' 46 2).toNat
         let up := fun a b : Nat => (a + b - 1) / b
         (p.extractLsb' 0 16).toNat = min (up (size k) (64 * per) - up d (64 * per)) 65535 ∧
         (p.extractLsb' 16 7).toNat = (if d % (64 * per) = 0 then 64 else up (d % (64 * per)) per) ∧
         (p.extractLsb' 24 4).toNat = k ∧ p.getLsbD 28 = false)) ∧
    ((∀ k ≤ n.toNat, size k < d) →
      exec (.bsel h w t x n r) s = .next ((s.goNext s.cur.index h.toNat).result s.cur.master 1 0 (.sy 0x026 ((q.padr ||| 0x10000000).zeroExtend 64))))

/-! ### Vector and special-function slots (R254 to R279) -/

/-- The element operations of the vector slots: every element of a modified lane takes the value of its rule, the flags of the
modified lanes are raised together, the other lanes are masked off, and in mode RST the generators of the modified lanes step; nothing
else changes (R254 to R257, R259, R260, R265). The lane operations of the vector slots: every modified lane takes the value of its
rule (R262, R263, R265). The compares and VKOP: every modified bit of the destination mask takes the relation over all the lane's
elements, or the entry of the truth table, with latency 2 (R261, R264); of a floating-point relation −0 equals +0 and a NaN is unordered with every
value (R196, R258). No flag is raised and nothing else changes. -/
def Obligations.VectorResults : Prop :=
  (∀ (s : State) (i : Instr) (d : BitVec 5) (m : BitVec 64) (lat f : Nat) (rm : BitVec 3) (g : Nat → Nat → Nat × BitVec 6),
     i.wf = true → elementSpec s i = some (d, m, lat, f, rm, g) →
     ∃ (v : Line) (fl : BitVec 6),
       exec i s = .next ((s.resultV s.cl lat d (laneMask m) v fl).stepRng s.cl rm m (fmtElems f)) ∧
       (∀ l < 64, ∀ j < fmtElems f, elemOf f (laneOf v l) j = if m.getLsbD l then (g l j).1 else 0) ∧
       (∀ b < 6, fl.getLsbD b = true ↔ ∃ l < 64, ∃ j < fmtElems f, m.getLsbD l = true ∧ (g l j).2.getLsbD b = true)) ∧
  ((∀ (s : State) (i : Instr) (d : BitVec 5) (m : BitVec 64) (lat : Nat) (g : Nat → Lane), laneSpec s i = some (d, m, lat, g) →
     ∃ v : Line, exec i s = .next (s.resultV s.cl lat d (laneMask m) v 0) ∧
       ∀ l < 64, laneOf v l = if m.getLsbD l then g l else 0) ∧
   (∀ (s : State) (i : Instr) (d : BitVec 3) (m : BitVec 64) (g : Nat → Bool), maskSpec s i = some (d, m, g) →
     ∃ v : BitVec 64, exec i s = .next (s.resultK s.cl 2 d m v) ∧ ∀ l < 64, v.getLsbD l = g l)) ∧
  (∀ f c a b : Nat, f ≤ 7 →
    let x := decodeNum f a
    let y := decodeNum f b
    let un : Prop := x = .nan ∨ y = .nan
    (c = 0 → (fpRel f c a b = true ↔ ¬ un ∧ ¬ below x y ∧ ¬ below y x)) ∧ (c = 1 → (fpRel f c a b = true ↔ un ∨ below x y ∨ below y x)) ∧
    (c = 2 → (fpRel f c a b = true ↔ below x y)) ∧ (c = 3 → (fpRel f c a b = true ↔ ¬ un ∧ ¬ below y x)) ∧
    (c = 4 → (fpRel f c a b = true ↔ below y x)) ∧ (c = 5 → (fpRel f c a b = true ↔ ¬ un ∧ ¬ below x y)) ∧
    (c = 6 → (fpRel f c a b = true ↔ un)) ∧ (c = 7 → (fpRel f c a b = true ↔ ¬ un)))

/-- A conversion places its elements (R266 to R269): produced element j of a lane stands at the place that PART gives, computed from
its source element; the flags of the lanes below the width are raised; lanes at or above the width, and the elements of a lane that a
narrowing does not produce, are masked off. FP6 moves between byte containers and the dense form, with zeros above the dense form and
in each container's two top bits (R268), and each lane of VMXS carries its block's scale, IV being raised when a scale is 0xFF (R269).
-/
def Obligations.ConversionResults : Prop :=
  (∀ (s : State) (i : Instr) (tf sf part : Nat) (w : BitVec 2) (d a : BitVec 5) (rm : BitVec 3) (g : Nat → Nat → Nat → Nat × BitVec 6),
    i.wf = true → convertSpec s i = some (tf, sf, part, w, d, a, rm, g) →
    ∃ (mask v : Line) (fl : BitVec 6),
      exec i s = .next ((s.resultV s.cl 4 d mask v fl).stepRng s.cl rm (belowMask (widthLanes w)) (min (fmtElems tf) (fmtElems sf))) ∧
      (∀ l < 64, ∀ j < fmtElems tf,
        let first := if fmtElems sf < fmtElems tf then part * fmtElems sf else 0
        let made : Bool := decide (l < widthLanes w) && decide (first ≤ j) && decide (j < first + min (fmtElems tf) (fmtElems sf))
        let src := if fmtElems tf < fmtElems sf then part * fmtElems tf + (j - first) else j - first
        (made = true → elemOf tf (laneOf v l) j = (g l (j - first) (el s sf a l src)).1) ∧
        elemOf tf (laneOf mask l) j = if made then 2 ^ fmtWidth tf - 1 else 0) ∧
      (∀ b < 6, fl.getLsbD b = true ↔ ∃ l < widthLanes w, ∃ j < min (fmtElems tf) (fmtElems sf),
        (g l j (el s sf a l (if fmtElems tf < fmtElems sf then part * fmtElems tf + j else j))).2.getLsbD b = true)) ∧
  ((∀ (s : State) (w : BitVec 2) (d a : BitVec 5) (t : BitVec 4) (r : BitVec 3) (u : BitVec 1) (p : BitVec 2),
    ∃ v : Line, exec (.vcvt w d a t t r u p) s = .next (s.resultV s.cl 4 d (laneMask (belowMask (widthLanes w))) v 0) ∧
      (∀ e < 4 * widthLanes w,
        (p = 1 → v.extractLsb' (6 * e) 6 = (vsrc s.cen s.cl a).extractLsb' (8 * e) 6) ∧
        (p ≠ 1 → v.extractLsb' (8 * e) 6 = (vsrc s.cen s.cl a).extractLsb' (6 * e) 6 ∧ v.extractLsb' (8 * e + 6) 2 = 0)) ∧
      (p = 1 → ∀ i < 32 * widthLanes w, 24 * widthLanes w ≤ i → v.getLsbD i = false)) ∧
  (∀ (s : State) (w : BitVec 2) (d a : BitVec 5) (t f : BitVec 4), (Instr.vmxs w d a t f).wf = true →
    let sc := scaleSpec s t.toNat f.toNat (widthLanes w) a
    ∃ (v : Line) (fl : BitVec 6),
      exec (.vmxs w d a t f) s = .next (s.resultV s.cl 4 d (laneMask (belowMask (widthLanes w))) v fl) ∧
      (∀ l < widthLanes w, (laneOf v l).toNat = sc (l * fmtElems f.toNat / 32)) ∧
      (fl = if ∃ l < widthLanes w, sc (l * fmtElems f.toNat / 32) = 255 then flIV else 0)))

/-- The special functions on lanes: every lane takes the value of its rule from its source and, for an estimate, the free value drawn
for it (log 12); the flags are raised together in the special-function group; the result stands on FO and in the staging register
named; nothing else changes but the count of free values drawn (R94, R98 to R100, R270, R271). FTLD puts the lanes of its source on
its way to one part of a table, for operations of the next ic or later, and landing changes that part only; FTBL gives the canonical
NaN with IV in every element for a table that is not well-formed, and for one that is rounds once the node or the mix of two nodes
where each element falls; it delivers on FO with latency 6 (R272 to R274). -/
def Obligations.SpecialFunctionResults : Prop :=
  (∀ (s : State) (i : Instr) (d a : BitVec 3) (lat : Nat) (est : Bool) (g : Nat → Nat → BitVec 32 → Nat × BitVec 6),
    sfSpec s i = some (d, a, lat, est, g) →
    let one := fun l => g l (laneOf (fsrc s.cen a) l).toNat (Config.estimate (s.draw + l))
    ∃ (v : Line) (fl : BitVec 6),
      exec i s = .next { s.resultF 3 lat d v fl with draw := if est then s.draw + 64 else s.draw } ∧
      (∀ l < 64, laneOf v l = BitVec.ofNat 32 (one l).1) ∧
      (∀ b < 6, fl.getLsbD b = true ↔ ∃ l < 64, (one l).2.getLsbD b = true)) ∧
  ((∀ (s : State) (a : BitVec 3) (t : BitVec 6) (p : BitVec 4),
    exec (.ftld a t p) s = .next (s.result s.cur.coach 0 0 (.tbl (16 * t.toNat + p.toNat) (fsrc s.cen a)))) ∧
  (∀ (k : Coach) (i : Nat) (v : Line), canon k.en.tables = true → let k' := k.landDest (.tbl i v)
    peek k'.en.tables i = v ∧ (∀ j, j ≠ i → peek k'.en.tables j = peek k.en.tables j) ∧ k'.sq = k.sq ∧ k'.en.fs = k.en.fs) ∧
  (∀ (s : State) (d a r : BitVec 3) (f : BitVec 4) (t : BitVec 6), (Instr.ftbl d a r f t).wf = true →
    let x := fun (l j : Nat) => decodeNum f.toNat (elemOf f.toNat (laneOf (fsrc s.cen a) l) j)
    ∃ (v : Line) (fl : BitVec 6), exec (.ftbl d a r f t) s = .next (s.resultF 3 6 d v fl) ∧
      (¬ tableSpec s.cen t → fl = flIV ∧ ∀ l < 64, ∀ j < fmtElems f.toNat, elemOf f.toNat (laneOf v l) j = fpNan f.toNat) ∧
      (tableSpec s.cen t → ∃ (y : Nat → Nat → Machine.Num) (iv : Nat → Nat → Bool),
        let one := fun (l j : Nat) => if x l j = .nan then (fpNan f.toNat, 0) else
          let z := roundNum f.toNat r.toNat false (y l j) 0
          (z.1, z.2 ||| if iv l j = true then flIV else 0)
        (∀ l < 64, ∀ j < fmtElems f.toNat, (x l j ≠ .nan → pieceSpec s.cen t r.toNat (x l j) (y l j) (iv l j)) ∧
          elemOf f.toNat (laneOf v l) j = (one l j).1) ∧
        (∀ b < 6, fl.getLsbD b = true ↔ ∃ l < 64, ∃ j < fmtElems f.toNat, (one l j).2.getLsbD b = true))))

/-- Formats and rounding (R80, R81, R87 to R91, R96): what an encoding stands for; a finite number rounds to the neighbour that its
mode takes at the spacing around it, with NX when that is inexact and UF when it was tiny besides; an overflow, an infinity and a NaN
give what the tables say, with saturation or without; a zero keeps its sign. Sums, products and sums of lists are exact; the signs of
their zeros and the invalid operations are the rule's; an operation on elements rounds its exact result once; maximum and minimum take
−0 below +0 and a number before a NaN; that a list with a NaN and infinities of both signs raises IV is the model's reading (log 21); a block's scale comes from its largest magnitude, and its elements are rounded by it (R85). A
number becomes an integer rounded in its mode and then clamped. -/
def Obligations.RoundingRules : Prop :=
  (∀ f b, f ≤ 7 → ∃ eb man emin big can, fpSpec f = (eb, man, emin, big, can) ∧
    let m : Nat := b % 2 ^ man
    let ex : Nat := b / 2 ^ man % 2 ^ eb
    let neg := decide (b / 2 ^ (man + eb) % 2 = 1)
    let special : Prop := (f = 0 ∨ f = 1 ∨ f = 2 ∨ f = 4) ∧ ex = 2 ^ eb - 1 ∨ f = 3 ∧ ex = 15 ∧ m = 7
    (special → decodeNum f b = if m = 0 then .inf neg else .nan) ∧
    (¬ special → decodesTo f b neg ((if neg = true then -1 else 1) * if ex = 0 then (m : ℚ) * 2 ^ (emin - man) else (2 ^ man + m : ℚ) * 2 ^ ((ex : ℤ) - 1 + emin - man)))) ∧
  (∀ b < 255, decodesTo 8 b false (2 ^ ((b : ℤ) - 127))) ∧ decodeNum 8 255 = .nan ∧
  (∀ (f mode : Nat) (sat neg : Bool) (m : Nat) (e : Int) (u : Nat), f ≤ 7 → mode ≤ 5 → u < 65536 →
    ∃ eb man emin big can, fpSpec f = (eb, man, emin, big, can) ∧
    let a := |numQ (.fin neg m e)|
    let s : ℚ := if neg = true then -1 else 1
    let z := roundNum f mode sat (.fin neg m e) u
    (m = 0 → decodesTo f z.1 neg 0 ∧ z.2 = 0) ∧
    (m ≠ 0 → ∃ k : ℤ, emin ≤ k ∧ a < 2 ^ (k + 1) ∧ (2 ^ k ≤ a ∨ k = emin) ∧
      let res := (stepSpec mode neg (a / 2 ^ (k - man)) u : ℚ) * 2 ^ (k - man)
      (res ≤ big → decodesTo f z.1 neg (s * res) ∧
        z.2 = (if res = a then 0 else flNX) ||| (if res ≠ a ∧ a < 2 ^ emin then flUF else 0)) ∧
      (big < res →
        (sat = true ∨ 5 ≤ f → decodesTo f z.1 neg (s * big) ∧ z.2 = flSA ||| flNX) ∧
        (sat = false → f = 3 → z = (0x7F, flIV ||| flNX)) ∧
        (sat = false → f < 5 → f ≠ 3 → z.2 = flOF ||| flNX ∧
          if mode = 0 ∨ mode = 5 ∨ (mode = 2 ∧ neg = false) ∨ (mode = 3 ∧ neg = true) then decodeNum f z.1 = .inf neg
          else decodesTo f z.1 neg (s * big))))) ∧
  (∀ (f mode : Nat) (sat neg : Bool) (u : Nat), f ≤ 7 → ∃ eb man emin big can, fpSpec f = (eb, man, emin, big, can) ∧
    let s : ℚ := if neg = true then -1 else 1
    let z := roundNum f mode sat (.inf neg) u
    (sat = true ∨ 5 ≤ f → decodesTo f z.1 neg (s * big) ∧ z.2 = flSA) ∧
    (sat = false → f = 3 → z = (0x7F, flIV)) ∧
    (sat = false → f < 5 → f ≠ 3 → decodeNum f z.1 = .inf neg ∧ z.2 = 0) ∧
    roundNum f mode sat .nan u = (can, if f < 5 then 0 else flIV)) ∧
  (∀ (mode : Nat) (x y : Machine.Num),
    (∀ a m e b n g, x = .fin a m e → y = .fin b n g → ∃ c k t, numAdd mode x y = (.fin c k t, false) ∧ numQ (.fin c k t) = numQ x + numQ y ∧
      (numQ x + numQ y = 0 → c = if m = 0 ∧ n = 0 ∧ a = b then a else decide (mode = 3))) ∧
    (∀ a m e b n g, x = .fin a m e → y = .fin b n g → ∃ k t, numMul x y = (.fin (a != b) k t, false) ∧
      numQ (.fin (a != b) k t) = numQ x * numQ y) ∧
    (x = .nan ∨ y = .nan → numAdd mode x y = (.nan, false) ∧ numMul x y = (.nan, false)) ∧
    (∀ a, x = .inf a → y ≠ .nan → numAdd mode x y = (if y = .inf (!a) then (.nan, true) else (.inf a, false)) ∧
      numMul x y = match y with
        | .inf b => (.inf (a != b), false)
        | .fin b n _ => if n = 0 then (.nan, true) else (.inf (a != b), false)
        | .nan => (.nan, false)) ∧
    (∀ a m e b, x = .fin a m e → y = .inf b → numAdd mode x y = (.inf b, false) ∧
      numMul x y = if m = 0 then (.nan, true) else (.inf (a != b), false))) ∧
  (∀ (mode : Nat) (l : List Machine.Num),
    ((∀ x ∈ l, ∃ a m e, x = .fin a m e) → l ≠ [] → ∃ c k t, sumNums mode l = (.fin c k t, false) ∧ numQ (.fin c k t) = (l.map numQ).sum ∧
      ((l.map numQ).sum = 0 → ∀ a : Bool, (∀ x ∈ l, ∃ e, x = .fin a 0 e) → c = a) ∧
      ((l.map numQ).sum = 0 → (∀ a : Bool, ∃ x ∈ l, ∀ e, x ≠ .fin a 0 e) → c = decide (mode = 3))) ∧
    (Machine.Num.nan ∈ l → sumNums mode l = (.nan, decide (Machine.Num.inf true ∈ l ∧ Machine.Num.inf false ∈ l))) ∧
    (Machine.Num.nan ∉ l → Machine.Num.inf true ∈ l → Machine.Num.inf false ∈ l → sumNums mode l = (.nan, true)) ∧
    (∀ a : Bool, Machine.Num.nan ∉ l → Machine.Num.inf a ∈ l → Machine.Num.inf (!a) ∉ l → sumNums mode l = (.inf a, false))) ∧
  (∀ (f a b : Nat) (big : Bool), f ≤ 7 →
    let x := decodeNum f a
    let y := decodeNum f b
    let w := 2 ^ fmtWidth f
    (x = .nan → y = .nan → fpMaxMin f big a b = fpNan f) ∧ (x = .nan → y ≠ .nan → fpMaxMin f big a b = b % w) ∧
    (x ≠ .nan → y = .nan → fpMaxMin f big a b = a % w) ∧
    (x ≠ .nan → y ≠ .nan → (numLess x y → fpMaxMin f big a b = if big = true then b % w else a % w) ∧
      (numLess y x → fpMaxMin f big a b = if big = true then a % w else b % w))) ∧
  (∀ (f : Nat) (l : List Machine.Num), 3 ≤ f → f ≤ 7 →
    let emax : ℤ := if f = 3 then 8 else if f = 4 then 15 else if f = 6 then 4 else 2
    let x := mxScale f l
    ((∃ v ∈ l, ∀ n m e, v ≠ .fin n m e) → x = 255) ∧
    ((∀ v ∈ l, ∃ n m e, v = .fin n m e) →
      ((∀ v ∈ l, numQ v = 0) → x = 0) ∧
      (∀ k : ℤ, (∃ v ∈ l, (2 : ℚ) ^ k ≤ |numQ v|) → (∀ v ∈ l, |numQ v| < (2 : ℚ) ^ (k + 1)) → (x : ℤ) = max (-127) (min 127 (k - emax)) + 127)) ∧
    ∀ (mode u : Nat) (v : Machine.Num), (x = 255 → mxElem f mode x v u = (0, flIV)) ∧
      (x ≠ 255 → ∀ n m e, v = .fin n m e → mxElem f mode x v u = roundNum f mode true (.fin n m (e - ((x : ℤ) - 127))) u)) ∧
  (∀ (f mode a b c u : Nat) (sub : Bool),
    let x := decodeNum f a
    let y := decodeNum f b
    let w := if sub = true then (decodeNum f c).neg else decodeNum f c
    let once := fun (z : Machine.Num × Bool) => let r := roundNum f mode false z.1 u; (r.1, r.2 ||| if z.2 = true then flIV else 0)
    fpAdd f mode a b u = once (numAdd mode x y) ∧ fpSub f mode a b u = once (numAdd mode x y.neg) ∧ fpMul f mode a b u = once (numMul x y) ∧
    fpFma f mode sub a b c u = once (if (numMul x y).2 = true then (.nan, true) else numAdd mode (numMul x y).1 w)) ∧
  (∀ (f mode : Nat) (neg : Bool) (m : Nat) (e : Int) (u : Nat), 9 ≤ f → f ≤ 13 → mode ≤ 5 → u < 65536 → ∃ lo hi, intSpec f = (lo, hi) ∧
    let a := |numQ (.fin neg m e)|
    let n := stepSpec mode neg a u
    let v := if neg = true then -n else n
    let z := numToInt f mode (.fin neg m e) u
    decodeInt f z.1 = max lo (min hi v) ∧ z.2 = (if lo ≤ v ∧ v ≤ hi then 0 else flSA) ||| (if (n : ℚ) = a then 0 else flNX) ∧
    numToInt f mode .nan u = (0, flIV) ∧ decodeInt f (numToInt f mode (.inf neg) u).1 = (if neg = true then lo else hi) ∧
    (numToInt f mode (.inf neg) u).2 = flSA)

/-- The scans (R275 to R278): each output element combines the elements from its segment's head up to it, the carry first
before the first head; the result stands on SO and in the register named with latency 8, the flags are raised in the
special-function group, and the carry becomes the last output element. CMPCT (R279): the entries are the lane numbers of the
non-zero lanes plus the base modulo 32,768, in order, 0x8000 after the last; lane 32 holds their count, the lanes above it
zero; latency 10 on SO; the base moves on by 64, from 0 without C. Nothing else changes. -/
def Obligations.ScanResults : Prop :=
  (∀ (s : State) (i : Instr) (op : Nat) (f : BitVec 4) (rm : BitVec 3) (c : BitVec 1) (seg d : BitVec 3), i.wf = true →
    scanSpec i = some (op, f, rm, c, seg, d) →
    let n := fmtElems f.toNat
    let x := fun (v : Line) (e : Nat) => elemOf f.toNat (laneOf v (e / n)) (e % n)
    let one := fun e => reduceSpec op f.toNat rm.toNat (scanTermsSpec (if c = 1 then [elemOf f.toNat s.cen.carry 0] else [])
      ((List.range (64 * n)).map (x (peek s.cen.rin 41))) (fun e => seg ≠ 0 && decide (x (vrd s.cen.fs seg.toNat 0) e ≠ 0)) e)
    ∃ (v : Line) (fl : BitVec 6) (cy : Lane),
      exec i s = .next ((s.resultF 4 8 d v fl).onEn s.cur.coach fun e => { e with carry := cy }) ∧
      (∀ e < 64 * n, x v e = (one e).1) ∧ cy.toNat = (one (64 * n - 1)).1 ∧
      (∀ b < 6, fl.getLsbD b = true ↔ ∃ e < 64 * n, (one e).2.getLsbD b = true)) ∧
  (∀ (s : State) (c : BitVec 1) (d : BitVec 3),
    let v := peek s.cen.rin 41
    let kept := (List.range 64).filter fun l => laneOf v l ≠ 0
    let base := if c = 1 then s.cen.cbase.toNat else 0
    ∃ w : Line, exec (.cmpct c d) s = .next ((s.resultF 4 10 d w 0).onEn s.cur.coach fun e => { e with cbase := BitVec.ofNat 15 (base + 64) }) ∧
      (∀ i (h : i < kept.length), (w.extractLsb' (16 * i) 16).toNat = (base + kept[i]) % 32768) ∧
      (∀ i, kept.length ≤ i → i < 64 → (w.extractLsb' (16 * i) 16) = 0x8000) ∧
      (laneOf w 32).toNat = kept.length ∧ (∀ l, 32 < l → l < 64 → laneOf w l = 0))

/-! ### Matrix slot (R280 to R294) -/

/-- A firing (R28, R29, R96, R97, R282, R283): with latency 8 every element takes its base plus the slice sum of its row of A and its
column of B as they stand on MA and MB: the products, each with the two scales that stand on SCA and SCB under MX, summed exactly and
rounded once, and added with one rounding more; under INT8 exactly, and clamped; the flags of all elements are raised in the matrix group; the
walk moves on; nothing else changes. The base is +0.0 with ZA, else the result of the latest firing to the block that consumed within
the last seven ics, else what the block holds, where no error stands in it. A block outside the reservation takes nothing (R57). -/
def Obligations.MfireResults : Prop :=
  (∀ (s : State) (b : BitVec 8) (z : BitVec 1),
    let blk := (walkFire s.cen.mgeom b).1
    (s.coach s.cur.coach).hasBlock blk = false → exec (.mfire b z) s = .next (s.putGeom (walkFire s.cen.mgeom b).2)) ∧
  (∀ (s : State) (b : BitVec 8) (z : BitVec 1) (base : Nat → Nat → Nat),
    let c := s.cur.coach
    let k := s.coach c
    let e := s.cen
    let blk := (walkFire e.mgeom b).1
    let lt := latchFor e s.cur.bno
    let fa := (lt.extractLsb' 0 4).toNat
    let fb := (lt.extractLsb' 4 4).toNat
    let kk := latchK lt
    let aAt := fun (i q : Nat) => elemOf fa (laneOf (peek e.rin (i / 4)) (16 * (i % 4) + q / fmtElems fa)) (q % fmtElems fa)
    let bAt := fun (q j : Nat) => elemOf fb (laneOf (peek e.rin (16 + q / fmtElems fb)) j) (q % fmtElems fb)
    let scale := fun (port l q : Nat) => if lt.getLsbD 8 = true then decodeNum 8 ((laneOf (peek e.rin port) l).toNat / 256 ^ (q / 32) % 256) else .fin false 1 0
    let prod := fun (i j q : Nat) => numMul (decodeNum fa (aAt i q)) (decodeNum fb (bAt q j))
    let term := fun (i j q : Nat) => (numMul (numMul (prod i j q).1 (scale 32 i q)).1 (scale 33 j q)).1
    let sum := fun (i j : Nat) => sumNums 0 ((List.range kk).map (term i j))
    let slice := fun (i j : Nat) => roundNum 0 0 false (sum i j).1 0
    let invalid := fun (i j : Nat) => (sum i j).2 = true ∨ ∃ q < kk, (prod i j q).2 = true
    let total := fun (i j : Nat) => decodeInt 9 (base i j) + ((List.range kk).map fun q => decodeInt 11 (aAt i q) * decodeInt 11 (bAt q j)).sum
    let value := fun (i j : Nat) => if fa = 11 then ((max (-2147483648) (min 2147483647 (total i j))) % 2 ^ 32).toNat else (fpAdd 0 0 (base i j) (slice i j).1 0).1
    let raises := fun (i j t : Nat) => if fa = 11 then flSA.getLsbD t = true ∧ ¬ (-2147483648 ≤ total i j ∧ total i j ≤ 2147483647)
      else (slice i j).2.getLsbD t = true ∨ (flIV.getLsbD t = true ∧ invalid i j) ∨ (fpAdd 0 0 (base i j) (slice i j).1 0).2.getLsbD t = true
    k.hasBlock blk = true → fa ≠ 8 → fb ≠ 8 → baseSpec s z blk base →
    ∃ (rows : List (BitVec 6 × Line × Line)) (fl : BitVec 6),
      let fired : Result := { due := k.ic + 8, seq := s.cur.seq, syl := 8, flags := flGroup 4 fl, again := false, tile := false,
                              dest := .acc blk rows (some k.ic) }
      exec (.mfire b z) s = .next ((s.onEn c fun e => { e with inflight := insertResult fired e.inflight }).putGeom (walkFire e.mgeom b).2) ∧
      rows.length = 64 ∧
      (∀ i (h : i < rows.length), rows[i].1.toNat = i ∧ rows[i].2.1 = BitVec.allOnes 2048 ∧
        ∀ j < 64, (laneOf rows[i].2.2 j).toNat = value i j) ∧
      (∀ t < 6, fl.getLsbD t = true ↔ ∃ i < 64, ∃ j < 64, raises i j t))

/-- MFMT (R281), the latest so far: the value governs the operations of bundles issued four or more later, and until then, back to
the bundles whose skewed operations may still be to execute (R36), what governed before.
MGEOM sets the walk geometry with its counters at zero and no reserved bit (R284, R285); MCLR puts +0.0 in every element of
its N + 1 blocks, block numbers modulo 256, with latency 1 (R286); MPRE puts the lanes standing on AL0 to AL7 into eight rows
with latency 2 (R288). MDRN, of a block that no MTILE writes, where no error stands (R287): the eight rows stand on AD0 to AD7 two ics
later, zero outside the reservation; with CLR the rows are cleared one ic later. On a walk MDRN and MPRE take their block and rows
from it, and their own counter moves on (R285); nothing else changes. -/
def Obligations.MatrixSetupsAndDrains : Prop :=
  ((∀ (s : State) (a b : BitVec 4) (m : BitVec 1), s.cen.latchQ.Pairwise (fun p q => p.1 ≤ q.1) →
     (∀ p ∈ s.cen.latchQ, p.1 < s.cur.bno + 4 ∧ p.2.1 < s.cur.seq) →
     ∃ l q, exec (.mfmt a b m) s = .next (s.onEn s.cur.coach fun e => { e with latch := l, latchQ := q }) ∧
       ∀ n, (if s.cur.hnd = true then 0 else s.cur.bno - 64) ≤ n → latchFor { s.cen with latch := l, latchQ := q } n =
         if s.cur.bno + 4 ≤ n then m ++ b ++ a else latchFor s.cen n) ∧
   ((∀ (s : State) (a : BitVec 5), ∃ g : BitVec 57, exec (.mgeom a) s = .next (s.onEn s.cur.coach fun e => { e with mgeom := g }) ∧
     ∀ i < 57, g.getLsbD i = ((xv s a).getLsbD i && decide (i ∈ [0, 1, 2, 3, 4, 5, 6, 8, 9, 10]))) ∧
   (∀ (s : State) (b n : BitVec 8), ∃ f : Nat → List (BitVec 6 × Line × Line),
     exec (.mclr b n) s = .next ((List.range (n.toNat + 1)).foldl
       (fun s i => s.result s.cur.coach 1 0 (.acc (b + BitVec.ofNat 8 i) (f i) none)) s) ∧
     ∀ i ≤ n.toNat, (f i).length = 64 ∧ ∀ j (h : j < (f i).length), (f i)[j] = (BitVec.ofNat 6 j, BitVec.allOnes 2048, 0)) ∧
   (∀ (s : State) (b : BitVec 8) (g : BitVec 3), ∃ blk rg h, walkSpec s.cen.mgeom 10 48 b g blk rg h ∧
     exec (.mpre b g) s = .next ((s.result s.cur.coach 2 0 (.acc blk ((List.range 8).map fun j =>
       (BitVec.ofNat 6 (8 * rg + j), BitVec.allOnes 2048, peek s.cen.rin (42 + j))) none)).putGeom h)))) ∧
  (∀ (s : State) (b : BitVec 8) (g : BitVec 3) (cl : BitVec 1),
     let c := s.cur.coach
     s.cen.badAcc = [] → s.cen.softAcc = [] →
     ∃ blk rg h, walkSpec s.cen.mgeom 9 32 b g blk rg h ∧ (s.blockAwaited c blk = false →
       let u := (List.range 8).foldl (fun s j => s.result c 2 0 (.oport (BitVec.ofNat 6 (5 + j)) (BitVec.allOnes 2048)
           (if (s.coach c).hasBlock blk then peek (s.coach c).en.acc (accKey blk (BitVec.ofNat 6 (8 * rg + j))) else 0)))
           { s with draw := s.draw + 8 }
       exec (.mdrn b g cl) s = .next ((if cl = 1 then
         u.result c 1 0 (.acc blk ((List.range 8).map fun j => (BitVec.ofNat 6 (8 * rg + j), BitVec.allOnes 2048, 0)) none) else u).putGeom h)))

/-- MTILE issues its item and becomes active on its member (R289 to R292): its geometry is the descriptor's, the format
latch is the one that governs its bundle, its first route executes in the next ic; a tile that fails its checks has no
firings. -/
def Obligations.MtileIssuesItsTile : Prop :=
  ∀ (s : State) (d : BitVec 5) (tk : BitVec 4) (cl : BitVec 1),
    let c := s.cur.coach
    let q := s.msq
    let w := descWords q.ss (descBase (xv s d)) 3
    let rrd := match (s.coach c).unit with | some u => u.rrd | none => 0
    (∀ o ∈ s.msq.items, o.id < s.msq.nextItem) →
    ∃ t it tl, exec (.mtile d tk cl) s = .next t ∧ it ∈ (t.coach s.cur.master).sq.items ∧ it.id = q.nextItem ∧
      it.tok = q.winBase + tk.zeroExtend 6 ∧ it.desc = w ∧ it.phase = .running ∧
      (t.coach c).en.tiles = (s.coach c).en.tiles ++ [tl] ∧ tl.item = q.nextItem ∧ tl.latch = latchFor s.cen s.cur.bno ∧
      tl.base = s.icNow + 1 ∧ tl.next = 0 ∧ tl.blk0 = ((dword w 0).extractLsb' 0 8).toNat ∧ tl.clr = decide (cl = 1) ∧
      (checkTile rrd w = [] → (s.msq.items.filter fun i => i.coach = c).length < 256 → it.status = 0 ∧
        (((dword w 0).extractLsb' 28 20).toNat ≠ 0 → tl.m = ((dword w 0).extractLsb' 8 10).toNat ∧ tl.n = ((dword w 0).extractLsb' 18 10).toNat ∧
          tl.k = ((dword w 0).extractLsb' 28 20).toNat)) ∧
      (checkTile rrd w ≠ [] → it.status ≠ 0 ∧ tl.total = 0) ∧
      t.hbm = s.hbm ∧ t.hub = s.hub ∧ (t.coach s.cur.master).sq.x = q.x ∧ (t.coach s.cur.master).sq.tok = q.tok

/-! ### Network, M0 and M1 (R240 to R252) -/

/-- A null network syllable changes nothing, but that the steps which an MTILE's routes of the ic give take effect. Otherwise, after
the routes and those steps, each generator that the executed read route selects steps once at RSTEP's level, and then each one that
the executed write route selects once at WSTEP's; a null route and a step field of 0 step nothing, and no other generator changes
(R165, R292). -/
def Obligations.NetworkStepsGenerators : Prop :=
  (∀ (s : State) (st wt : BitVec 3) (p : BitVec 4) (a e : BitVec 1),
    (∀ z ∈ s.cen.inflight, ∀ g k, z.dest = .ag g (.step k) → s.icNow < z.due) → exec (.networkSyllable 0 0 st wt p a e) s = .next s) ∧
  (∀ (s : State) (r w : BitVec 9) (st wt : BitVec 3) (p : BitVec 4) (a e : BitVec 1), st.toNat ≤ 6 → wt.toNat ≤ 6 →
    ∃ t, exec (.networkSyllable r w st wt p a e) s = .next t ∧
      let k := s.coach s.cur.coach
      let rs := selectedGens (k.en.routeLine false r) false
      let ws := selectedGens (k.en.routeLine true w) true
      let tiles := fun (g : BitVec 6) => k.en.inflight.filterMap fun z => match z.dest with
        | .ag h (.step n) => if h = g ∧ z.due ≤ k.ic then some n else none
        | _ => none
      ∀ g : BitVec 6, (t.coach s.cur.coach).en.gen g =
        (let y := (tiles g).foldl AddrGen.step (k.en.gen g)
        let x := if r ≠ 0 ∧ st ≠ 0 ∧ g ∈ rs then y.step (st.toNat - 1) else y
        if w ≠ 0 ∧ wt ≠ 0 ∧ g ∈ ws then x.step (wt.toNat - 1) else x))

/-- A read route delivers bank lanes (R241, R242): the lanes of a destination port that are enabled and driven by a lane of a bank
port land six ics later, the enabled ones of another source present by rule (drain and hitch-in ports, ZS, SB) four ics later with what
that source presents in this ic (R23, R175, R383), and no other lane of the port is touched. A lane from a bank port that takes part carries that bank's line, as its generator or its override gives it, or under a
pad enable of 1 the pad word where the generator's lane is padded (R123, R237); no engine write to the line waits and no lane is in
error. A write route sets bank lanes out (R252): of a bank port that takes part, exactly the enabled lanes that the override admits
and that a source port drives carry what it presents and land in the bank line three ics later; landing writes those lanes of
that line and no other, and nothing outside the reservation (R19). -/
def Obligations.RoutesMoveLanes : Prop :=
  (∀ (s : State) (r : BitVec 9) (p : BitVec 4) (a e : BitVec 1) (port l b : Nat) (line : BitVec 14) (og : Option AddrGen),
    let k := s.coach s.cur.coach
    let q := (s.coach (s.masterOf s.cur.coach)).sq
    let img := k.en.routeLine false r
    let src := fun j => readSource img (64 * port + j)
    r ≠ 0 → port < 54 → l < 64 → b < 48 → (enableBits img false port).getLsbD l = true →
    src l / 64 = b → readPort k k.en.ovR img b = some (line, og) → k.en.engq = [] → k.en.badBank = [] → k.en.onceBank = [] →
    ∃ t mask v, exec (.networkSyllable r 0 0 0 p a e) s = .next t ∧
      (∃ z ∈ (t.coach s.cur.coach).en.inflight, z.due = k.ic + 6 ∧ z.seq = s.cur.seq ∧ z.dest = .rin (BitVec.ofNat 6 port) mask v) ∧
      (∀ j < 64, (laneOf mask j = 0 ∨ laneOf mask j = 0xFFFFFFFF) ∧
        ((enableBits img false port).getLsbD j = true → src j < 3072 → laneOf mask j = 0xFFFFFFFF) ∧
        ((enableBits img false port).getLsbD j = false ∨ (3072 ≤ src j ∧ src j < 3968) → laneOf mask j = 0)) ∧
      laneOf v l = (if e = 1 ∧ (∃ g, og = some g ∧ g.padLane q.padr (src l % 64) = true) then padWord q p
        else laneOf (k.line (BitVec.ofNat 6 b) line) (src l % 64)) ∧
      (∀ z ∈ (t.coach s.cur.coach).en.inflight, z ∈ k.en.inflight ∨ (z.due = k.ic + 6 ∨ z.due = k.ic + 4) ∧
        ∃ (p' : BitVec 6) (m' v' : Line), z.dest = .rin p' m' v' ∧
          ∀ j < 64, (enableBits img false p'.toNat).getLsbD j = false → laneOf m' j = 0) ∧
      t.hbm = s.hbm ∧ (t.coach s.cur.coach).en.banks = k.en.banks) ∧
  (∀ (s : State) (r : BitVec 9) (p : BitVec 4) (a e : BitVec 1) (port l : Nat),
    let k := s.coach s.cur.coach
    let img := k.en.routeLine false r
    let src := fun j => readSource img (64 * port + j)
    let here := fun j => (enableBits img false port).getLsbD j = true ∧ 3072 ≤ src j ∧ src j < 3968
    r ≠ 0 → port < 54 → l < 64 → here l →
    ∃ t mask v, exec (.networkSyllable r 0 0 0 p a e) s = .next t ∧
      (∃ z ∈ (t.coach s.cur.coach).en.inflight, z.due = k.ic + 4 ∧ z.seq = s.cur.seq ∧ z.dest = .rin (BitVec.ofNat 6 port) mask v) ∧
      (∀ j < 64, (here j → laneOf mask j = 0xFFFFFFFF ∧ laneOf v j = presents s p (src j)) ∧ (¬ here j → laneOf mask j = 0)) ∧
      t.hbm = s.hbm ∧ (t.coach s.cur.coach).en.banks = k.en.banks) ∧
  ((∀ (s : State) (w : BitVec 9) (p : BitVec 4) (a e : BitVec 1) (l b : Nat) (line : BitVec 14) (m : BitVec 64),
    let k := s.coach s.cur.coach
    let img := k.en.routeLine true w
    let src := fun j => writeSource img (64 * b + j)
    w ≠ 0 → l < 64 → b < 48 → writePort k k.en.ovW img b = some (line, m) → m.getLsbD l = true → (enableBits img true b).getLsbD l = true →
    ∃ t mask v n, exec (.networkSyllable 0 w 0 0 p a e) s = .next t ∧
      (∃ z ∈ (t.coach s.cur.coach).en.inflight, z.due = k.ic + 3 ∧ z.dest = .bank (BitVec.ofNat 6 b) line mask v n) ∧
      n = src l / 64 ∧
      (∀ j < 64, laneOf mask j = if (enableBits img true b).getLsbD j = true ∧ m.getLsbD j = true ∧ src j / 64 = n then 0xFFFFFFFF else 0) ∧
      (∀ j < 64, laneOf mask j = 0xFFFFFFFF → laneOf v j = writeSourceLane k.en (src j)) ∧
      (∀ z ∈ (t.coach s.cur.coach).en.inflight, z ∈ k.en.inflight ∨ z.due = k.ic + 3 ∧
        ((∃ h m' v', z.dest = .ho h m' v') ∨
          ∃ b' < 48, ∃ (l' : BitVec 14) (m' v' : Line) (n' : Nat) (adm : BitVec 64), z.dest = .bank (BitVec.ofNat 6 b') l' m' v' n' ∧
            writePort k k.en.ovW img b' = some (l', adm) ∧
            ∀ j < 64, (enableBits img true b').getLsbD j = false ∨ adm.getLsbD j = false → laneOf m' j = 0))) ∧
  (∀ (k : Coach) (b : BitVec 6) (line : BitVec 14) (mask v : Line) (n : Nat), canon k.en.banks = true → let k' := k.landDest (.bank b line mask v n)
    (k.hasBank b = true → peek k'.en.banks (bankKey b line) = blend mask v (peek k.en.banks (bankKey b line))) ∧
    (k.hasBank b = false → k' = k) ∧ (∀ j, j ≠ bankKey b line → peek k'.en.banks j = peek k.en.banks j) ∧ k'.sq = k.sq ∧ k'.en.acc = k.en.acc))

/-- The M0 and M1 operations (R249 to R251): RD, RDC and RDI give the read route of the ic its line, WR and WRM the write
route; WAITF does nothing at its execution; RDC clears its full bit at the end of the ic and WRF sets those of its range at
the end of ic t + 3. The landing of full bits sets those of the range, modulo 16,384, or clears the one, and changes no
other full bit of any bank, no bank line and no register. -/
def Obligations.MemorySlotOperations : Prop :=
  (∀ (s : State) (b : BitVec 6) (x m : BitVec 5),
    let c := s.cur.coach
    let line := (xv s x).extractLsb' 0 14
    let ov := fun (rdi aud : Bool) => ({ bank := b, line := line, rdi := rdi, mask := BitVec.allOnes 64, aud := aud } : Override)
    exec (.waitf b x m) s = .next s ∧
    exec (.wr b x) s = .next (s.onEn c fun e => { e with ovW := some (ov false false) }) ∧
    exec (.wrm b x m) s = .next (s.onEn c fun e => { e with ovW := some { ov false false with mask := xv s m } }) ∧
    exec (.wrf b x m) s = .next (s.result c 3 0 (.full b line (min ((xv s m).extractLsb' 0 15).toNat 16384))) ∧
    ((s.coach c).en.badBank = [] → (s.coach c).en.onceBank = [] → (s.coach c).en.softBank = [] → s.cur.audit = false →
      exec (.rd b x) s = .next (s.onEn c fun e => { e with ovR := some (ov false false) }) ∧
      exec (.rdi b x) s = .next (s.onEn c fun e => { e with ovR := some (ov true false) }) ∧
      exec (.rdc b x) s = .next ((s.onEn c fun e => { e with ovR := some (ov false false) }).result c 0 0 (.clr b line)))) ∧
  (∀ (k : Coach) (b : BitVec 6) (l : BitVec 14) (n : Nat), canon k.en.full = true → k.hasBank b = true →
    (∀ j : BitVec 14, (k.landDest (.full b l n)).fullBit b j = ((List.range n).any (fun i => j = l + BitVec.ofNat 14 i) || k.fullBit b j)) ∧
    (∀ j : BitVec 14, (k.landDest (.clr b l)).fullBit b j = (decide (j ≠ l) && k.fullBit b j)) ∧
    (∀ (b' : BitVec 6) (j : BitVec 14), b' ≠ b →
      (k.landDest (.full b l n)).fullBit b' j = k.fullBit b' j ∧ (k.landDest (.clr b l)).fullBit b' j = k.fullBit b' j) ∧
    ∀ d ∈ [Dest.full b l n, .clr b l], (k.landDest d).en.banks = k.en.banks ∧ (k.landDest d).sq = k.sq ∧ (k.landDest d).en.acc = k.en.acc ∧
      (k.landDest d).en.va = k.en.va ∧ (k.landDest d).en.vb = k.en.vb ∧ (k.landDest d).en.vc = k.en.vc)

/-- RLOAD and RSAVE join the route loader's line with their entry, bank and line (R243). The loader serves the first of the line, one
line of the image an ic, 50 of a read and 26 of a write entry: an RLOAD that starts in ic a reads lines a to a + n − 1 and has its
entry switch for ic a + n + 2, an RSAVE takes the entry as it stands in ic a and writes its line i in ic a + 3 + i, and the next of the
line follows. An entry of either kind whose load is due is replaced in the ic in which ROUTE_LOAD_SWITCH runs, its control line without
the reserved bits (R240), and every other entry stays; entry 0 keeps the null image (R25). -/
def Obligations.RouteLoaderQueuesAndSwitches : Prop :=
  (∀ (s : State) (r : BitVec 9) (kd : BitVec 1) (b : BitVec 6) (x : BitVec 5) (load : Bool), s.cur.audit = false →
    exec (if load then .rload r kd b x else .rsave r kd b x) s = .next (s.onEn s.cur.coach fun e => { e with loader := e.loader ++
      [{ load := load, write := kd = 1, route := r, bank := b, line := (xv s x).extractLsb' 0 14, exec := s.icNow, start := none, i := 0,
         img := [], seq := s.cur.seq }] })) ∧
  (∀ (s : State) (sw : RouteSwitch), (s.coach s.cur.coach).en.switches = [sw] → sw.item = none → sw.due ≤ s.icNow →
    canon (s.coach s.cur.coach).en.routesR = true → canon (s.coach s.cur.coach).en.routesW = true →
    let lines := fun (w : Bool) => if w = true then 26 else 50
    let ctl := if sw.write = true then 23 else 47
    ∃ t, exec .routeLoadSwitch s = .next t ∧ (t.coach s.cur.coach).en.switches = [] ∧
      (sw.route ≠ 0 → let new := (t.coach s.cur.coach).en.routeLine sw.write sw.route
        (∀ i < lines sw.write, i ≠ ctl → new i = sw.img.getD i 0) ∧
        ∀ b, (new ctl).getLsbD b = ((sw.img.getD ctl 0).getLsbD b && decide (b < 384) && decide (b % 8 ≠ 6))) ∧
      (∀ (w : Bool) (r : BitVec 9) (i : Nat), i < lines w → w ≠ sw.write ∨ r ≠ sw.route →
        (t.coach s.cur.coach).en.routeLine w r i = (s.coach s.cur.coach).en.routeLine w r i) ∧
      (∀ (w : Bool) (i : Nat), (t.coach s.cur.coach).en.routeLine w 0 i = 0) ∧
      (t.coach s.cur.coach).en.banks = (s.coach s.cur.coach).en.banks ∧ t.hbm = s.hbm) ∧
  (∀ (s : State) (c : BitVec 3) (rest : List Task), s.agenda = .loader c :: rest →
    Sys2Proof.Machine.step s = .next (({ s with agenda := rest } : State).loaderTurn c)) ∧
  (∀ (s : State) (c : BitVec 3), (s.coach c).en.loader = [] → s.loaderTurn c = s) ∧
  (∀ (s : State) (c : BitVec 3) (o : LoadOp) (rest : List LoadOp), (s.coach c).en.loader = o :: rest →
    let k := s.coach c
    let n := if o.write = true then 26 else 50
    let a := o.start.getD k.ic
    let line := o.line + BitVec.ofNat 14 o.i
    let t := s.loaderTurn c
    let e := (t.coach c).en
    e.banks = k.en.banks ∧ e.routesR = k.en.routesR ∧ e.routesW = k.en.routesW ∧ t.hbm = s.hbm ∧
    (o.load = true → k.en.badBank = [] → k.en.onceBank = [] →
      let img := o.img ++ [k.line o.bank line]
      o.bank ∈ e.readIc ∧ e.inflight = k.en.inflight ∧
      (o.i + 1 < n → e.loader = { o with start := some a, i := o.i + 1, img := img } :: rest ∧ e.switches = k.en.switches) ∧
      (n ≤ o.i + 1 → e.loader = rest ∧ ∃ sw, e.switches = k.en.switches ++ [sw] ∧ sw.due = a + n + 2 ∧ sw.write = o.write ∧
        sw.route = o.route ∧ sw.item = none ∧ sw.img = img)) ∧
    (o.load = false →
      let img := if o.i = 0 then (List.range n).map (k.en.routeLine o.write o.route) else o.img
      e.switches = k.en.switches ∧
      (∃ z ∈ e.inflight, z.due = k.ic + 3 ∧ ∃ from_, z.dest = .bank o.bank line (BitVec.allOnes 2048) (img.getD o.i 0) from_) ∧
      (o.i + 1 < n → e.loader = { o with start := some a, i := o.i + 1, img := img } :: rest) ∧ (n ≤ o.i + 1 → e.loader = rest)))

/-! ### Commands and tokens (R295 to R318) -/

/-- Every command that issues an item completes (R203 to R205, R296, R297): one item joins the context's, with the opcode, the
consistency bits, the physical token of its name and the descriptor read as little-endian words modulo 2^18. With 256 items unposted
on its coach it has failed with status 11; with fewer it waits with status 0 where every check of its rule passes, and else has failed
with the lowest code of the checks that fail; nothing else changes. -/
def Obligations.CommandsIssueItems : Prop :=
  ∀ (s : State) (i : Instr) (maj : BitVec 6) (sub : Nat) (tk : BitVec 4) (a r : BitVec 1) (sc : BitVec 4) (d : BitVec 5) (n : Nat),
    (∀ d t c, i ≠ .mtile d t c) → commandSpec i = some (maj, sub, tk, a, r, sc, d, n) →
    let q := (s.coach s.cur.master).sq
    ∃ it : Item, exec i s = .next (s.onSq s.cur.master fun q => { q with items := q.items ++ [it], nextItem := q.nextItem + 1 }) ∧
      it.id = q.nextItem ∧ it.major = maj ∧ it.sub = BitVec.ofNat 11 sub ∧ it.tok = q.winBase + tk.zeroExtend 6 ∧
      it.acq = decide (a = 1) ∧ it.rel = decide (r = 1) ∧ it.scope = sc ∧ it.hnd = s.cur.hnd ∧
      it.coach = (if maj = 7 then s.cur.master else s.cur.coach) ∧ it.parked = false ∧ it.out = [] ∧ it.pieces = 0 ∧
      it.desc.length = n ∧
      (∀ k (h : k < it.desc.length), ∀ b < 8, (it.desc[k].extractLsb' (8 * b) 8) =
        peek q.ss (((xv s d).toNat % 2 ^ 18 / 8 * 8 + 8 * k) % 2 ^ 18 + b)) ∧
      ((it.phase = .waiting ∧ it.status = 0) ∨ (it.phase = .failed ∧ it.status ≠ 0 ∧ it.todo = [])) ∧
      (256 ≤ (q.items.filter fun o => o.coach = it.coach).length → it.status = 11) ∧
      ((q.items.filter fun o => o.coach = it.coach).length < 256 → let codes := checksSpec s maj sub it.desc
        (codes = [] → it.phase = .waiting ∧ it.status = 0) ∧
        (codes ≠ [] → it.phase = .failed ∧ it.status.toNat ∈ codes ∧ ∀ c ∈ codes, it.status.toNat ≤ c))

/-- TADV adds its operand to the token, TSET replaces count and error bit (its third form only the error bit) at the end of
the ic (R318); taking the posts of an ic applies the TSETs first and then adds every post modulo 2^24, keeping an error
(R179); tokens that no post names keep their value. A header wait is satisfied exactly when the count is at most half the
range ahead of the threshold in the low 24 bits of its register (R180). -/
def Obligations.TokensCountPosts : Prop :=
  ((∀ (s : State) (d : BitVec 5) (t : BitVec 4),
    let p := (s.coach s.cur.master).sq.winBase + t.zeroExtend 6
    let v := (xv s d).extractLsb' 0 24
    let post := fun o : TokOp => (Host.Outcome.next (s.onSq s.cur.master fun q => { q with tokOps := q.tokOps ++ [o] }) : Outcome)
    exec (.tadv d t) s = post (.add p v false) ∧ exec (.tsetSet d t) s = post (.set p (some v) false) ∧
    exec (.tsetSeterr d t) s = post (.set p (some v) true) ∧ exec (.tsetClrerr d t) s = post (.set p none false)) ∧
  (∀ (q : Seq) (t : BitVec 6),
    let mine := q.tokOps.filter fun o => match o with | .set p _ _ => decide (p = t) | .add p _ _ => decide (p = t)
    let sets := mine.filter TokOp.isSet
    let old := q.tok[t.toNat]
    let count := (sets.filterMap fun o => match o with | .set _ n _ => n | _ => none).getLast?.getD old.count
    let err := match sets.getLast? with | some (.set _ _ e) => e | _ => old.err
    (q.takePosts.tok[t.toNat]).count = count + BitVec.ofNat 24 ((mine.map fun o => match o with | .add _ n _ => n.toNat | _ => 0).sum) ∧
    (q.takePosts.tok[t.toNat]).err = (err || mine.any fun o => match o with | .add _ _ e => e | _ => false) ∧
    q.takePosts.tokOps = [] ∧ q.takePosts.x = q.x)) ∧
  (∀ (q : Seq) (b : Bundle), (syllable b 0).getLsbD 23 = true →
    let t := q.winBase + ((syllable b 0).extractLsb' 19 4).zeroExtend 6
    let thr : Nat := (xread q ((syllable b 0).extractLsb' 14 5)).toNat % 2 ^ 24
    tokenReady q b = true ↔ (((q.tok[t.toNat]).count.toNat : Int) - (thr : Int)) % 2 ^ 24 < 2 ^ 23)

/-! ### Traps, fatal causes, pre-emption and husks (R321 to R339, R68 to R73) -/

/-- Taking a trap (R327 to R329): the resume point, the cause with its member and the argument are saved, the handler runs, HNDL is
next in line 4 ics later with no loop level active, the levels are set aside, and one pending cause of that code, member and argument,
if there is one, stands no more (R322); a fetch error is counted (R371); registers, tokens, mailboxes, return stack, items, vectors,
accumulators and memories are as before. -/
def Obligations.TrapEntrySavesState : Prop :=
  ∀ (s : State) (c : BitVec 3) (cause : BitVec 8) (member : BitVec 2) (arg : Word),
    let q := (s.coach c).sq
    ∃ t, exec (.trapEntry c cause member arg) s = .next t ∧
      let q' := (t.coach c).sq
      q'.epc = BitVec.ofNat 15 q.pc ∧ q'.ecause.extractLsb' 0 8 = cause ∧ q'.ecause.extractLsb' 8 2 = member ∧ q'.earg = arg ∧
      q'.inh = true ∧ q'.earliest = (s.coach c).ic + 4 ∧ q'.loops = [] ∧ (∀ u, (s.coach c).unit = some u → q'.pc = u.hndl.toNat) ∧
      (∃ h, q'.held = some h ∧ h.loops = q.loops) ∧
      (let mine := fun (p : Pending) => p.cause = cause ∧ p.member = member ∧ p.arg = arg;
        q'.pending = q.pending ∧ (∀ p ∈ q.pending, ¬ mine p) ∨
          ∃ before p after, q.pending = before ++ p :: after ∧ mine p ∧ (∀ o ∈ before, ¬ mine o) ∧ q'.pending = before ++ after) ∧
      q'.x = q.x ∧ q'.c = q.c ∧ q'.ss = q.ss ∧ q'.tok = q.tok ∧ q'.mb = q.mb ∧ q'.rstk = q.rstk ∧ q'.items = q.items ∧
      (∀ d, (t.coach d).en.va = (s.coach d).en.va ∧ (t.coach d).en.vb = (s.coach d).en.vb ∧ (t.coach d).en.vc = (s.coach d).en.vc ∧
        (t.coach d).en.fs = (s.coach d).en.fs ∧ (t.coach d).en.acc = (s.coach d).en.acc) ∧
      t.hbm = s.hbm ∧ t.tier = s.tier ∧ t.host = s.host ∧ t.hub = s.hub ∧ t.fab = s.fab ∧ (cause ≠ 0x09 → t.plat = s.plat) ∧
      (cause = 0x09 → let n := 8 * c.toNat + 2
        t.plat = { s.plat with errors := poke s.plat.errors n (BitVec.ofNat 64 (min ((peek s.plat.errors n).toNat + 1) (2 ^ 64 - 1))) })

/-- RTT in the handler (R217, R332): its return is due at the later of three ics and HOLD after the issue and of the ic after the last
operation still to execute, and no bundle is next in line before. At the ic of the return, and not before, unless a cause that the
handler met stands (R331), the resume point is next in line with its loop levels, the handler is left, and what was set aside is put
back with its delays counted from it: the results, the skewed operations and the hitch lanes on their way, the route loader's line with
the ic in which its first operation started, the loads that have still to switch their entry, and the writes of sy.gbind, sy.gskew and
sy.audit that do not govern yet, each beside what the handler has under way; under DISC none of these is put back (R326, R330, R332). The
tiles that were stopped go on from that ic in both cases (R294). Registers and memories are as before, and the handler's items are from
then on those of an earlier bundle. -/
def Obligations.ReturnFromTrapRestores : Prop :=
  (∀ (s : State) (h : BitVec 4) (w : BitVec 1) (t : BitVec 4) (x : BitVec 5),
    let m := s.cur.master
    ∃ r, exec (.rtt h w t x) s = .next (s.onSq m fun q => { q with back := some r, earliest := r }) ∧
      (s.coach m).ic + 3 + h.toNat ≤ r ∧ (∀ d ∈ s.members m, ∀ o ∈ (s.coach d).en.skew, o.due < r) ∧
      (r = (s.coach m).ic + 3 + h.toNat ∨ ∃ d ∈ s.members m, ∃ o ∈ (s.coach d).en.skew, r = o.due + 1)) ∧
  (∀ (s : State) (m : BitVec 3) (r : Nat), (s.coach m).sq.back = some r → (s.coach m).ic < r → s.comeBack m = s) ∧
  (∀ (s : State) (m : BitVec 3) (p : Pending), (s.coach m).sq.inh = true → p ∈ (s.coach m).sq.pending → p.hnd = true → s.comeBack m = s) ∧
  (∀ (s : State) (m : BitVec 3) (r : Nat) (held : Held),
    let q := (s.coach m).sq
    let ic := (s.coach m).ic
    q.back = some r → r ≤ ic → q.inh = true → q.held = some held → (∀ p ∈ q.pending, p.hnd = false) →
    let u := s.comeBack m
    let q' := (u.coach m).sq
    q'.inh = false ∧ q'.disc = false ∧ q'.held = none ∧ q'.back = none ∧ q'.loops = held.loops ∧ q'.pc = q.epc.toNat ∧ q'.earliest = ic ∧
    q'.x = q.x ∧ q'.c = q.c ∧ q'.ss = q.ss ∧ q'.tok = q.tok ∧ q'.mb = q.mb ∧ q'.rstk = q.rstk ∧
    q'.items = q.items.map (fun it => { it with hnd := false }) ∧
    (q.disc = true → q'.gang = q.gang ∧ q'.auditNext = q.auditNext ∧ ∀ d, let e := (s.coach d).en
      (u.coach d).en.inflight = e.inflight ∧ (u.coach d).en.skew = e.skew ∧ (u.coach d).en.hitch = e.hitch ∧
      (u.coach d).en.loader = e.loader ∧ (u.coach d).en.switches = e.switches) ∧
    (q.disc = false →
      q'.auditNext = q.auditNext ++ held.audit.map (fun a => (ic + a.1, a.2)) ∧
      (∀ g, g ∈ q'.gang ↔ g ∈ q.gang ∨ ∃ h ∈ held.gang, g = { h with due := ic + h.due }) ∧
      ∀ d ∈ s.members m, let e := (s.coach d).en
        (∀ z, z ∈ (u.coach d).en.inflight ↔ z ∈ e.inflight ∨ ∃ p ∈ held.queue, p.1 = d ∧ z = { p.2 with due := ic + p.2.due }) ∧
        (∀ o, o ∈ (u.coach d).en.skew ↔ o ∈ e.skew ∨ ∃ p ∈ held.skew, p.frame.coach = d ∧ o = { p with due := ic + p.due }) ∧
        (∀ h, h ∈ (u.coach d).en.hitch ↔ h ∈ e.hitch ∨ ∃ p ∈ held.hitch, p.1 = d ∧ h = { p.2 with due := ic + p.2.due }) ∧
        (u.coach d).en.loader = ((held.loader.filter fun p => p.1 = d).map fun p => { p.2 with start := p.2.start.map fun k => ic - k }) ++ e.loader ∧
        (u.coach d).en.switches = ((held.switches.filter fun p => p.1 = d).map fun p => { p.2 with due := ic + p.2.due }) ++ e.switches) ∧
    (∀ d ∈ s.members m, (u.coach d).en.tiles = (s.coach d).en.tiles.map fun tl =>
      if tl.stopped = true then { tl with stopped := false, base := ic - tl.next } else tl) ∧
    (∀ d, (u.coach d).en.va = (s.coach d).en.va ∧ (u.coach d).en.vb = (s.coach d).en.vb ∧ (u.coach d).en.vc = (s.coach d).en.vc ∧
      (u.coach d).en.fs = (s.coach d).en.fs ∧ (u.coach d).en.acc = (s.coach d).en.acc ∧ (u.coach d).en.banks = (s.coach d).en.banks ∧
      (u.coach d).en.fflag = (s.coach d).en.fflag) ∧
    u.hbm = s.hbm ∧ u.tier = s.tier ∧ u.host = s.host ∧ u.hub = s.hub)

/-- A fatal cause, the stall watchdog's 0x21 among them (R70, R333, R334): the context is dead with the cause, without a handler; its
items, pending causes and set-aside state are dropped, and so is everything its members have under way but accepted lines and the
solves that have been accepted, which still switch their entries (R74, R248); an event of kind 1 names coach, context and cause; cause
0x22 scrubs the members' reserved banks; a context that has died stays as it is. -/
def Obligations.FatalCausesEndContexts : Prop :=
  ∀ (s : State) (i : Instr) (c : BitVec 3) (cause : BitVec 8) (u : Sys2Proof.Machine.Unit),
    i = .fatalContextError c cause ∨ (i = .stallWatchdogExpiry ∧ c = s.cur.coach ∧ cause = 0x21) →
    (s.coach c).unit = some u →
    ((∃ x, (s.coach c).sq.phase = .dead x) → exec i s = .next s) ∧
    ((∀ x, (s.coach c).sq.phase ≠ .dead x) →
      ∃ t, exec i s = .next t ∧ (t.coach c).sq.phase = .dead cause ∧ (t.coach c).sq.items = [] ∧ (t.coach c).sq.pending = [] ∧
        (t.coach c).sq.held = none ∧ (t.coach c).sq.x = (s.coach c).sq.x ∧ (t.coach c).unit = some u ∧
        (∀ d ∈ s.members c, (t.coach d).en.inflight = [] ∧ (t.coach d).en.skew = [] ∧ (t.coach d).en.tiles = [] ∧
          (t.coach d).en.hitch = [] ∧ (t.coach d).en.loader = [] ∧
          (t.coach d).en.engq = (s.coach d).en.engq ∧ (t.coach d).en.switches = (s.coach d).en.switches.filter (fun w => w.item.isSome) ∧
          (cause = 0x22 → ∀ key, (s.coach d).hasBank (BitVec.ofNat 6 (key / 16384)) = true → peek (t.coach d).en.banks key = 0) ∧
          (cause ≠ 0x22 → (t.coach d).en.banks = (s.coach d).en.banks ∧ (t.coach d).en.acc = (s.coach d).en.acc)) ∧
        (s.plat.events.length < 256 → ∃ e, t.plat.events.getLast? = some e ∧ e.1.extractLsb' 0 8 = 1 ∧ e.1.extractLsb' 8 3 = c ∧
          e.1.extractLsb' 16 12 = u.ctx ∧ e.2.1.extractLsb' 0 8 = cause) ∧
        t.hbm = s.hbm ∧ t.tier = s.tier ∧ t.host = s.host ∧ t.hub = s.hub)

/-- Requests (R68, R69, R73): a first request or the expiry of a unit's slice stands on the running unit with its time, and a
cancel joins one that stands; its expiry makes it hard, which ends a cancelled unit still pinning; a unit that has exited or
died takes none; a draining context parks its items once its results have landed (R335). Nothing else changes. -/
def Obligations.PreemptionRequests : Prop :=
  ∀ (s : State) (c : BitVec 3) (cancel : Bool) (u : Sys2Proof.Machine.Unit), (s.coach c).unit = some u →
    let q := (s.coach c).sq
    let set := fun (p : Preempt) => s.onSq c fun q => { q with preempt := some p }
    ((q.phase = .exited ∨ ∃ x, q.phase = .dead x) → exec (.preemptRequest c cancel) s = .next s) ∧
    (q.phase ≠ .exited → (∀ x, q.phase ≠ .dead x) → q.preempt = none →
      exec (.preemptRequest c cancel) s = .next (set { hard := false, cancel := cancel, stamp := s.now }) ∧
      exec (.sliceExpiry c u.ctx u.since) s = .next (set { hard := false, cancel := false, stamp := s.now })) ∧
    (∀ p, q.phase ≠ .exited → (∀ x, q.phase ≠ .dead x) → q.preempt = some p →
      exec (.preemptRequest c cancel) s = .next (set { p with cancel := p.cancel || cancel })) ∧
    (∀ p, q.preempt = some p → ((∀ f, q.phase ≠ .pinning f) ∨ p.cancel = false) → exec (.pdeadExpiry c u.ctx p.stamp) s = .next (set { p with hard := true })) ∧
    (∀ p f, q.preempt = some p → q.phase = .pinning f → p.cancel = true → exec (.pdeadExpiry c u.ctx p.stamp) s =
      .next (s.onSq c fun q => { q with preempt := some { p with hard := true }, phase := .parking true })) ∧
    (∀ h, s.cur.coach = c → q.phase = .draining h → exec .softYield s = .next (s.onSq c fun q => { q with phase := .parking false }))

/-- HUSK_SAVE of a context that is not cancelled (R335, R336, R339): the husk joins the others with the unit and, per member, its
registers, scalar store, tokens, mailboxes, return stack, items, the three clusters with their vector registers, masks and generators,
staging registers, accumulators, route entries and, frozen hard, its reserved banks; the place is free. HUSK_RESUME (R338), the code
image standing in HBM without an error: the first member's registers and stores stand on its master again and each member's clusters,
staging registers, accumulators, route entries and kept banks on its coach, the bundle next in line is due later than the ic that the
place now counts, and the husk is gone. The bytes of a husk keep their canonical form. -/
def Obligations.HusksSaveAndResume : Prop :=
  (∀ (s : State) (u : Sys2Proof.Machine.Unit), (s.coach s.cur.coach).unit = some u →
    (∀ p, (s.coach s.cur.coach).sq.preempt = some p → p.cancel = false) →
    ∃ (t : State) (husk : Husk), exec .huskSave s = .next t ∧ t.hub.husks = s.hub.husks ++ [husk] ∧ husk.unit = u ∧ husk.bad = false ∧ canon husk.image = true ∧
      husk.saved.length = (s.members s.cur.coach).length ∧
      (∀ d ∈ s.members s.cur.coach, (t.coach d).unit = none) ∧
      (∀ (i : Nat) (d : BitVec 3), (s.members s.cur.coach)[i]? = some d → ∃ k : Coach, (husk.saved[i]? : Option Coach) = some k ∧
        k.sq.x = (s.coach d).sq.x ∧ k.sq.c = (s.coach d).sq.c ∧ k.sq.pc = (s.coach d).sq.pc ∧ k.sq.ss = (s.coach d).sq.ss ∧
        k.sq.tok = (s.coach d).sq.tok ∧ k.sq.mb = (s.coach d).sq.mb ∧ k.sq.rstk = (s.coach d).sq.rstk ∧ k.sq.items = (s.coach d).sq.items ∧
        k.en.va = (s.coach d).en.va ∧ k.en.vb = (s.coach d).en.vb ∧ k.en.vc = (s.coach d).en.vc ∧ k.en.fs = (s.coach d).en.fs ∧
        k.en.acc = (s.coach d).en.acc ∧ k.en.routesR = (s.coach d).en.routesR ∧ k.en.routesW = (s.coach d).en.routesW ∧
        (husk.hard = true → (∀ e ∈ (s.coach d).en.banks, (s.coach d).hasBank (BitVec.ofNat 6 (e.1 / 16384)) = true) →
          k.en.banks = (s.coach d).en.banks)) ∧
      t.hbm = s.hbm ∧ t.tier = s.tier ∧ t.host = s.host) ∧
  (∀ (s : State) (u : Sys2Proof.Machine.Unit) (p : Preempt), (s.coach s.cur.coach).unit = some u →
    (s.coach s.cur.coach).sq.preempt = some p → p.cancel = true →
    exec .huskSave s = .next ((s.onSq s.cur.coach fun q => { q with items := [] }).soon s.cur.coach (.unitRetire s.cur.coach 4))) ∧
  (∀ (s : State) (c : BitVec 3) (ctx : BitVec 12) (h : Husk) (k : Coach) (ks : List Coach),
    s.hub.husks.find? (fun h => h.unit.ctx = ctx && h.unit.master = c) = some h → h.bad = false → h.saved = k :: ks →
    (∀ i < 16 * (h.unit.klen + 1), ∃ hpa page, s.hubPlace h.unit.job ((h.unit.kaddr.toNat + 4 * i) % 2 ^ 56) true false = .ok (.hbm hpa, page)) →
    s.badHbm = [] → s.softHbm = [] →
    ∃ t, exec (.huskResume c ctx) s = .next t ∧ t.hub.husks = s.hub.husks.filter (fun o => o.unit.ctx ≠ ctx) ∧
      (t.coach c).sq.phase = .running ∧ (t.coach c).sq.preempt = none ∧ (t.coach c).ic < (t.coach c).sq.earliest ∧
      (s.coach c).ic ≤ (t.coach c).ic ∧ (t.coach c).sq.pc = k.sq.pc ∧ (t.coach c).sq.x = k.sq.x ∧ (t.coach c).sq.c = k.sq.c ∧
      (t.coach c).sq.ss = k.sq.ss ∧ (t.coach c).sq.tok = k.sq.tok ∧ (t.coach c).sq.mb = k.sq.mb ∧ (t.coach c).sq.rstk = k.sq.rstk ∧
      (t.coach c).sq.loops = k.sq.loops ∧
      (∀ (i : Nat) (o : Coach), i < (if h.unit.gsize = 1 then 2 else if h.unit.gsize = 2 then 4 else 1) → h.saved[i]? = some o →
        let e := (t.coach (c + BitVec.ofNat 3 i)).en
        e.va = o.en.va ∧ e.vb = o.en.vb ∧ e.vc = o.en.vc ∧ e.fs = o.en.fs ∧ e.acc = o.en.acc ∧ e.banks = o.en.banks ∧
        e.routesR = o.en.routesR ∧ e.routesW = o.en.routesW) ∧
      t.hbm = s.hbm ∧ t.tier = s.tier ∧ t.host = s.host)

/-! ### The scheduler (R44 to R77) -/

/-- The life of a launch. UNIT_RETIRE frees the place, writes the status byte when the record has a status area and counts the
unit under its status, with the first failure's index and cause (R52, R53). LAUNCH_DISPATCH_BEGIN reads a record without a range list
once and takes it, or refuses one that fails its checks with QERR's RFS bit (R49, R50). LAUNCH_COMPLETE merges what its units wrote
through views, writes the status area at SADDR, performs the completion action, counts up the levels, reports what failed in QERR, and
passes QHEAD over the completed launches when the launch leads its queue (R47, R52, R62, R66). Each waits while a page that it accesses is on the
move or an Ethernet port may not send what it accesses (R359, R385). That a launch keeps the job of its submission, that one refused for an unused graph entry counts in
none, and what a draw that waits leaves, is the model's choice (logs 25, 43, 56, 57). LOTTERY_DRAW with one eligible queue steps LSEED
once, unless a deficit of 1,024 or more forces it, zeroes the winner's deficit and resumes its husk, or places its next unit (R57,
R65). -/
def Obligations.LaunchesRun : Prop :=
  (∀ (s : State) (c : BitVec 3) (st : BitVec 8) (u : Sys2Proof.Machine.Unit) (l : Launch), (s.coach c).unit = some u →
    s.hub.launch u.queue u.slot = some l →
    (s.statusHeld l u.lin 1 = true → exec (.unitRetire c st) s = .next s) ∧
    (s.statusHeld l u.lin 1 = false →
      let area := l.fld 448 56
      let w := if area = 0 then (true, s) else (s.vacate c false).hubWriteBytes l.job ((area + 32 + u.lin) % 2 ^ 56) 1 st.toNat
      ∃ t l', exec (.unitRetire c st) s = .next t ∧ (∀ d ∈ s.members c, (t.coach d).unit = none) ∧
        t.hbm = w.2.hbm ∧ t.tier = w.2.tier ∧ t.host = w.2.host ∧
        (t.hub.queue u.queue).err = (if w.1 = true then (s.hub.queue u.queue).err else setBit (s.hub.queue u.queue).err 5 true) ∧
        t.hub.launch u.queue u.slot = some l' ∧ l'.gone = l.gone + 1 ∧ l'.next = l.next ∧
        l'.exited = l.exited + (if st = 1 then 1 else 0) ∧ l'.failed = l.failed + (if st = 2 then 1 else 0) ∧
        l'.cancelledN = l.cancelledN + (if st = 3 ∨ st = 4 then 1 else 0) ∧
        l'.first = (if st = 2 ∧ l.failed = 0 then
          BitVec.ofNat 64 (u.lin % 2 ^ 48 + (match (s.coach c).sq.phase with | .dead x => x.toNat | _ => 0) * 2 ^ 48) else l.first))) ∧
  (∀ (s : State) (q : BitVec 6) (slot : BitVec 32) (l : Launch) (w : List Lane), s.hub.launch q slot = some l → l.began = false →
    l.complete = false → s.hubHeld (s.hub.queue q).job ((s.hub.queue q).slotAddr slot) 64 false = false →
    s.hubRead (s.hub.queue q).job ((s.hub.queue q).slotAddr slot) 16 = (some w, s) →
    let l1 : Launch := { l with began := true, words := BitVec.ofNat 512 (natOfLanes w) }
    l1.fld 320 56 = 0 →
    (l1.bad s.hub = false → l.cancelled = false → l.ranges = [] →
      exec (.launchDispatchBegin q slot) s = .next (s.onLaunch q slot fun _ => l1)) ∧
    (l1.bad s.hub = true → exec (.launchDispatchBegin q slot) s = .next ((s.onLaunch q slot fun _ =>
        { l1 with refused := true, uncounted := !(s.hub.level l1.gid.toNat).getLsbD 76 }).onQueue q
      fun r => { r with err := setBit r.err 2 true }))) ∧
  (∀ (s : State) (q : BitVec 6) (slot : BitVec 32) (l : Launch), s.hub.launch q slot = some l → l.spent = true → l.complete = false →
    (s.completionHeld l = true → exec (.launchComplete q slot) s = .next s) ∧
    (s.completionHeld l = false →
      let s0 := s.mergeViews fun w => w.launch = some (q, slot)
      let w1 := if l.fld 448 56 = 0 then (true, s0) else s0.hubWriteBytes l.job (l.fld 448 56) 32
        (if l.refused then 2 ^ 63 * 2 ^ 192 else l.exited + l.failed * 2 ^ 64 + l.cancelledN * 2 ^ 128 + l.first.toNat * 2 ^ 192)
      let w2 := w1.2.completion l
      let ch := if l.uncounted = true then [] else s.hub.chain l.gid.toNat
      ∃ t, exec (.launchComplete q slot) s = .next t ∧ t.hbm = w2.2.hbm ∧ t.tier = w2.2.tier ∧ t.host = w2.2.host ∧
        t.hub.levels = (let h := countUp s.hub ch
          if l.refused = true ∨ 0 < l.failed then failUp h ch else h).levels ∧
        (t.hub.queue q).err = (let e := (w2.2.hub.queue q).err
          let e := if w1.1 = true ∧ w2.1 = true then e else setBit e 5 true
          if 0 < l.failed then setBit e 3 true else e) ∧
        (∀ (d r : List Launch), ((s.hub.launches.filter fun o => o.queue = q).map (·.slot)).Nodup →
          s.hub.launches.filter (fun o => o.queue = q) = l :: (d ++ r) → (∀ o ∈ d, o.complete = true) →
          (∀ o, r.head? = some o → o.complete = false) →
          t.hub.launches.filter (fun o => o.queue = q) = r ∧ (t.hub.queue q).head = ((d.getLast?.map (·.slot)).getD slot) + 1) ∧
        (∀ o, s.hub.launches.find? (fun o => o.queue = q) = some o → o.slot ≠ slot → o.complete = false →
          (t.hub.queue q).head = (s.hub.queue q).head ∧ t.hub.launch q slot = some { l with complete := true }))) ∧
  (∀ (s : State) (m g lev : Nat) (q : BitVec 6) (ctx : BitVec 12), s.drawPlace = some (m, g, [(q, lev, .husk ctx)]) →
    0 < (s.hub.queue q).tickets →
    exec .lotteryDraw s = .next (if s.dispatchHeld q (.husk ctx) = true then s
      else (({ s with hub := { s.hub with lseed := seedAfter s.hub q } } : State).onQueue q fun r => { r with deficit := 0 }).soon
        (BitVec.ofNat 3 m) (.huskResume (BitVec.ofNat 3 m) ctx))) ∧
  (∀ (s : State) (m g lev : Nat) (q : BitVec 6) (slot : BitVec 32) (l : Launch), s.drawPlace = some (m, g, [(q, lev, .unit slot)]) →
    s.hub.launch q slot = some l → 0 < (s.hub.queue q).tickets →
    (s.dispatchHeld q (.unit slot) = true → exec .lotteryDraw s = .next s) ∧
    (s.dispatchHeld q (.unit slot) = false →
      ∃ t u, exec .lotteryDraw s = .next t ∧ (t.coach (BitVec.ofNat 3 m)).unit = some u ∧ u.queue = q ∧ u.slot = slot ∧
        u.job = l.job ∧ u.lin = l.linear (l.coords l.next) ∧ u.master = BitVec.ofNat 3 m ∧ u.ctx = s.freeCtx ∧
        t.hub.lseed = seedAfter s.hub q ∧ (t.hub.queue q).deficit = 0))

/-- What a completed launch counts and does. In the levels from its graph entry upward COUNT grows by 1, DONE is set where it reaches
a TARGET that is not 0, and only then the parent counts; FAILED grows by 1 in each; an entry with VALID = 0 changes nothing and passes
nothing on; no other bit of any entry changes (R45, R47; that a PARENT which names no entry ends the chain is the model's choice, log
56). CKIND 1 adds 1 to the 64-bit cell at CTGT (R66). CKIND 2 reads DVAs one after another from CTGT on and decrements DEPS of the
record that each names, or sets QERR's UND bit where DEPS is 0 (R51, R66). These are said of HBM that holds no error; no other byte
of it changes. -/
def Obligations.CompletionsCountAndAct : Prop :=
  (∀ (h : Hub) (g : Nat), g < 4096 → canon h.levels = true →
    let par := fun (k : Nat) => ((peek h.levels k).extractLsb' 64 12).toNat
    let ch := g :: if par g < 1024 then (4096 + par g) :: if par (4096 + par g) < 256 then [5120 + par (4096 + par g)] else [] else []
    let up := countUp h ch
    let bad := failUp h ch
    h.chain g = ch ∧ up = { h with levels := up.levels } ∧ bad = { h with levels := bad.levels } ∧
    ∀ k, let e := peek h.levels k
      (let n := peek up.levels k
       let counts : Prop := passedTo h ch (fun o => doneBy o = true) k ∧ e.getLsbD 76 = true
       (¬ counts → n = e) ∧ (counts → n.extractLsb' 0 32 = e.extractLsb' 0 32 + 1 ∧ n.getLsbD 77 = (e.getLsbD 77 || doneBy e) ∧
         ∀ b, 32 ≤ b → b ≠ 77 → n.getLsbD b = e.getLsbD b)) ∧
      (let n := peek bad.levels k
       let counts : Prop := passedTo h ch (fun o => o.getLsbD 76 = true) k ∧ e.getLsbD 76 = true
       (¬ counts → n = e) ∧ (counts → n.extractLsb' 80 32 = e.extractLsb' 80 32 + 1 ∧
         ∀ b, b < 80 ∨ 112 ≤ b → n.getLsbD b = e.getLsbD b))) ∧
  (∀ (s : State) (l : Launch) (p : Nat → Nat), s.badHbm = [] → s.softHbm = [] → s.viewLog = [] → Memory.wf s.hbm = true →
    let a := l.fld 384 56
    l.fld 440 2 = 1 → inHbm s l.job a 8 false p → inHbm s l.job a 8 true p →
    ∃ t, s.completion l = (true, t) ∧ t.hub = s.hub ∧ t.tier = s.tier ∧ t.host = s.host ∧ cellOf t p a 8 = (cellOf s p a 8 + 1) % 2 ^ 64 ∧
      ∀ k, (∀ i < 8, k ≠ cellKey s p a i) → peek t.hbm k = peek s.hbm k) ∧
  (∀ (s : State) (l : Launch) (p r : Nat → Nat), s.badHbm = [] → s.softHbm = [] → s.viewLog = [] → Memory.wf s.hbm = true →
    let a := l.fld 384 56
    l.fld 440 2 = 2 → l.fld 442 6 = 1 → inHbm s l.job a 8 false p →
    let d := (cellOf s p a 8 % 2 ^ 56 + 36) % 2 ^ 56
    inHbm s l.job d 4 false r → inHbm s l.job d 4 true r →
    let v := cellOf s r d 4
    (v / 2 ^ 9 % 65536 = 0 → s.completion l = (true, s.onQueue l.queue fun q => { q with err := setBit q.err 1 true })) ∧
    (v / 2 ^ 9 % 65536 ≠ 0 → ∃ t, s.completion l = (true, t) ∧ t.hub = s.hub ∧ t.tier = s.tier ∧ t.host = s.host ∧
      cellOf t r d 4 = v - 2 ^ 9 ∧ ∀ k, (∀ i < 4, k ≠ cellKey s r d i) → peek t.hbm k = peek s.hbm k)) ∧
  (∀ (s : State) (l : Launch), l.fld 440 2 = 2 → s.completion l = s.decList l.queue l.job (l.fld 384 56) (l.fld 442 6)) ∧
  (∀ (s : State) (q : BitVec 6) (job : BitVec 8) (a n : Nat), s.decList q job a 0 = (true, s) ∧
    s.decList q job a (n + 1) = (let x := s.decList q job a 1
      let y := x.2.decList q job ((a + 8) % 2 ^ 56) n
      (x.1 && y.1, y.2)))

/-- Writes of the scheduler's registers: QTAIL submits the slots up to it, or sets OVF where the ring has no room (R61); CANCEL
refuses, or is busy with every launch under its target cancelled (R72, R73); SCTL starts and halts dispatch, but not in
SAFE (R64, R369); LSEED stores 1 for 0 (R64); NMODE refuses with ERR, keeps the mode that stands, or takes the mode and is
busy until the change completes (R40, R41). -/
def Obligations.SchedulerWrites : Prop :=
  (∀ (s : State) (q : BitVec 6) (v : Word),
    let r := s.hub.queue q
    let n : BitVec 32 := v.truncate 32
    let fits : Prop := 4 ≤ r.lsize ∧ r.lsize ≤ 16 ∧ (n - r.head).toNat ≤ 2 ^ r.lsize ∧ (n - r.tail).toNat ≤ 2 ^ r.lsize
    (¬ fits → exec (.qtailWrite q v) s = .next (s.onQueue q fun r => { r with err := setBit r.err 0 true })) ∧
    (fits → ∃ t ls, exec (.qtailWrite q v) s = .next t ∧ (t.hub.queue q).tail = n ∧ t.hub.launches = s.hub.launches ++ ls ∧
      ls.map (fun l => (l.queue, l.slot, l.began)) = (List.range (n - r.tail).toNat).map fun i => (q, r.tail + BitVec.ofNat 32 i, false))) ∧
  (∀ (s : State) (v : Word),
    let lev := (v.extractLsb' 0 2).toNat
    let q : BitVec 6 := v.extractLsb' 2 6
    let n := (v.extractLsb' 8 12).toNat
    let slot : BitVec 32 := v.extractLsb' 20 32
    let r := s.hub.queue q
    let refused : Prop := s.hub.cancelBusy = true ∨ v.extractLsb' 52 12 ≠ 0 ∨ (lev = 2 ∧ 1023 < n) ∨ (lev = 3 ∧ 255 < n) ∨
      (lev = 0 ∧ (r.tail - r.head).toNat ≤ (slot - r.head).toNat)
    (refused → exec (.cancelWrite v) s = .next { s with hub := { s.hub with cancelErr := true } }) ∧
    (¬ refused → ∃ t, exec (.cancelWrite v) s = .next t ∧ t.hub.cancelBusy = true ∧
      ∀ l ∈ t.hub.launches, l.complete = false →
        (lev = 0 ∧ l.queue = q ∧ l.slot = slot ∨
          lev ≠ 0 ∧ (if lev = 1 then graphKey n else if lev = 2 then phaseKey n else jobKey n) ∈ s.hub.chain l.gid.toNat) →
        l.cancelled = true)) ∧
  (∀ (s : State) (v : Word), exec (.sctlWrite v) s = .next (if s.plat.safe = true then s else { s with hub := { s.hub with run := v.getLsbD 0 } }) ∧
    exec (.lseedWrite v) s = .next { s with hub := { s.hub with lseed := if v.extractLsb' 0 32 = 0 then 1 else v.extractLsb' 0 32 } }) ∧
  (∀ (s : State) (v : Word), v.getLsbD 6 = false →
    let new := v.extractLsb' 0 2
    (new = s.hub.mode → exec (.nmodeWrite v) s = .next s) ∧
    (new ≠ s.hub.mode → (new = 3 ∨ s.hub.modeBusy = true ∨ s.contexts ≠ [] ∨ s.hub.run = true) →
      exec (.nmodeWrite v) s = .next { s with hub := { s.hub with modeErr := true } }) ∧
    (new ≠ s.hub.mode → new ≠ 3 → s.hub.modeBusy = false → s.contexts = [] → s.dispatchIdle = true →
      ∃ t d, exec (.nmodeWrite v) s = .next t ∧ t.hub.mode = new ∧ t.hub.modeBusy = true ∧
        (s.now + 5 * (d + 1), 0, Instr.modeChangeComplete) ∈ t.timers)) ∧
  (∀ s : State, exec .modeChangeComplete s = .next { s with hub := { s.hub with modeBusy := false } })

/-! ### Pages, faults, refresh and beats (R110 to R128, R147 to R149) -/

/-- The hub's pages and its fault buffer: FBFLUSH starts a new generation, the recorded items resume or, denied, fail with
status 10 and their cause (R112); that a denied record fails every parked item whose page, context and access it names, a second
item that shares the record included, is the model's choice (log 54). FBDENY marks its record (R112); a thrash hold ends with its
count at zero (R116). An expansion and a migration leave the list of moves with the page's bytes, each at its offset, at the place kept
for it and the leaf naming it, where that place is still free and, for a migration, the page is neither pinned nor held by its HPA
(R103, R108, R114, R126); which pages are held so, and that a move ends at its kept place only while that is free, are the model's choice (logs
15, 63), and so is the free value of a word that could not be read at the second attempt (log 66). A compressed page that another host's write has harmed stays where it is, and so does a page pinned in the
meantime (R108, R126). A word that another host writes stands in the tier, or under a compressed page is lost or harms it (R126); the
timeout merges every view write of its item (R149). -/
def Obligations.PagesAndFaultBuffer : Prop :=
  (∀ (s : State) (v : Word), v.getLsbD 0 = false → exec (.fbflushWrite v) s = .next s) ∧
  (∀ (s : State) (v : Word), v.getLsbD 0 = true → ∃ t, exec (.fbflushWrite v) s = .next t ∧ t.hub.fbgen = s.hub.fbgen + 1 ∧
    ∀ (c : BitVec 3) (u : Sys2Proof.Machine.Unit), (s.coach c).unit = some u → (∀ f, (s.coach c).sq.phase ≠ .pinning f) →
      ∀ (i : Nat) (it : Item), (s.coach c).sq.items[i]? = some it → ∃ it' : Item, (t.coach c).sq.items[i]? = some it' ∧
        (it.phase ≠ .fault → it' = it) ∧
        (it.phase = .fault → s.hub.deniedFor it.faultPage u.ctx (probeAcc it) = none → it' = { it with phase := .running }) ∧
        (∀ k, it.phase = .fault → s.hub.deniedFor it.faultPage u.ctx (probeAcc it) = some k →
          it'.phase = .failed ∧ it'.status = 10 ∧ it'.subc = k)) ∧
  (∀ (s : State) (v : Word),
    let recs := s.hub.fbrecs.map fun r : FaultRec =>
      if r.idx = v.extractLsb' 0 32 ∧ r.gen = s.hub.fbgen then { r with denied := true } else r
    exec (.fbdenyWrite v) s = .next { s with hub := { s.hub with fbrecs := recs } }) ∧
  (∀ (s : State) (page : Nat),
    let moves := ({ page := page, times := [], held := false } : PageMoves) :: s.hub.moves.filter fun o => o.page ≠ page
    exec (.thrashHoldExpiry page) s = .next { s with hub := { s.hub with moves := moves } }) ∧
  (∀ (s : State) (page : Nat) (m : PageMove) (l : Leaf), s.hub.expanding.find? (fun m => m.page = page) = some m →
    s.walk (s.hub.job m.job).root.toNat (page % 2 ^ 56) = .ok l → l.kind = 1 → l.size = 16 → m.size = 16 →
    let s1 : State := { s with hub := { s.hub with expanding := s.hub.expanding.filter fun e => e.page ≠ page } }
    (s.hub.hurtAt l.tgt = true → exec (.pageExpansion page) s = .next s1) ∧
    (s.hub.hurtAt l.tgt = false → s1.hpaFree m.dest 65536 = true →
      ∃ t, exec (.pageExpansion page) s = .next t ∧ t.hub.expanding = s1.hub.expanding ∧
        t.hub.compressed = s.hub.compressed.filter (fun c => c.page ≠ l.tgt) ∧ t.tier = s.tier ∧
        t.hbm = ((s1.hbmFill m.dest 65536 (s1.tierContents l.tgt 65536).1).remap l 0 m.dest).hbm)) ∧
  (∀ (s : State) (page : Nat) (m : PageMove) (l : Leaf), s.hub.moving.find? (fun m => m.page = page) = some m →
    s.walk (s.hub.job m.job).root.toNat (page % 2 ^ 56) = .ok l → l.kind ≤ 1 → l.size = m.size →
    let s1 : State := { s with hub := { s.hub with moving := s.hub.moving.filter fun e => e.page ≠ page } }
    (s.pinnedLeaf l = true ∨ s.anchored l = true ∨ (l.kind = 1 ∧ s.hub.hurtAt l.tgt = true) →
      exec (.pageMigrationComplete page) s = .next s1) ∧
    (s.pinnedLeaf l = false → s.anchored l = false → (l.kind = 1 → s.hub.hurtAt l.tgt = false) → s1.hpaFree m.dest (2 ^ m.size) = true →
      ∃ t, exec (.pageMigrationComplete page) s = .next t ∧ t.hub.moving = s1.hub.moving ∧ t.tier = s.tier ∧
        (l.kind = 0 → t.hub.compressed = s.hub.compressed ∧
          t.hbm = ((s1.hbmFill m.dest (2 ^ l.size) (s1.hbmContents l.tgt (2 ^ l.size)).1).remap l 0 m.dest).hbm) ∧
        (l.kind = 1 → t.hub.compressed = s.hub.compressed.filter (fun c => c.page ≠ l.tgt) ∧
          t.hbm = ((s1.hbmFill m.dest (2 ^ l.size) (s1.tierContents l.tgt (2 ^ l.size)).1).remap l 0 m.dest).hbm))) ∧
  (∀ (s : State) (d a n : Nat), d + n ≤ 2 ^ 39 → a + n ≤ 2 ^ 39 → Memory.wf s.hbm = true → Memory.wf s.tier = true →
    let key := fun (h : Nat) => hbmKey s.hub.mode h
    let u := s.hbmFill d n (s.tierContents a n).1
    let v := s.hbmFill d n (s.hbmContents a n).1
    ((∀ b ∈ s.badTier, b.2 = true) → ∀ o < n, peek u.hbm (key (d + o)) = peek s.tier (a + o)) ∧
    ((∀ b ∈ s.badHbm, b.2 = true) → ∀ o < n, peek v.hbm (key (d + o)) = peek s.hbm (key (a + o))) ∧
    ∀ k < 2 ^ 39, (∀ o < n, k ≠ key (d + o)) → peek u.hbm k = peek s.hbm k ∧ peek v.hbm k = peek s.hbm k) ∧
  (∀ (s : State) (a : BitVec 43) (v : Lane),
    let k := a.toNat / 4 * 4
    (s.hub.compressedAt k = none → Memory.wf s.tier = true → ∃ t, exec (.otherHostTierWrite a v) s = .next t ∧ t.hbm = s.hbm ∧ t.hub = s.hub ∧
      (∀ j < 4, peek t.tier (k + j) = v.extractLsb' (8 * j) 8) ∧ ∀ p, (p < k ∨ k + 4 ≤ p) → peek t.tier p = peek s.tier p) ∧
    (∀ c, s.hub.compressedAt k = some c → ∃ t, exec (.otherHostTierWrite a v) s = .next t ∧ t.tier = s.tier ∧ t.hbm = s.hbm ∧
      (t.hub = s.hub ∨ ∀ o ∈ t.hub.compressed, o.page = c.page → o.hurt = true))) ∧
  (∀ (s : State) (id : Nat), ∃ t, exec (.viewMergeTimeout id) s = .next t ∧ (∀ w ∈ t.viewLog, w.item = id → w.merged.isSome = true) ∧
    t.viewLog.length = s.viewLog.length ∧ t.tier = s.tier ∧ t.host = s.host ∧ t.hub = s.hub)

/-- Refresh (R128): each heartbeat arms the next; the core's second missed one in a row sets the takeover, heartbeats in a row
with REL give refresh back; a takeover owns, counts and posts an event of kind 2; REL written 1 stands until the engine that owns
gives refresh back, at once when enough heartbeats have come (when REL ends, and when it may stand, is log 34's choice). Beats:
a package beat counts in PBEAT and arms the next (R147), takes its own pod beat after 2.048 µs, and loses the source's
after 8.192 µs (R356); a pod beat is taken when it is newer, goes into every laneset that is up, switches a calendar
that is due, and at a multiple of 512 ends a correction window and refreshes the ageing records (R346, R349, R350, R356). When the
beats, heartbeats and windows fall is the model's choice (logs 27, 40). -/
def Obligations.RefreshAndBeats : Prop :=
  (∀ (s : State) (k : BitVec 3), let r := s.hub.stk k
    ∃ t, exec (.refreshHeartbeat k) s = .next t ∧ (s.now + 17550, 0, Instr.refreshHeartbeat k) ∈ t.timers ∧
      (r.owner = false → (t.hub.stk k).owner = false ∧ ((t.hub.stk k).missed = 0 ∨ ((t.hub.stk k).missed = r.missed + 1 ∧
        (r.missed = 1 → ∃ d < 35100, (s.now + d + 1, 0, Instr.refreshTakeover k) ∈ t.timers)))) ∧
      (r.owner = true → t.hub.stk k = { r with beats := 0 } ∨ (r.rel = true ∧ 3 ≤ r.beats ∧ (t.hub.stk k).owner = false) ∨
        ((r.rel = false ∨ r.beats < 3) ∧ t.hub.stk k = { r with beats := r.beats + 1 }))) ∧
  (∀ (s : State) (k : BitVec 3), ∃ t, exec (.refreshTakeover k) s = .next t ∧
    t.hub.stk k = { owner := true, takes := (s.hub.stk k).takes + 1, rel := false, beats := 0, missed := 0 } ∧
    (s.plat.events.length < 256 → ∃ e, t.plat.events = s.plat.events ++ [e] ∧ e.1.extractLsb' 0 8 = 2 ∧ e.1.extractLsb' 8 8 = k.zeroExtend 8)) ∧
  (∀ (s : State) (k : BitVec 3) (v : Word), (v.getLsbD 16 = false → exec (.stkrefRelWrite k v) s = .next s) ∧
    (v.getLsbD 16 = true → ∃ t, exec (.stkrefRelWrite k v) s = .next t ∧
      ((s.hub.stk k).owner = false ∨ (s.hub.stk k).beats < 4 → t.hub.stk k = { s.hub.stk k with rel := true }) ∧
      ((s.hub.stk k).owner = true → 4 ≤ (s.hub.stk k).beats → (t.hub.stk k).owner = false ∧ (t.hub.stk k).rel = false))) ∧
  (∀ s : State, let since := s.lastPackageBeat - s.fab.lastBeat
    ∃ t, exec .packageBeat s = .next t ∧ t.hub.pbeat = s.hub.pbeat + 1 ∧ ((s.now / 576 + 1) * 576, 0, Instr.packageBeat) ∈ t.timers ∧
      t.coaches = s.coaches ∧ t.hbm = s.hbm ∧
      ((s.fab.bsrc = true ∨ s.fab.blost = true) → 18432 ≤ since → Task.op (evFrame 0) (.podBeatTake false 0) ∈ t.agenda) ∧
      (s.fab.bsrc = false → s.fab.blost = false → 73728 ≤ since → Task.op (evFrame 0) .podBeatLost ∈ t.agenda)) ∧
  (∀ s : State, ∃ t, exec .podBeatLost s = .next t ∧ t.fab.blost = true ∧ Task.op (evFrame 0) (.podBeatTake false 0) ∈ t.agenda ∧
    (s.fab.evF.length < 256 → ∃ e, t.fab.evF = s.fab.evF ++ [e] ∧ e.extractLsb' 0 4 = 7)) ∧
  (∀ (s : State) (received : Bool) (b : BitVec 16),
    let n : Word := if received = true then s.hub.dbeat.extractLsb' 16 48 ++ b else s.hub.dbeat + 1
    (received = true → n.toNat ≤ s.hub.dbeat.toNat → exec (.podBeatTake received b) s = .next s) ∧
    ((received = false ∨ s.hub.dbeat.toNat < n.toNat) → ∃ t, exec (.podBeatTake received b) s = .next t ∧ t.hub.dbeat = n ∧
      t.fab.lastBeat = s.lastPackageBeat ∧ t.fab.blost = (s.fab.blost && !received) ∧ t.coaches = s.coaches ∧ t.hbm = s.hbm ∧
      (∀ p l : BitVec 3, ((t.port p).lane l).beatDue = (((s.port p).lane l).up || ((s.port p).lane l).beatDue)) ∧
      (n.toNat / 512 ≠ s.hub.dbeat.toNat / 512 →
        Task.op (evFrame 0) .correctionWindowEnd ∈ t.agenda ∧ Task.op (evFrame 0) .ageingRefresh ∈ t.agenda) ∧
      (∀ p : BitVec 3, (s.port p).armed = true → (s.port p).csw.toNat ≤ n.toNat → Task.op (evFrame 0) (.calendarSwitch p) ∈ t.agenda)))

/-! ### Requests of hosts (R113, R152, R153, R359 to R361) -/

/-- Requests over a port that is up and may send, none earlier of their queue pair outstanding: a CNP answers an ECN mark (R359); a
WRITE and a READ of DVAs whose words can be reached without error write and return their bytes, a Fetch&Add or Compare&Swap of HBM
returns the old value and writes the new (R152, R360); bank lines join the coach's writes (R311); a mailbox and a register are
written, a register is read (R360); without a matching key every access is refused; an unsupported request is answered so (R359).
While an earlier one is outstanding (R153), or the port's priority is paused or its pair's rate leaves no room (R359), a request
waits; while the port is down nothing happens (R366). A CNP lowers its pair's rate, by how much is free, and PFC pauses a priority
or lets it go on (R359). The waits at a pause and at a lowered rate, and how much a CNP lowers it, are the model's (log 17). -/
def Obligations.HostRequests : Prop :=
  (∀ (s : State) (r : RdmaReq) (data : List Byte) (len : BitVec 32) (v cmp : Word),
    let up := s.plat.ethUp.getLsbD r.port.toNat
    let clean : Prop := s.badHbm = [] ∧ s.softHbm = [] ∧ s.badTier = [] ∧ s.badPut = [] ∧ s.badHost = []
    let answer := fun (d : List Byte) (t : State) => (t.send (.rdmaAck r.port r.qp d)).paced r.port r.qp d.length
    let s1 := if r.ecn = true then s.send (.cnp r.port r.qp) else s
    let a := r.va.toNat % 2 ^ 56
    let cls := (r.va.extractLsb' 56 8).toNat
    let off := (r.va.extractLsb' 0 20).toNat
    let value := BitVec.ofNat 64 (((List.range 8).map fun j => (data.getD j 0).toNat * 256 ^ j).sum)
    let accesses := [Instr.rdmaWriteDva r data, .rdmaWriteBankLine r data, .rdmaWriteMailbox r data, .rdmaWriteRegister r data,
      .rdmaReadDva r len, .rdmaReadRegister r len, .rdmaFetchAdd r v, .rdmaCompareSwap r cmp v]
    (∀ i ∈ Instr.rdmaUnsupportedRequest r :: accesses, (up = false → exec i s = .next s) ∧
      (up = true → s.pairBusy r = true ∨ s.mayPost r.port r.qp = false → exec i s = .next (s.timer (s.now + 5) 0 i))) ∧
    (up = true → s.pairBusy r = false → s.mayPost r.port r.qp = true →
      exec (.rdmaUnsupportedRequest r) s = .next (s1.send (.rdmaInvalid r.port r.qp)) ∧
      (s.fab.keyFor r.rkey = none → ∀ i ∈ accesses, exec i s = .next (s1.send (.rdmaNak r.port r.qp))) ∧
      (∀ (k : BitVec 45) (ps : List Place), s.fab.keyFor r.rkey = some k → keyWr k = true → cls = 0 → clean →
        (wordsOver a data.length).map (fun w => s.reach (keyJob k) w false true) = ps.map Reach.here →
        exec (.rdmaWriteDva r data) s = .next (answer [] ((ps.zip (wordsOver a data.length)).foldl (fun s e =>
          s.writeWord .hub (keyJob k) e.1 (bytesOnto a data e.2).1 (bytesOnto a data e.2).2) s1))) ∧
      (∀ (k : BitVec 45) (ps : List Place), s.fab.keyFor r.rkey = some k → keyRd k = true → cls = 0 → clean →
        (wordsOver a len.toNat).map (fun w => s.reach (keyJob k) w true false) = ps.map Reach.here →
        exec (.rdmaReadDva r len) s = .next (answer
          (bytesFrom a (a / 4 * 4) len.toNat (ps.map fun p => s.readWord .hub (keyJob k) p 0)) s1)) ∧
      (∀ k c b, s.fab.keyFor r.rkey = some k → keyWr k = true → cls = 1 → c = r.va.extractLsb' 28 3 → b = r.va.extractLsb' 22 6 →
        r.va.extractLsb' 31 25 = 0 → data ≠ [] → s.accepts c b (keyJob k) = true →
        ∃ t, exec (.rdmaWriteBankLine r data) s = .next t ∧ t.out = s1.out ++ [.rdmaAck r.port r.qp []] ∧
          (t.coach c).en.engq = (s.coach c).en.engq ++ lineWrites (pairOf r) b (r.va.extractLsb' 8 14).toNat (r.va.extractLsb' 0 8).toNat data ∧
          t.hbm = s.hbm ∧ (t.coach c).sq = (s.coach c).sq) ∧
      (∀ k c (u : Sys2Proof.Machine.Unit), s.fab.keyFor r.rkey = some k → keyWr k = true → cls = 2 → c = r.va.extractLsb' 7 3 →
        r.va.extractLsb' 10 46 = 0 → r.va.extractLsb' 0 3 = 0 → data.length = 8 → (s.coach c).unit = some u → u.job = keyJob k →
        exec (.rdmaWriteMailbox r data) s = .next (answer [] (s1.onSq c fun q =>
          { q with mb := q.mb.set (r.va.extractLsb' 3 4).toNat value, mbOut := r.va.extractLsb' 3 4 :: q.mbOut }))) ∧
      (∀ k, s.fab.keyFor r.rkey = some k → keyWr k = true → keyReg k = true → cls = 3 → r.va.extractLsb' 20 36 = 0 → off % 8 = 0 →
        data.length = 8 →
        exec (.rdmaWriteRegister r data) s = .next (if off = 0xC000 then s1.send (.rdmaNak r.port r.qp)
          else (answer [] s1).regWrite false off value)) ∧
      (∀ k, s.fab.keyFor r.rkey = some k → keyRd k = true → keyReg k = true → cls = 3 → r.va.extractLsb' 20 36 = 0 → off % 8 = 0 →
        len = 8 → exec (.rdmaReadRegister r len) s = .next (answer
          ((List.range 8).map fun j => (s1.regRead off).1.extractLsb' (8 * j) 8) (s1.regRead off).2)) ∧
      (∀ k p p', s.fab.keyFor r.rkey = some k → keyAtom k = true → cls = 0 → a % 8 = 0 → clean →
        s.reach (keyJob k) a true true = .here (.hbm p) → s.reach (keyJob k) (a + 4) true true = .here (.hbm p') →
        let old : Word := s.readWord .atomic (keyJob k) (.hbm p') 0 ++ s.readWord .atomic (keyJob k) (.hbm p) 0
        let put := fun (n : Word) => (s1.writeWord .atomic (keyJob k) (.hbm p) (BitVec.allOnes 32) (n.extractLsb' 0 32)).writeWord .atomic
          (keyJob k) (.hbm p') (BitVec.allOnes 32) (n.extractLsb' 32 32)
        let bytes := (List.range 8).map fun j => old.extractLsb' (8 * j) 8
        exec (.rdmaFetchAdd r v) s = .next (answer bytes (put (old + v))) ∧
        exec (.rdmaCompareSwap r cmp v) s = .next (answer bytes (if old = cmp then put v else s1))))) ∧
  (∀ (s : State) (port : BitVec 2) (qp : BitVec 10) (prio : BitVec 1) (pause : Bool),
    (s.plat.ethUp.getLsbD port.toNat = false → exec (.cnpReceive port qp) s = .next s ∧ exec (.pfcPauseReceive port prio pause) s = .next s) ∧
    (s.plat.ethUp.getLsbD port.toNat = true →
      (∃ t, exec (.cnpReceive port qp) s = .next t ∧ (0 < s.fab.rate port qp → t.fab.rate port qp < s.fab.rate port qp) ∧
        (s.fab.rate port qp = 0 → t.fab.rate port qp = 0) ∧ t.out = s.out ∧ t.hbm = s.hbm ∧
        t.coaches = s.coaches ∧ t.hub = s.hub) ∧
      (∃ t, exec (.pfcPauseReceive port prio pause) s = .next t ∧ t = { s with fab := { s.fab with paused := t.fab.paused } } ∧
        ∀ e, e ∈ t.fab.paused ↔ ((e = (port, prio) ∧ pause = true) ∨ (e ≠ (port, prio) ∧ e ∈ s.fab.paused)))))

/-! ### Items under way (R17, R148, R154, R248, R292, R297 to R311, R355) -/

/-- How items end. A posting item leaves its context's list, posts its token with its error, and a failing one writes its status slot,
nothing outside it (R297, R299). The solver, when 16 ics have passed since it took the last, takes one RSOLVE and sets its switch for
96 ics later; until then it takes none; the switch replaces the entry, completes the piece and sets a strict solve's bit (R248). An
acknowledgement of an outstanding line takes it from those outstanding, or fails the item at the line's source (R154, R299; how ADDR
names the source line is log 55's choice). A fence that has drained posts at its tick, in the pod domain at the next (R148). A held
item fails with status 7 and an event of kind 6 (R355). -/
def Obligations.ItemsEnd : Prop :=
  (∀ (s : State) (c : BitVec 3) (id : Nat) (it : Item), s.item c id = some it → canon (s.coach c).sq.ss = true →
    let a := 0x3F800 + 32 * it.tok.toNat
    let ss := (s.coach c).sq.ss
    ∃ t, exec (.itemPost c id) s = .next t ∧ (t.coach c).sq.items = (s.coach c).sq.items.filter (fun o => o.id ≠ id) ∧
      (t.coach c).sq.tokOps = (s.coach c).sq.tokOps ++ [.add it.tok 1 (decide (it.status ≠ 0))] ∧
      (it.status = 0 → it.flags = 0 → (t.coach c).sq.ss = ss) ∧
      (it.status ≠ 0 → let ss' := (t.coach c).sq.ss
        peek ss' a = it.status ∧ peek ss' (a + 3) = it.subc ∧ peekBytes ss' (a + 4) 4 = (peekBytes ss (a + 4) 4 + 1) % 2 ^ 32 ∧
        peekBytes ss' (a + 8) 8 = it.addr.toNat ∧ peekBytes ss' (a + 16) 4 = it.pieces % 2 ^ 32 ∧
        ∀ p, (p < a ∨ a + 32 ≤ p) → peek ss' p = peek ss p) ∧
      (t.coach c).sq.x = (s.coach c).sq.x ∧ t.hbm = s.hbm ∧ t.tier = s.tier ∧ t.host = s.host ∧ t.hub = s.hub) ∧
  (∀ (s : State) (c : BitVec 3) (id : Nat) (it : Item), s.item c id = some it →
    (s.solverFree it.coach = false → exec (.rsolveAccept c id) s = .next s) ∧
    (s.solverFree it.coach = true → ∃ t sw it', exec (.rsolveAccept c id) s = .next t ∧ (t.coach it.coach).en.switches = (s.coach it.coach).en.switches ++ [sw] ∧
      sw.due = (s.coach it.coach).ic + 96 ∧ sw.item = some (8 * id + c.toNat) ∧ sw.route = (dword it.desc 0).extractLsb' 0 9 ∧
      (t.coach it.coach).en.solverAt = some (s.coach it.coach).ic ∧ t.item c id = some it' ∧ it'.begun = true ∧ it'.out = [0])) ∧
  (∀ (s : State) (c d : BitVec 3) (id : Nat) (it : Item) (sw : RouteSwitch), s.item c id = some it → (s.coach d).en.switches = [sw] →
    (∀ e, e ≠ d → (s.coach e).en.switches = []) → sw.item = some (8 * id + c.toNat) → sw.due ≤ (s.coach d).ic → sw.route ≠ 0 →
    canon (s.coach d).en.routesR = true → canon (s.coach d).en.routesW = true →
    ∃ t it', exec (.rsolveSwitch c id) s = .next t ∧ (t.coach d).en.switches = [] ∧
      (∀ i < (if sw.write = true then 26 else 50), i ≠ (if sw.write = true then 23 else 47) →
        (t.coach d).en.routeLine sw.write sw.route i = sw.img.getD i 0) ∧
      t.item c id = some it' ∧ it'.out = [] ∧ it'.pieces = 1 ∧
      (sw.oob = true → sw.cb ≠ 0 → (t.coach c).sq.c.getLsbD sw.cb.toNat = true) ∧ (sw.oob = false → (t.coach c).sq.c = (s.coach c).sq.c)) ∧
  (∀ (s : State) (c : BitVec 3) (id key : Nat) (status : BitVec 8) (it : Item), s.item c id = some it →
    (it.out.contains key = false → exec (.putAcknowledgement c (id, key) status) s = .next s) ∧
    (it.out.contains key = true → it.phase ≠ .failed →
      ∃ t it', exec (.putAcknowledgement c (id, key) status) s = .next t ∧ t.item c id = some it' ∧ it'.out = it.out.erase key ∧
        (status = 0 → it' = { it with out := it.out.erase key, pieces := it.pieces + 1, wrote := true }) ∧
        (status ≠ 0 → it'.phase = .failed ∧ it'.status = status ∧ it'.pieces = it.pieces ∧
          it'.addr.toNat = 64 * (((dword it.desc 1).extractLsb' 6 14).toNat + key) % (64 * 16384)) ∧ t.hbm = s.hbm ∧ t.hub = s.hub)) ∧
  (∀ (s : State) (c : BitVec 3) (id n : Nat) (it : Item), s.item c id = some it → it.phase = .drained n →
    ∃ t, exec (.fenceScTick c id) s = .next t ∧ t.hbm = s.hbm ∧
      t.item c id = some (if it.scope.toNat ≤ 4 ∨ it.begun = true then { it with phase := .done, pieces := 1 } else { it with begun := true })) ∧
  (∀ (s : State) (c : BitVec 3) (id : Nat) (it : Item), s.item c id = some it → it.phase = .holding →
    ∃ t it', exec (.holdTimeout c id it.stamp) s = .next t ∧ t.item c id = some it' ∧ it'.phase = .failed ∧ it'.status = 7 ∧ it'.out = [] ∧
      (s.fab.evF.length < 256 → ∃ e, t.fab.evF = s.fab.evF ++ [e] ∧ e.extractLsb' 0 4 = 6))

/-- Data on their way to a bank. A PUT's line that the coach accepts waits for its bank's port, one it does not is answered with
status 5 (R311). The port serves a waiting write in an ic, whose lanes land in it, with the full bit of a write that is no item's and
of a DCOPY's write of a whole line, whose piece is then counted (R17, R251). A peer's request is answered 7 when its translation is
refused, performed and answered 0 when it writes HBM free of errors, and answered with the words read (R154, R308); one that meets a
page under expansion is tried again (R126), and so is one that would overtake an earlier one of its coach on a lane (R142); what a
peer answers besides R113's 7, and that it tries again one ic later, is the model's reading (log 42). Lanes that
arrive stand on their HI port (R13). A tile's next route executes in its ic and its firing consumes six later; a tile whose firings
are over posts (R292). -/
def Obligations.DataArrive : Prop :=
  (∀ (s : State) (p : PutLine),
    (s.accepts p.coach p.bank p.job = true → ∃ w, exec (.putArrival p) s = .next (s.onEn p.coach fun e => { e with engq := e.engq ++ [w] }) ∧
      w.bank = p.bank ∧ w.line = p.line ∧ w.mask = BitVec.allOnes 2048 ∧ w.v = p.data ∧ w.full = true ∧ w.put = some p) ∧
    (s.accepts p.coach p.bank p.job = false → p.spkg = s.fab.pkgid →
      exec (.putArrival p) s = .next { s with agenda := .op (evFrame p.scoach) (.putAcknowledgement p.scoach (p.item, p.key) 5) :: s.agenda })) ∧
  (∀ (s : State) (w : EngWrite),
    let k := s.coach s.cur.coach
    k.en.engq = [w] → k.en.inflight = [] →
    ∃ t, exec .engineLineWrite s = .next t ∧ (t.coach s.cur.coach).en.engq = [] ∧
      (∃ r ∈ (t.coach s.cur.coach).en.inflight, r.due = k.ic ∧ r.dest = .bank w.bank w.line w.mask w.v w.port) ∧
      (w.item = none → w.full = true → ∃ r ∈ (t.coach s.cur.coach).en.inflight, r.due = k.ic ∧ r.dest = .full w.bank w.line 1) ∧
      (∀ c id it, w.item = some (c, id) → s.item c id = some it → it.sub ≠ subTile → it.major = majDcopy → it.form ≠ 5 →
        (w.full = true → ∃ r ∈ (t.coach s.cur.coach).en.inflight, r.due = k.ic ∧ r.dest = .full w.bank w.line 1) ∧
        t.item c id = some { it with out := it.out.erase w.key, pieces := it.pieces + w.n, wrote := true }) ∧
      (w.full = false → ∀ r ∈ (t.coach s.cur.coach).en.inflight, ∀ b l v, r.dest ≠ .full b l v) ∧
      (t.coach s.cur.coach).en.banks = k.en.banks ∧ t.hbm = s.hbm) ∧
  (∀ (s : State) (r : RemoteReq), s.behindRun r = true →
    exec (.remoteDcopyRequest r) s = .next (s.timer (s.now + 5) r.scoach (.remoteDcopyRequest r))) ∧
  (∀ (s : State) (r : RemoteReq), r.spkg ≠ s.fab.pkgid → s.behindRun r = false →
    (∀ a, s.peerPlaces r.job r.dva.toNat r.write r.words = .error (.fail 7 0, a) → ∃ t h, exec (.remoteDcopyRequest r) s = .next t ∧
      t.hbm = s.hbm ∧ t.fab.relay = s.fab.relay ++ [(h, .ack s.fab.pkgid r.scoach r.item r.key 7 (BitVec.ofNat 56 a), 8)]) ∧
    (∀ a, s.peerPlaces r.job r.dva.toNat r.write r.words = .error (.wait, a) →
      exec (.remoteDcopyRequest r) s = .next (s.timer (s.now + 5) r.scoach (.remoteDcopyRequest r))) ∧
    (∀ ps : List (Place × Nat), s.peerPlaces r.job r.dva.toNat r.write r.words = .ok ps → (∀ p ∈ ps, ∃ hpa, p.1 = .hbm hpa) →
      s.badHbm = [] → s.softHbm = [] →
      (r.write = true → ∃ t h, exec (.remoteDcopyRequest r) s = .next t ∧
        t.fab.relay = s.fab.relay ++ [(h, .ack s.fab.pkgid r.scoach r.item r.key 0 0, 8)] ∧
        t.hbm = ((ps.zip r.data).foldl (fun (s : State) e => s.writeWord .hub r.job e.1.1 (BitVec.allOnes 32) e.2) s).hbm) ∧
      (r.write = false → ∃ t h, exec (.remoteDcopyRequest r) s = .next t ∧ t.hbm = s.hbm ∧
        t.fab.relay = s.fab.relay ++ [(h, .reply s.fab.pkgid r.scoach r.item r.key (ps.map fun p => s.readWord .hub r.job p.1 0), 8)]))) ∧
  (∀ (s : State) (h : HitchLane),
    let k := s.coach s.cur.coach
    k.en.hitch = [h] → h.due ≤ k.ic → canon k.en.oport = true →
    ∃ t, exec .hitchLaneArrival s = .next t ∧ (t.coach s.cur.coach).en.hitch = [] ∧ (t.coach s.cur.coach).sq = k.sq ∧
      peek (t.coach s.cur.coach).en.oport (21 + h.port.toNat) = blend h.mask h.v (peek k.en.oport (21 + h.port.toNat)) ∧
      ∀ p, p ≠ 21 + h.port.toNat → peek (t.coach s.cur.coach).en.oport p = peek k.en.oport p) ∧
  (∀ (s : State) (tl : Tile),
    let c := s.cur.coach
    let m := s.masterOf c
    (s.coach c).en.tiles = [tl] → tl.fired = [] →
    (tl.next < tl.total → tl.stopped = false → (s.coach m).sq.stopping = false → tl.base + tl.next = (s.coach c).ic →
      ∃ t, exec .mtileFiring s = .next t ∧ (t.coach c).en.tiles = [{ tl with next := tl.next + 1, fired := [(tl.next, (s.coach c).ic + 6)] }] ∧
        t.hbm = s.hbm ∧ (t.coach c).sq.x = (s.coach c).sq.x) ∧
    (tl.next = tl.total → (s.coach c).ic = tl.postAt → ∀ it, s.item m tl.item = some it → it.status = 0 →
      ∃ t, exec .mtileFiring s = .next t ∧ (t.coach c).en.tiles = [] ∧
        t.item m tl.item = some { it with phase := .done, pieces := tl.total, wrote := decide (0 < tl.total) }))

/-- The groups of a DCOPY and of a PUT (R303 to R310). Direction in queues for its bank line every lane that a position names, with
the word of one of them, and the full bit; direction out writes each position's word from its lane of the line; direction mem writes
the destination's words of a block; a pad position writes the pad word or nothing. Form view reads and writes the elements of its
rectangle through its entry, or fails with the code of a check that the entry as it stands fails. Form rem asks for, or sends, a run of
words; the words that come back are queued for their lanes. PUT sends a line. The words lie in HBM, the second tier or host memory
where no error waits (of KIND 3 pages nothing is said here); which of the positions of one location stands is free (R297); no other
byte of a memory changes. In an ic an item that runs performs none of its groups or one that may begin (log 6). -/
def Obligations.CopiesMoveWords : Prop :=
  -- R297: an item that runs
  (∀ (s : State) (m : BitVec 3) (rest : List Task), s.agenda = .service m :: rest →
    Sys2Proof.Machine.step s = .next (({ s with agenda := rest } : State).service m)) ∧
  (∀ (s : State) (m : BitVec 3) (it : Item), (s.coach m).sq.items = [it] → it.parked = false → it.phase = .running → it.sub ≠ subTile →
    s.farTarget it = none → (∀ n, (s.coach m).sq.phase ≠ .parking n) → it.todo ≠ [] →
    let u : State := { s with draw := s.draw + 1 }
    s.service m = u ∨ ∃ key ∈ it.todo, s.groupReady m it key = true ∧ s.service m = u.perform m it key) ∧
  -- R304 to R306, R308: in
  (∀ (s : State) (m : BitVec 3) (it : Item) (form l : Nat), Calm s → it.major = 1 → it.sub = BitVec.ofNat 11 form →
    form ≤ 3 ∨ form = 6 → s.item m it.id = some it → l < 16384 →
    (∀ n, isPos form it.desc n → posBank form it.desc n / 64 = l → posValid form it.desc n → ∃ x, posSpot s m it form false n x) →
    ∃ t w, s.perform m it l = t ∧ (t.coach it.coach).en.engq = (s.coach it.coach).en.engq ++ [w] ∧
      w.bank = (dword it.desc 1).extractLsb' 0 6 ∧ w.line.toNat = l ∧ w.full = true ∧ w.item = some (m, it.id) ∧ w.key = l ∧
      w.n = ((List.range 64).filter fun k => laneOf w.mask k ≠ 0).length ∧
      (∀ k < 64,
        (laneOf w.mask k = BitVec.allOnes 32 ∧ ∃ n, posBank form it.desc n = 64 * l + k ∧ brings s m it form n (laneOf w.v k)) ∨
        (laneOf w.mask k = 0 ∧ ∀ n, isPos form it.desc n → posBank form it.desc n = 64 * l + k → ¬ posValid form it.desc n ∧ ¬ padFills it.desc)) ∧
      t.hbm = s.hbm ∧ t.tier = s.tier ∧ t.host = s.host ∧ (t.coach it.coach).en.banks = (s.coach it.coach).en.banks ∧
      t.item m it.id = some { it with todo := it.todo.erase l, out := it.out ++ [l] }) ∧
  -- R304, R305, R308: out
  (∀ (s : State) (m : BitVec 3) (it : Item) (form l : Nat), Calm s → it.major = 1 → it.sub = BitVec.ofNat 11 (form + 8) →
    form ≤ 2 ∨ form = 6 → s.item m it.id = some it → l < 16384 →
    let b := (dword it.desc 1).extractLsb' 0 6
    let k := s.coach it.coach
    quietBank k b → (∀ n, isPos form it.desc n → posBank form it.desc n / 64 = l → ∃ x, posSpot s m it form true n x) →
    ∃ t c, s.perform m it l = t ∧
      wrote s t (fun x v => ∃ n, isPos form it.desc n ∧ posBank form it.desc n / 64 = l ∧ posSpot s m it form true n x ∧
        v = laneOf (k.line b (BitVec.ofNat 14 l)) (posBank form it.desc n % 64)) ∧
      (t.coach it.coach).en.banks = k.en.banks ∧ (t.coach it.coach).en.full = k.en.full ∧ (t.coach it.coach).en.engq = [] ∧
      t.item m it.id = some { it with todo := it.todo.erase l, pieces := it.pieces + c, wrote := true }) ∧
  -- R304 to R306: mem
  (∀ (s : State) (m : BitVec 3) (it : Item) (form b : Nat), Calm s → it.major = 1 → it.sub = BitVec.ofNat 11 (form + 16) → form ≤ 3 →
    s.item m it.id = some it → ((dword it.desc 2).extractLsb' 0 32).toNat % 4 = 0 → ((dword it.desc 1).extractLsb' 0 56).toNat % 4 = 0 →
    let here := fun (n : Nat × Nat × Nat × Nat) => isPos form it.desc n ∧ 256 * (b : Int) ≤ posDest form it.desc n ∧ posDest form it.desc n < 256 * b + 256
    (∀ n, here n → posValid form it.desc n → ∃ x, posSpot s m it form false n x) →
    (∀ n, here n → posValid form it.desc n ∨ padFills it.desc → ∃ x, reachable s m it true (posDest form it.desc n).toNat x) →
    ∃ t c, s.perform m it b = t ∧
      wrote s t (fun x v => ∃ n, here n ∧ brings s m it form n v ∧ reachable s m it true (posDest form it.desc n).toNat x) ∧
      t.item m it.id = some { it with todo := it.todo.erase b, pieces := it.pieces + c, wrote := true }) ∧
  -- R117, R118, R307: view
  (∀ (s : State) (m : BitVec 3) (it : Item) (l : Nat), Calm s → it.major = 1 → it.sub = 4 ∨ it.sub = 12 → s.item m it.id = some it → l < 16384 →
    let d := it.desc
    let g := s.hub.viewEntry (s.jobOf m) ((dword d 0).extractLsb' 0 8).toNat
    let b := (dword d 1).extractLsb' 0 6
    let words := ((dword d 3).extractLsb' 0 32).toNat * ((dword d 3).extractLsb' 32 32).toNat * vL g / 32
    let at_ := fun (w : Nat) => (64 * ((dword d 1).extractLsb' 8 14).toNat + ((dword d 1).extractLsb' 22 6).toNat + w) % 1048576
    (viewCodes g d ≠ [] → ∃ t it', s.perform m it l = t ∧ t.item m it.id = some it' ∧ it'.phase = .failed ∧ it'.status.toNat ∈ viewCodes g d ∧
      it'.todo = [] ∧ it'.pieces = it.pieces ∧ t.hbm = s.hbm ∧ t.viewLog = [] ∧ (t.coach it.coach).en = (s.coach it.coach).en) ∧
    (viewCodes g d = [] → it.sub = 4 → ∃ t w, s.perform m it l = t ∧ (t.coach it.coach).en.engq = (s.coach it.coach).en.engq ++ [w] ∧
      w.bank = b ∧ w.line.toNat = l ∧ w.full = true ∧ w.item = some (m, it.id) ∧ t.hbm = s.hbm ∧
      ∀ k < 64,
        (laneOf w.mask k = BitVec.allOnes 32 ∧ ∃ i < words, at_ i = 64 * l + k ∧ ∀ e < 32 / vL g,
          (laneOf w.v k).toNat / 2 ^ (vL g * e) % 2 ^ vL g = storageBits s.hbm (vStack g) (viewBit g d i e) (vL g)) ∨
        (laneOf w.mask k = 0 ∧ ∀ i < words, at_ i ≠ 64 * l + k)) ∧
    (viewCodes g d = [] → it.sub = 12 → quietBank (s.coach it.coach) b → ∃ t, s.perform m it l = t ∧ t.hbm = s.hbm ∧ t.tier = s.tier ∧ t.host = s.host ∧
      (∀ i < words, at_ i / 64 = l → ∀ e < 32 / vL g, ∃ w ∈ t.viewLog, w.stack = vStack g ∧ w.bit ≤ viewBit g d i e ∧
        viewBit g d i e + vL g ≤ w.bit + w.size ∧ w.geom = vGeom g ∧ w.ctx = s.ctxOf m ∧ w.merged = none ∧
        ∃ i' < words, at_ i' / 64 = l ∧ ∃ e' < 32 / vL g, viewBit g d i' e' = viewBit g d i e ∧
          w.v.toNat / 2 ^ (viewBit g d i e - w.bit) % 2 ^ vL g =
            (laneOf ((s.coach it.coach).line b (BitVec.ofNat 14 l)) (at_ i' % 64)).toNat / 2 ^ (vL g * e') % 2 ^ vL g) ∧
      (∀ w ∈ t.viewLog, ∃ i < words, at_ i / 64 = l ∧ ∃ e < 32 / vL g, w.stack = vStack g ∧ w.bit ≤ viewBit g d i e ∧
        viewBit g d i e < w.bit + w.size ∧ w.size ≤ max 8 (vL g)))) ∧
  -- R154, R308: rem
  (∀ (s : State) (m : BitVec 3) (it : Item) (j : Nat), it.major = 1 → it.sub = 5 ∨ it.sub = 13 → s.item m it.id = some it →
    let d := it.desc
    let n := min 32 (((dword d 2).extractLsb' 0 32).toNat / 4 - 32 * j)
    let a := ((dword d 0).extractLsb' 0 56).toNat + 128 * j
    let pkg := (dword d 3).extractLsb' 0 10
    let b := (dword d 1).extractLsb' 0 6
    let first := (64 * ((dword d 1).extractLsb' 8 14).toNat + ((dword d 1).extractLsb' 22 6).toNat + 32 * j) % 1048576
    it.sub = 5 ∨ (first % 64 + n ≤ 64 ∧ 0 < n ∧ it.aux = [] ∧ quietBank (s.coach it.coach) b) →
    ∃ t r, s.perform m it j = t ∧ r.spkg = s.fab.pkgid ∧ r.scoach = m ∧ r.item = it.id ∧ r.key = j ∧ r.job = s.jobOf m ∧
      r.write = decide (it.sub = 13) ∧ r.dva = BitVec.ofNat 56 a ∧ r.words = n ∧
      r.data = (if it.sub = 13 then (List.range n).map fun i => laneOf ((s.coach it.coach).line b (BitVec.ofNat 14 (first / 64))) (first % 64 + i) else []) ∧
      (pkg = s.fab.pkgid → t.agenda = s.agenda ++ [.op (evFrame it.coach) (.remoteDcopyRequest r)] ∧ t.fab = s.fab) ∧
      (pkg ≠ s.fab.pkgid → t.agenda = s.agenda ∧ ∃ h, h.extractLsb' 4 10 = pkg ∧ t.fab.relay = s.fab.relay ++ [(h, .remote r, 8)]) ∧
      t.hbm = s.hbm ∧ (t.coach it.coach).en.banks = (s.coach it.coach).en.banks ∧
      t.item m it.id = some { it with todo := it.todo.erase j, out := it.out ++ [j], aux := it.aux }) ∧
  (∀ (s : State) (m : BitVec 3) (it : Item) (j : Nat) (data : List Lane), s.item m it.id = some it → j ∈ it.out → data.length ≤ 32 →
    let d := it.desc
    let at_ := fun (i : Nat) => (64 * ((dword d 1).extractLsb' 8 14).toNat + ((dword d 1).extractLsb' 22 6).toNat + 32 * j + i) % 1048576
    ∃ t ws, s.dataBack m it.id j data = t ∧ (t.coach it.coach).en.engq = (s.coach it.coach).en.engq ++ ws ∧ t.hbm = s.hbm ∧
      (∀ w ∈ ws, w.bank = (dword d 1).extractLsb' 0 6 ∧ w.full = true ∧ w.item = some (m, it.id) ∧ ∀ k < 64,
        laneOf w.mask k = 0 ∨ laneOf w.mask k = BitVec.allOnes 32 ∧ ∃ i, ∃ h : i < data.length, at_ i = 64 * w.line.toNat + k ∧ laneOf w.v k = data[i]) ∧
      (∀ i < data.length, ∃ w ∈ ws, w.line.toNat = at_ i / 64 ∧ laneOf w.mask (at_ i % 64) = BitVec.allOnes 32)) ∧
  -- R310: PUT
  (∀ (s : State) (m : BitVec 3) (it : Item) (i : Nat), it.major = 2 → it.sub = 0 → s.item m it.id = some it →
    let w0 := dword it.desc 0
    let b := (dword it.desc 1).extractLsb' 0 6
    let pkg := w0.extractLsb' 0 10
    quietBank (s.coach it.coach) b →
    ∃ t p, s.perform m it i = t ∧ p.spkg = s.fab.pkgid ∧ p.scoach = m ∧ p.item = it.id ∧ p.key = i ∧ p.job = s.jobOf m ∧
      p.coach = w0.extractLsb' 11 3 ∧ p.bank = w0.extractLsb' 14 6 ∧ p.line = w0.extractLsb' 20 14 + BitVec.ofNat 14 i ∧
      p.data = (s.coach it.coach).line b ((dword it.desc 1).extractLsb' 6 14 + BitVec.ofNat 14 i) ∧
      (w0.getLsbD 10 = true ∨ pkg = s.fab.pkgid → t.agenda = s.agenda ++ [.op (evFrame it.coach) (.putArrival p)] ∧ t.fab = s.fab) ∧
      (w0.getLsbD 10 = false → pkg ≠ s.fab.pkgid → t.agenda = s.agenda ∧ ∃ h, h.extractLsb' 4 10 = pkg ∧
        t.fab.relay = s.fab.relay ++ [(h, .putLine false p, 8), (h, .putLine true p, 8)]) ∧
      t.hbm = s.hbm ∧ (t.coach it.coach).en.banks = (s.coach it.coach).en.banks ∧
      t.item m it.id = some { it with todo := it.todo.erase i, out := it.out ++ [i] })

/-- The pieces of the stack engines, on words of HBM, second tier and host memory where no error waits. A piece of HRED writes one
word of the result, each element the reduction of that element of every region (R313). A piece of HCVT writes one word of the target's
stream, or with scales a block of 32 elements and, where the target is scaled, its scale, each element converted from its bits of the
source's stream, and zeros between them (R79, R85, R314). HATOM reads a cell of HBM or the second tier, writes the new value, unless a
compare fails, and returns the old one (R152, R315). HGATH reads a line of its list; then a row goes, from the table or as the mode says, to
the bank lanes of every entry of its window of 64 that names it, and a strict one sets the item's mark (R312). Flags gather in the
item (R301). No other byte of a memory changes. -/
def Obligations.EnginesOnMemory : Prop :=
  -- R313
  (∀ (s : State) (m : BitVec 3) (it : Item) (i : Nat) (x : Nat → Spot) (y : Spot), Calm s → it.major = 4 → s.item m it.id = some it →
    let d := it.desc
    let op := (it.sub.extractLsb' 0 2).toNat
    let fmt := (it.sub.extractLsb' 2 4).toNat
    let rm := (it.sub.extractLsb' 6 3).toNat
    let n := ((dword d 2).extractLsb' 32 8).toNat
    let src := fun (k : Nat) => ((dword d 1).extractLsb' 0 56).toNat + k * ((dword d 3).extractLsb' 0 56).toNat + 4 * i
    fmt ∈ [0, 1, 2, 9, 10, 11] → op < 3 →
    (∀ k ≤ n, reachable s m it false (src k) (x k)) → reachable s m it true (((dword d 0).extractLsb' 0 56).toNat + 4 * i) y →
    let one := fun (j : Nat) => reduceSpec op fmt rm ((List.range (n + 1)).map fun k => elemOf fmt (wordAt s (x k)) j)
    ∃ t v fl, s.perform m it i = t ∧ wrote s t (fun x w => x = y ∧ w = v) ∧
      (∀ j < 32 / fmtWidth fmt, elemOf fmt v j = (one j).1) ∧
      (∀ b < 6, fl.getLsbD b = true ↔ ∃ j < 32 / fmtWidth fmt, (one j).2.getLsbD b = true) ∧
      t.item m it.id = some { it with todo := it.todo.erase i, pieces := it.pieces + 1, wrote := true, flags := it.flags ||| fl }) ∧
  -- R314
  (∀ (s : State) (m : BitVec 3) (it : Item) (i : Nat) (x y : Nat → Spot), Calm s → it.major = 5 → s.item m it.id = some it →
    checkConvert it.desc = [] → s.checkScales m it.coach it.desc = [] →
    let d := it.desc
    let w2 := dword d 2
    let tf := (w2.extractLsb' 32 4).toNat
    let sf := (w2.extractLsb' 36 4).toNat
    let rm := (w2.extractLsb' 40 3).toNat
    let mx := w2.getLsbD 44
    let dist := fun (f : Nat) => if f = 5 ∨ f = 6 then (if w2.getLsbD 45 = true then 6 else 8) else fmtWidth f
    let src := ((dword d 1).extractLsb' 0 56).toNat
    let dst := ((dword d 0).extractLsb' 0 56).toNat
    let scl := ((dword d 3).extractLsb' 0 56).toNat + i
    let first := if mx = true then dist tf * i else i
    let count := if mx = true then dist tf else 1
    let elems := fun (e : Nat) => 32 * first / dist tf ≤ e ∧ e ≤ (32 * (first + count) - 1) / dist tf
    let fromMx := mx = true ∧ 3 ≤ sf ∧ sf ≤ 7
    let toMx := mx = true ∧ 3 ≤ tf ∧ tf ≤ 7
    (∀ e, elems e → ∀ p, dist sf * e ≤ p → p < dist sf * e + fmtWidth sf → reachable s m it false (src + 4 * (p / 32)) (x (src + 4 * (p / 32)))) →
    (fromMx → reachable s m it false (scl / 4 * 4) (x (scl / 4 * 4))) →
    (∀ k < count, reachable s m it true (dst + 4 * (first + k)) (y (dst + 4 * (first + k)))) →
    (toMx → reachable s m it true (scl / 4 * 4) (y (scl / 4 * 4))) →
    let byteOf := fun (w : Lane) => w.extractLsb' (8 * (scl % 4)) 8
    let old := byteOf (wordAt s (x (scl / 4 * 4)))
    let value := fun (e : Nat) =>
      if fromMx ∧ old = 255 then Machine.Num.nan
      else (sourceNum sf (streamElem s x src (dist sf * e) (fmtWidth sf))).scale (((w2.extractLsb' 46 8).toNat : Int) - 127 +
        if fromMx then (old.toNat : Int) - 127 else 0)
    let scale := mxScale tf ((List.range 32).map fun j => value (32 * i + j))
    let one := fun (e : Nat) => if toMx then mxElem tf rm scale (value e) 0 else convertNum tf sf rm (w2.getLsbD 43) (value e)
    ∃ t fl, s.perform m it i = t ∧
      wrote s t (fun z v => (∃ k < count, z = y (dst + 4 * (first + k)) ∧ ∀ c < 32,
          let p := 32 * (first + k) + c
          v.getLsbD c = (decide (p % dist tf < fmtWidth tf) && (one (p / dist tf)).1.testBit (p % dist tf))) ∨
        (toMx ∧ z = y (scl / 4 * 4) ∧ byteOf v = BitVec.ofNat 8 scale ∧ ∀ c < 32, c / 8 ≠ scl % 4 → v.getLsbD c = (wordAt s z).getLsbD c)) ∧
      (∀ b < 6, fl.getLsbD b = true ↔ ∃ e, elems e ∧ (one e).2.getLsbD b = true) ∧
      t.item m it.id = some { it with todo := it.todo.erase i, pieces := it.pieces + 1, wrote := true, flags := it.flags ||| fl }) ∧
  -- R152, R315
  (∀ (s : State) (m : BitVec 3) (it : Item) (key : Nat) (x : Nat → Spot), Calm s → it.major = 6 → s.item m it.id = some it →
    canon (s.coach m).sq.ss = true →
    let d := it.desc
    let sub := it.sub.toNat
    let n := if sub < 10 ∧ sub % 2 = 1 then 2 else 1
    let a := ((dword d 0).extractLsb' 0 56).toNat
    let ret := ((dword d 3).extractLsb' 0 18).toNat / 8 * 8
    sub < 13 → (∀ k < n, (x k).1 < 2 ∧ reachable s m it true (a + 4 * k) (x k) ∧ reachable s m it false (a + 4 * k) (x k)) →
    (∀ j < n, ∀ k < n, j ≠ k → (x j).1 = (x k).1 → ∀ b ∈ (x j).2, b ∉ (x k).2) →
    let old := ((List.range n).map fun k => (wordAt s (x k)).toNat * 2 ^ (32 * k)).sum
    let r := atomSpec sub (32 * n) old ((dword d 1).toNat % 2 ^ (32 * n)) ((dword d 2).toNat % 2 ^ (32 * n))
    ∃ t, s.perform m it key = t ∧ wrote s t (fun z v => ∃ k < n, z = x k ∧ ∃ new, r.1 = some new ∧ v = BitVec.ofNat 32 (new / 2 ^ (32 * k))) ∧
      (let ss := (t.coach m).sq.ss
       ((dword d 3).getLsbD 18 = false → ss = (s.coach m).sq.ss) ∧
       ((dword d 3).getLsbD 18 = true → peekBytes ss ret 8 = old ∧ ∀ p, p < ret ∨ ret + 8 ≤ p → peek ss p = peek (s.coach m).sq.ss p)) ∧
      t.item m it.id = some { it with todo := [], pieces := 1, wrote := r.1.isSome, flags := it.flags ||| r.2 }) ∧
  -- R312
  (∀ (s : State) (m : BitVec 3) (it : Item) (i : Nat), it.major = 3 → s.item m it.id = some it → 64 * i + 64 ≤ it.aux.length →
    let w3 := dword it.desc 3
    let b := w3.extractLsb' 0 6
    quietBank (s.coach it.coach) b →
    ∃ t aux, s.perform m it (4096 + i) = t ∧ aux.length = it.aux.length ∧
      (∀ k (h : k < aux.length) (h' : k < it.aux.length), aux[k] = if k / 64 = i then
        (laneOf ((s.coach it.coach).line b (w3.extractLsb' 6 14 + BitVec.ofNat 14 i)) (k % 64)).zeroExtend 64 else it.aux[k]) ∧
      t.item m it.id = some { it with todo := it.todo.erase (4096 + i), aux := aux } ∧ t.hbm = s.hbm) ∧
  (∀ (s : State) (m : BitVec 3) (it : Item) (e : Nat) (x : Nat → Spot), Calm s → it.major = 3 → s.item m it.id = some it → e < 4096 →
    let d := it.desc
    let mode := (it.sub.extractLsb' 0 2).toNat
    let rw := ((dword d 2).extractLsb' 0 32).toNat / 4
    let index := fun (o : Nat) => (it.aux.getD o 0).extractLsb' 0 32
    let same := fun (o : Nat) => o ∈ it.todo ∧ o / 64 = e / 64 ∧ index o = index e
    let row := rowSpec mode (index e).toInt ((dword d 3).extractLsb' 36 24).toNat
    let at_ := fun (o j : Nat) => (64 * ((dword d 1).extractLsb' 8 14).toNat + ((dword d 1).extractLsb' 22 6).toNat + o * rw + j) % 1048576
    e ∈ it.todo → rw ≤ 1048576 → 0 < ((dword d 3).extractLsb' 36 24).toNat →
    (∀ r, row = some r → ∀ j < rw, reachable s m it false
      (((dword d 0).extractLsb' 0 56).toNat + r.toNat * ((dword d 2).extractLsb' 32 32).toNat + 4 * j) (x j)) →
    let value := fun (j : Nat) => if row.isSome = true then wordAt s (x j) else if mode = 3 then (dword d 4).extractLsb' 0 32 else 0
    ∃ t ws it', s.perform m it e = t ∧ (t.coach it.coach).en.engq = (s.coach it.coach).en.engq ++ ws ∧
      t.hbm = s.hbm ∧ t.tier = s.tier ∧ t.host = s.host ∧
      (∀ w ∈ ws, w.bank = (dword d 1).extractLsb' 0 6 ∧ w.full = true ∧ w.item = some (m, it.id) ∧ same w.key ∧ ∀ k < 64,
        laneOf w.mask k = 0 ∨ laneOf w.mask k = BitVec.allOnes 32 ∧ ∃ j < rw, at_ w.key j = 64 * w.line.toNat + k ∧ laneOf w.v k = value j) ∧
      (∀ o, same o → ∀ j < rw, ∃ w ∈ ws, w.key = o ∧ w.line.toNat = at_ o j / 64 ∧ laneOf w.mask (at_ o j % 64) = BitVec.allOnes 32) ∧
      t.item m it.id = some it' ∧ (∀ o, o ∈ it'.todo ↔ o ∈ it.todo ∧ ¬ same o) ∧
      it'.oob = (it.oob || (decide (mode = 3) && row.isNone)) ∧ it'.pieces = it.pieces ∧ it'.flags = it.flags)

/-- PROBE, ENQ and CLOAD. A PROBE's piece pins the page at its cursor for the context on every coach it names, and moves the cursor on; a
walk that faults parks the item and writes one record in the fault ring, unless one stands for it; a full TLB and an error in a table
fail the item (R108, R110 to R112, R316; that the walk starts at the record's present ROOT is log 64, and what is withheld while the
ring is full log 54); the release form takes the pins of the range away. ENQ writes its record into slot QTAIL and advances the tail, or
fails with its sub-code and writes nothing, and an ENQ whose window's port may not send, or whose slot's page is on the move, waits with
nothing done, which is the model's reading (R67, R319, R359; log 43). CLOAD writes one bundle of the master's code store from 16 words of memory
(R320). Said of memories where no error waits. -/
def Obligations.ProbesEnqueuesCodeLoads : Prop :=
  (∀ (s : State) (m : BitVec 3) (it : Item) (key : Nat), it.major = 7 → s.item m it.id = some it →
    let acc := it.sub.extractLsb' 0 2
    let start := ((dword it.desc 0).extractLsb' 0 56).toNat
    let stop := start + ((dword it.desc 1).extractLsb' 0 48).toNat
    let a := (it.aux.headD 0).toNat
    acc ≠ 0 → a < stop → start ≠ stop →
    s.walkFor (s.hub.job (s.jobOf m)).root.toNat a (acc.getLsbD 0) (acc.getLsbD 1) = .error 5 → probeFails s m it key 5) ∧
  (∀ (s : State) (m : BitVec 3) (it : Item) (key : Nat), Calm s → it.major = 7 → s.item m it.id = some it →
    let acc := it.sub.extractLsb' 0 2
    let start := ((dword it.desc 0).extractLsb' 0 56).toNat
    let stop := start + ((dword it.desc 1).extractLsb' 0 48).toNat
    let a := (it.aux.headD 0).toNat
    let ctx := s.ctxOf m
    let w := s.walkFor (s.hub.job (s.jobOf m)).root.toNat a (acc.getLsbD 0) (acc.getLsbD 1)
    let h := s.hub
    (acc = 0 → ∃ t, s.perform m it key = t ∧ t.hub = s.hub ∧ t.hbm = s.hbm ∧
      (∀ c ∈ it.targets, ∀ p, p ∈ (t.coach c).en.tlb ↔ p ∈ (s.coach c).en.tlb ∧ ¬ (p.ctx = ctx ∧ p.page < stop ∧ start < p.page + 2 ^ p.size)) ∧
      (∀ c, c ∉ it.targets → (t.coach c).en.tlb = (s.coach c).en.tlb) ∧
      t.item m it.id = some { it with todo := [], pieces := it.pieces + 1 }) ∧
    (acc ≠ 0 → stop ≤ a ∨ start = stop → ∃ t, s.perform m it key = t ∧ t.item m it.id = some { it with todo := [] } ∧ t.hub = s.hub ∧ t.hbm = s.hbm) ∧
    (∀ l, acc ≠ 0 → a < stop → start ≠ stop → w = .ok l → (∃ c ∈ it.targets, 4096 ≤ (s.coach c).en.tlb.length ∧
      ∀ p ∈ (s.coach c).en.tlb, ¬ (p.ctx = ctx ∧ p.page = a - a % 2 ^ l.size)) → probeFails s m it key 4) ∧
    (∀ l, acc ≠ 0 → a < stop → start ≠ stop → w = .ok l → it.targets.Nodup →
      let page := a - a % 2 ^ l.size
      (∀ c ∈ it.targets, (s.coach c).en.tlb.length < 4096 ∨ ∃ p ∈ (s.coach c).en.tlb, p.ctx = ctx ∧ p.page = page) →
      ∃ t, s.perform m it key = t ∧ t.hub = s.hub ∧ t.hbm = s.hbm ∧ (∀ c, c ∉ it.targets → (t.coach c).en.tlb = (s.coach c).en.tlb) ∧
        (∀ c ∈ it.targets, let old := (s.coach c).en.tlb
          let new := (t.coach c).en.tlb
          (∀ p, ¬ (p.ctx = ctx ∧ p.page = page) → (p ∈ new ↔ p ∈ old)) ∧
          (∃ p ∈ new, p.ctx = ctx ∧ p.page = page ∧ (acc.getLsbD 0 = true → p.rd = true) ∧ (acc.getLsbD 1 = true → p.wr = true)) ∧
          ((∀ p ∈ old, ¬ (p.ctx = ctx ∧ p.page = page)) → new = old ++ [(⟨ctx, page, l.size, acc.getLsbD 0, acc.getLsbD 1, BitVec.ofNat 3 l.kind,
            BitVec.ofNat 56 l.tgt⟩ : Pin)])) ∧
        t.item m it.id = some { it with pieces := it.pieces + 1, aux := [BitVec.ofNat 64 (page + 2 ^ l.size)],
                                        todo := if stop ≤ page + 2 ^ l.size then [] else it.todo }) ∧
    (∀ c, acc ≠ 0 → a < stop → start ≠ stop → w = .error c → c ≠ 5 →
      let page := a / 65536 * 65536
      let size := (h.fbctl.extractLsb' 0 4).toNat
      let known : Prop := ∃ r ∈ h.fbrecs, r.page = page ∧ r.ctx = ctx ∧ r.acc = acc ∧ r.gen = h.fbgen
      let room : Prop := h.fbctl.getLsbD 4 = true ∧ 4 ≤ size ∧ (h.fbtail - h.fbhead).toNat ≠ 2 ^ size
      ∃ t, s.perform m it key = t ∧ t.item m it.id = some { it with phase := .fault, subc := BitVec.ofNat 8 c } ∧
        (known → t.hub = h ∧ t.hbm = s.hbm) ∧
        (¬ known → ¬ room → t.hub = { h with fbovf := true } ∧ t.hbm = s.hbm) ∧
        (¬ known → room →
          let at_ := hbmKey h.mode (h.fbbase.toNat + 32 * (h.fbtail.toNat % 2 ^ size))
          t.hub = { h with fbtail := h.fbtail + 1, fbrecs := h.fbrecs ++
            [(⟨h.fbtail, page, ctx, acc, h.fbgen, BitVec.ofNat 8 c, false⟩ : FaultRec)] } ∧
          (page < 2 ^ 56 → c < 256 → peekBytes t.hbm at_ 32 = page + c * 2 ^ 56 + ctx.toNat * 2 ^ 64 + it.coach.toNat * 2 ^ 76 +
            acc.toNat * 2 ^ 79 + h.fbgen.toNat * 2 ^ 128) ∧
          ∀ k, k < at_ ∨ at_ + 32 ≤ k → peek t.hbm k = peek s.hbm k))) ∧
  (∀ (s : State) (m : BitVec 3) (it : Item) (key : Nat) (p : Nat → Nat), Calm s → it.major = 13 → s.item m it.id = some it → it.aux.length = 16 →
    let q := (dword it.desc 0).extractLsb' 18 6
    let r := s.hub.queue q
    let a := r.slotAddr r.tail
    let why := if r.job ≠ s.jobOf m then 1 else if r.tailOk (r.tail + 1) = false then 2 else 3
    (s.enqueueHeld (s.jobOf m) q = true → s.perform m it key = s) ∧
    (r.job ≠ s.jobOf m ∨ r.tailOk (r.tail + 1) = false ∨ r.en = false → ∃ t it', s.perform m it key = t ∧ t.item m it.id = some it' ∧
      it'.phase = .failed ∧ it'.status = 9 ∧ it'.subc.toNat = why ∧ t.hbm = s.hbm ∧ t.tier = s.tier ∧ t.host = s.host ∧
      t.hub.launches = s.hub.launches ∧ (t.hub.queue q).tail = r.tail) ∧
    (r.job = s.jobOf m → r.tailOk (r.tail + 1) = true → r.en = true → a % 4 = 0 → s.enqueueHeld (s.jobOf m) q = false →
      s.hub.compressed = [] → inHbm s r.job a 128 true p → ∃ t l, s.perform m it key = t ∧
        cellOf t p a 128 = ((List.range 16).map fun i => (it.aux.getD i 0).toNat * 2 ^ (64 * i)).sum ∧
        (∀ k, (∀ i < 128, k ≠ cellKey s p a i) → peek t.hbm k = peek s.hbm k) ∧ t.tier = s.tier ∧ t.host = s.host ∧
        (t.hub.queue q).tail = r.tail + 1 ∧ t.hub.launches = s.hub.launches ++ [l] ∧ l.queue = q ∧ l.slot = r.tail ∧ l.job = r.job ∧
        l.began = false ∧ t.item m it.id = some { it with todo := [], pieces := 1, wrote := true })) ∧
  (∀ (s : State) (m : BitVec 3) (it : Item) (i : Nat) (x : Nat → Spot), Calm s → it.major = 14 → s.item m it.id = some it →
    canon (s.coach m).sq.code = true →
    (∀ k < 16, reachable s m it false (((dword it.desc 0).extractLsb' 0 56).toNat + 64 * i + 4 * k) (x k)) →
    let b := ((dword it.desc 1).extractLsb' 0 14).toNat + i
    ∃ t, s.perform m it i = t ∧ (∀ k < 16, (peek (t.coach m).sq.code b).extractLsb' (32 * k) 32 = wordAt s (x k)) ∧
      (∀ o, o ≠ b → peek (t.coach m).sq.code o = peek (s.coach m).sq.code o) ∧ (t.coach m).sq.x = (s.coach m).sq.x ∧
      (t.coach m).sq.ss = (s.coach m).sq.ss ∧ t.hbm = s.hbm ∧ t.tier = s.tier ∧ t.host = s.host ∧
      t.item m it.id = some { it with todo := it.todo.erase i, pieces := it.pieces + 1, wrote := true })

/-- What an RSOLVE builds (R245 to R248). Each line of its list is read into its place; at the acceptance the solver takes the image and
the mark of the list as read. A read entry's fan table and enables name, for each listed terminal, the indexed one that its index
gives, the zero or the pad port by mode, or nothing; every switch is straight. A write entry enables the destinations that are named.
Either takes the template's control line. Mode strict is marked by an index out of range, and for a write entry by a destination named
twice. -/
def Obligations.SolverImages : Prop :=
  (∀ (s : State) (m : BitVec 3) (it : Item) (i : Nat), it.major = 15 → s.item m it.id = some it → 64 * i + 64 ≤ it.aux.length →
    let w0 := dword it.desc 0
    let b := w0.extractLsb' 18 6
    quietBank (s.coach it.coach) b →
    ∃ t aux, s.perform m it i = t ∧ aux.length = it.aux.length ∧
      (∀ k (h : k < aux.length) (h' : k < it.aux.length), aux[k] = if k / 64 = i then
        (laneOf ((s.coach it.coach).line b (w0.extractLsb' 24 14 + BitVec.ofNat 14 i)) (k % 64)).zeroExtend 64 else it.aux[k]) ∧
      t.item m it.id = some { it with todo := it.todo.erase i, aux := aux } ∧ t.hbm = s.hbm) ∧
  (∀ (s : State) (c : BitVec 3) (id : Nat) (it : Item), s.item c id = some it → s.solverFree it.coach = true →
    ∃ t sw, exec (.rsolveAccept c id) s = .next t ∧ (t.coach it.coach).en.switches = (s.coach it.coach).en.switches ++ [sw] ∧
      (sw.img, sw.oob) = solveImage (s.coach it.coach).en it s.draw ∧ sw.write = it.sub.getLsbD 2 ∧ sw.cb = it.strictBit) ∧
  (∀ (e : Engine) (it : Item) (draw lim : Nat), checkSolve lim it.desc = [] →
    let mode := (it.sub.extractLsb' 0 2).toNat
    let r := solveImage e it draw
    let img := fun (i : Nat) => r.1.getD i 0
    let listed := fun (t : Nat) => solveFbase it ≤ t ∧ t < solveFbase it + solveFcnt it
    let index := fun (t : Nat) => solveIndex it (t - solveFbase it)
    let tmpl := (dword it.desc 0).extractLsb' 9 9
    (it.sub.getLsbD 2 = false → r.1.length = 50 ∧ (∀ i < 23, img i = 0) ∧ img 47 = e.routeLine false tmpl 47 ∧
      (∀ t < 4096,
        let driven : Prop := listed t ∧ index t ≠ -32768
        let from_ := match solveTarget it (index t) with
          | some o => o
          | none => if mode = 3 then 3840 + t % 64 else 3968 + t % 64
        ((img (48 + t / 2048)).getLsbD (t % 2048) = true ↔ driven) ∧
        ∀ b < 12, ((img (23 + (12 * t + b) / 2048)).getLsbD ((12 * t + b) % 2048) = true ↔ driven ∧ from_.testBit b = true)) ∧
      (r.2 = true ↔ mode = 3 ∧ ∃ o < solveFcnt it, solveOut it (solveIndex it o))) ∧
    (it.sub.getLsbD 2 = true → r.1.length = 26 ∧ img 23 = e.routeLine true tmpl 23 ∧
      (∀ t < 4096, (img (24 + t / 2048)).getLsbD (t % 2048) = true ↔ ∃ o, solveKeeps it t o) ∧
      (r.2 = true ↔ mode = 3 ∧ ((∃ o < solveFcnt it, solveOut it (solveIndex it o)) ∨
        ∃ o p t, o < p ∧ p < solveFcnt it ∧ solveTarget it (solveIndex it o) = some t ∧ solveTarget it (solveIndex it p) = some t))))

/-- The switches of a write entry that RSOLVE builds carry each source that it routes to its destination: the highest listed source that
names a destination drives it (R241, R247), whichever of the free choices the solver takes. A read entry, whose switches are straight
and whose fan table routes, is the statement before. -/
def Obligations.SolverRoutes : Prop :=
  ∀ (e : Engine) (it : Item) (draw lim : Nat), checkSolve lim it.desc = [] → it.sub.getLsbD 2 = true →
    ∀ t o, solveKeeps it t o → writeSource (fun i => (solveImage e it draw).1.getD i 0) t = solveFbase it + o

/-! ### The fabric (R340 to R357) -/

/-- What a laneset receives and loses. A flit that no decoding opens is NAKed once and counted; a good idle flit in its turn
advances the number received and drops what its ACK covers (R341 to R343). A NAK has the named flit and all after it sent again,
the fourth takes the laneset down alone for 100 µs, and the port DOWN when no other is up; without a relock it is lost with an event
of kind 2, and the port goes DOWN when none is left (R344, R352). A piece that such a laneset had not delivered is performed again on
the others; one that was performed again already fails its item with status 7, lasting, and an answer so lost tells its peer of a lasting error
(R344 says lasting; that it is 7 while other lanesets are up is the model's reading, logs 31 and 41). The sender keeps a REMAP; a remap's switch gives the position to the spare, retires the old channel and
counts (R346). A marker is kept, and an OPEN port with a laneset that is up quiesces (R352). A laneset locks on the identity that the
active slot names, which opens a RELOCK port, one that locks while its port quiesces sends its own marker, and another identity sends
the port to QUARANTINE with an event of kind 4 (R352, R353). The peer's state at a lock, what a lost answer becomes, and what a flit's
number means for flits of the link itself, are the model's choice (logs 31, 45, 60). -/
def Obligations.LanesetsReceive : Prop :=
  ∀ (s : State) (p l : BitVec 3),
    let o := s.port p
    let k := o.lane l
    (∀ bits : Line, s.plat.powered = true → o.st = 2 → flitOpen bits = none → k.nakking = false →
      ∃ t, exec (.flitReceive p l bits) s = .next t ∧ ((t.port p).lane l).nakking = true ∧
        ((t.port p).lane l).ctl = k.ctl ++ [.nak (k.rxseq + 1)] ∧ ((t.port p).lane l).count[3] = k.count[3] + 1 ∧
        ((t.port p).lane l).rxseq = k.rxseq ∧ ((t.port p).lane l).sent = k.sent) ∧
    (∀ (bits : Line) (h : BitVec 64) (pay : BitVec 1792) (seq ack : BitVec 16) (diff : List Nat), s.plat.powered = true → o.st = 2 →
      flitOpen bits = some (h, pay, seq, ack, diff) → h.extractLsb' 0 4 = 0 → seq = k.rxseq + 1 → k.switches = [] →
      ∃ t, exec (.flitReceive p l bits) s = .next t ∧ ((t.port p).lane l).rxseq = seq ∧ ((t.port p).lane l).nakking = false ∧
        ((t.port p).lane l).count[1] = k.count[1] + 1 ∧ (t.port p).st = 2 ∧
        ((t.port p).lane l).sent = k.sent.filter (fun f => decide (32768 ≤ (ack - f.seq).toNat))) ∧
    (∀ (n : BitVec 16) (f : SentFlit), k.sent.find? (fun f => f.seq = n) = some f →
      (f.naks < 3 → ∃ t, exec (.linkNakReceive p l n) s = .next t ∧ ((t.port p).lane l).up = k.up ∧ t.out = s.out ∧
        ((t.port p).lane l).replay = (k.sent.filter fun g => decide ((g.seq - n).toNat < 32768)).map (·.seq)) ∧
      (3 ≤ f.naks → ∃ t, exec (.linkNakReceive p l n) s = .next t ∧ ((t.port p).lane l).up = false ∧
        ((∃ j, j ≠ l ∧ (o.lane j).up = true) → (t.port p).st = o.st ∧ ((t.port p).lane l).relock = some s.now ∧
          (s.now + 900000, 0, Instr.lanesetRelockTimeout p l s.now) ∈ t.timers) ∧
        ((∀ j, j ≠ l → (o.lane j).up = false) → (t.port p).st = 0))) ∧
    (∀ stamp, k.relock = some stamp → (k.sent.filter fun f => isPiece f.msg) = [] →
      ∃ t, exec (.lanesetRelockTimeout p l stamp) s = .next t ∧ (s.fab.evF.length < 256 → ∃ e, e ∈ t.fab.evF ∧ e.extractLsb' 0 4 = 2) ∧
        (o.ups ≠ [] → (t.port p).st = o.st ∧ ((t.port p).lane l).lost = true ∧ ((t.port p).lane l).relock = none ∧ ((t.port p).lane l).sent = []) ∧
        (o.ups = [] → (t.port p).st = 0)) ∧
    (∀ stamp, k.relock = some stamp → o.ups ≠ [] →
      let under := k.sent.filter fun f => isPiece f.msg
      let again := fun (f : SentFlit) => (f.wait, f.msg, if 8 ≤ f.src ∧ f.src < 16 then 9 else 16 + f.src % 16)
      ((∀ f ∈ under, f.src ≠ 9) → ∃ t, exec (.lanesetRelockTimeout p l stamp) s = .next t ∧ t.fab.relay = under.map again ++ s.fab.relay ∧
        ((t.port p).lane l).sent = [] ∧ ((t.port p).lane l).replay = [] ∧ ((t.port p).lane l).lost = true ∧ (t.port p).st = o.st ∧
        t.coaches = s.coaches ∧ (s.fab.evF.length < 256 → ∃ e, t.fab.evF = s.fab.evF ++ [e] ∧ e.extractLsb' 0 4 = 2)) ∧
      (∀ f c id it, under = [f] → f.src = 9 → pieceItem f.msg = some (c, id) → s.item c id = some it →
        ∃ t it', exec (.lanesetRelockTimeout p l stamp) s = .next t ∧ t.fab.relay = s.fab.relay ∧ ((t.port p).lane l).sent = [] ∧
          t.item c id = some it' ∧ it'.phase = .failed ∧ it'.status = 7 ∧ it'.out = [] ∧ it'.lasting = true) ∧
      (∀ f, under = [f] → f.src = 9 → pieceItem f.msg = none →
        ∃ t, exec (.lanesetRelockTimeout p l stamp) s = .next t ∧ t.fab.relay = (f.wait, lostAnswer f.msg, 9) :: s.fab.relay ∧
          t.coaches = s.coaches)) ∧
    (∀ stamp, k.relock ≠ some stamp → exec (.lanesetRelockTimeout p l stamp) s = .next s) ∧
    (∀ (pos : BitVec 6) (spare : BitVec 7) (n : BitVec 16), exec (.remapReceive p l pos spare n) s = .next (s.onPort p fun o =>
      o.onLane l fun k => { k with txmap := (pos, spare, n) :: k.txmap.filter fun e => e.1 ≠ pos })) ∧
    (∀ (pos : BitVec 6) (spare : BitVec 7), ∃ t, exec (.remapSwitch p l pos spare) s = .next t ∧ (t.port p).rgen = o.rgen + 1 ∧
      ((t.port p).lane l).carrier pos = spare ∧ (((t.port p).lane l).chan spare).role = 0 ∧
      (k.carrier pos ≠ spare → (((t.port p).lane l).chan (k.carrier pos)).role = 2) ∧ ((t.port p).lane l).count[5] = k.count[5] + 1 ∧
      ((t.port p).lane l).up = k.up) ∧
    (∃ t, exec (.drainMarkerReceive p l) s = .next t ∧ ((t.port p).lane l).marker = true ∧
      (o.st = 2 → o.ups ≠ [] → (t.port p).st = 3 ∧ (s.now + 900000, 0, Instr.quiesceTimeout p s.now) ∈ t.timers) ∧
      (o.st ≠ 2 → o.st ≠ 3 → (t.port p).st = o.st)) ∧
    (∀ (pkg : BitVec 10) (port : BitVec 3),
      (o.st = 1 ∨ o.st = 2 ∨ o.st = 3 → pkg = o.peerPkg → port = o.peerPort →
        ∃ t, exec (.lanesetLock p l pkg port) s = .next t ∧ ((t.port p).lane l).up = true ∧ ((t.port p).lane l).lost = false ∧
          (o.st = 1 → (t.port p).st = 2 ∧ (t.port p).peer = 2) ∧ (o.st ≠ 1 → (t.port p).st = o.st) ∧
          (o.st = 3 → .marker ∈ ((t.port p).lane l).ctl ∨ ∃ f ∈ ((t.port p).lane l).sent, f.msg = .marker)) ∧
      (o.st = 1 ∨ o.st = 2 ∨ o.st = 3 → (pkg ≠ o.peerPkg ∨ port ≠ o.peerPort) →
        ∃ t, exec (.lanesetLock p l pkg port) s = .next t ∧ (t.port p).st = 6 ∧
          (s.fab.evF.length < 256 → ∃ e ∈ t.fab.evF, e.extractLsb' 0 4 = 4)) ∧
      (¬ (o.st = 1 ∨ o.st = 2 ∨ o.st = 3) → exec (.lanesetLock p l pkg port) s = .next s))

/-- Ports, calendars and channels. QREQ quiesces an OPEN port, DOWNREQ takes a port DOWN and holds it, QCLR and RELOCK leave the
state or the hold they name (R352); light tests repeat and may start a RELOCK; the timeouts end RELOCK and QUIESCING that are
still the same (R352); the peer's state is kept. A slot boundary takes the slot its beat begins, a calendar switch takes the
shadow calendar at slot 0 with an event of kind 9, CSW arms once, SCAL and the shadow are written while none is armed, each
refusal posting kind 11 (R347, R350, R351); a snapshot takes all counters (R348); FRMAP starts a remap (R346); the route
table takes its entry (R354). A correction window ends with every count at zero (R346), a refresh adds to the on-time of
lit data channels, and an hourly sample joins the last 512 and projects the end of life (R349). The on-time that a refresh adds, the
projection's arithmetic and the times of tests and samples are the model's choice (logs 18, 27, 32). -/
def Obligations.PortsAndCalendars : Prop :=
  ∀ (s : State) (p : BitVec 3) (v : Word),
    let o := s.port p
    let one := fun (i : Instr) (P : State → Prop) => ∃ t, exec i s = .next t ∧ P t
    let posted := fun (n : BitVec 4) (t : State) => s.fab.evF.length < 255 → ∃ e ∈ t.fab.evF, e.extractLsb' 0 4 = n
    -- R352
    (o.st = 2 → one (.pctlQreq p) fun t => (t.port p).st = 3 ∧ (s.now + 900000, 0, Instr.quiesceTimeout p s.now) ∈ t.timers) ∧
    (o.st ≠ 2 → exec (.pctlQreq p) s = .next s) ∧
    one (.pctlDownreq p) (fun t => (t.port p).st = 0 ∧ (t.port p).dhold = true ∧ (t.port p).ups = []) ∧
    (o.st = 6 → one (.pctlQclr p) fun t => (t.port p).st = (if o.dark = true then 5 else 1) ∧ posted 5 t) ∧
    (o.st = 0 → exec (.pctlQclr p) s = .next (s.onPort p fun o => { o with dhold := false }) ∧
      exec (.pctlRelock p) s = .next (s.onPort p fun o => { o with dhold := false })) ∧
    (o.st = 4 → one (.pctlRelock p) fun t => (t.port p).st = 1 ∧ (s.now + 900000, 0, Instr.portRelockTimeout p s.now) ∈ t.timers) ∧
    one (.lightTest p) (fun t => (s.now + 9000000, 0, Instr.lightTest p) ∈ t.timers ∧
      ((t.port p).st = o.st ∨
        (o.st = 0 ∧ o.dhold = false ∧ o.dark = false ∧ s.plat.safe = false ∧ 7 < s.plat.step.toNat ∧ (t.port p).st = 1))) ∧
    (o.st = 1 → one (.portRelockTimeout p o.stamp) fun t => (t.port p).st = 0 ∧ (t.port p).dhold = o.dhold) ∧
    (o.st ≠ 1 → exec (.portRelockTimeout p o.stamp) s = .next s) ∧
    (o.st = 3 → one (.quiesceTimeout p o.stamp) fun t => (t.port p).st = 4) ∧
    (o.st ≠ 3 → exec (.quiesceTimeout p o.stamp) s = .next s) ∧
    (∀ st, one (.peerStateReport p st) fun t => (t.port p).peer = st ∧ (t.port p).st = o.st ∧
      (st = 2 ∨ st = 3 → t = s.onPort p fun o => { o with peer := st })) ∧
    -- R350, R351
    (o.nsm = 0 → exec (.slotBoundary p) s = .next s) ∧
    (o.nsm ≠ 0 → one (.slotBoundary p) fun t => (t.port p).slot = BitVec.ofNat 6 ((s.hub.dbeat.toNat - o.swBeat) / o.slotb % (o.nsm + 1)) ∧
      (t.port p).active = o.active ∧ (o.st = 0 ∨ o.st = 6 → (t.port p).st = o.st) ∧
      (o.st ≠ 0 → o.st ≠ 6 → (t.port p).st = if (t.port p).dark = true then 5 else 1)) ∧
    one (.calendarSwitch p) (fun t => (t.port p).active = o.shadow ∧ (t.port p).acal = o.scal ∧ (t.port p).cgen = o.cgen + 1 ∧
      (t.port p).slot = 0 ∧ (t.port p).swBeat = s.hub.dbeat.toNat ∧ (t.port p).armed = false ∧ posted 9 t ∧
      (o.st = 0 → (t.port p).st = 0)) ∧
    (o.armed = true → one (.cswWrite p v) (fun t => t.fab.ports = s.fab.ports ∧ posted 11 t) ∧
      ∀ off, one (.shadowCalendarWrite p off v) (fun t => t.fab.ports = s.fab.ports ∧ posted 11 t)) ∧
    (o.armed = false → exec (.cswWrite p v) s = .next (s.onPort p fun o => { o with csw := v.extractLsb' 0 48, armed := true }) ∧
      one (.shadowCalendarWrite p 0x010 v) (fun t => (t.port p).scal = (if v.extractLsb' 6 10 = 0 then v.extractLsb' 0 16 ||| 0x40 else v.extractLsb' 0 16) ∧
        (t.port p).shadow = o.shadow) ∧
      ∀ i : Fin 64, one (.shadowCalendarWrite p (BitVec.ofNat 12 (0x600 + 8 * i.val)) v) fun t => (t.port p).shadow = o.shadow.set i (v.extractLsb' 0 14) ∧
        (t.port p).scal = o.scal) ∧
    -- R346, R348, R349, R354
    one (.snapTake p) (fun t => (t.port p).snapValid = true ∧ (t.port p).snapTake = false ∧ (t.port p).snapRgen = o.rgen ∧
      ∀ (l : BitVec 3) (i : Fin 7), ((t.port p).lane l).snap[i] = (o.lane l).count[i] ∧ ((t.port p).lane l).count = (o.lane l).count) ∧
    (∀ pos sp, (o.lane (v.extractLsb' 0 3)).carried (v.extractLsb' 3 7) = some pos → (o.lane (v.extractLsb' 0 3)).spare = some sp →
      (o.lane (v.extractLsb' 0 3)).switches = [] →
      one (.frmapWrite p v) fun t => let l := v.extractLsb' 0 3
        ((t.port p).lane l).switches = [(pos, sp, (o.lane l).rxseq + 16)] ∧
        ((t.port p).lane l).ctl = (o.lane l).ctl ++ [.remap pos sp ((o.lane l).rxseq + 16)]) ∧
    (canon s.fab.routes = true → ∀ n : BitVec 10, one (.routeTableWrite n v) fun t => t.fab.route n = v.extractLsb' 0 20 ∧
      ∀ m, m ≠ n → t.fab.route m = s.fab.route m) ∧
    one .correctionWindowEnd (fun t => t.hub = s.hub ∧
      ∀ (p l : BitVec 3) (c : BitVec 7), (((t.port p).lane l).chan c).window = 0) ∧
    one .ageingRefresh (fun t => (∀ l : BitVec 3, (o.lane l).up = true → ∃ w, ((t.port p).lane l).ctl = (o.lane l).ctl ++ [.power w]) ∧
      ∀ (p l : BitVec 3) (c : BitVec 7), c.toNat < 68 →
        let ch := ((s.port p).lane l).chan c
        (((t.port p).lane l).chan c).ont = (if (s.port p).st ≠ 0 ∧ (s.port p).st ≠ 5 ∧ ch.role = 0 then ch.ont + 1048576 else ch.ont) ∧
        (((t.port p).lane l).chan c).role = ch.role ∧ (((t.port p).lane l).chan c).samples = ch.samples ∧
        (((t.port p).lane l).chan c).prxp = ((s.port p).lane l).power.getD c.toNat 0) ∧
    one .effHourlySample (fun t => (s.now + 32400000000000, 0, Instr.effHourlySample) ∈ t.timers ∧
      ∀ (p l : BitVec 3) (c : BitVec 7), c.toNat < 68 →
        let ch := ((s.port p).lane l).chan c
        let all := ch.samples ++ [ch.eff]
        (((t.port p).lane l).chan c).samples = all.drop (all.length - 512) ∧
        (((t.port p).lane l).chan c).eolh = projectedHours (all.drop (all.length - 512)) s.fab.eolth ∧
        (((t.port p).lane l).chan c).ont = ch.ont)

/-! ### Registers, management, power and resets (R358, R365 to R382) -/

/-- The payload of a management response. -/
def Sys2Proof.Claims.mgmtPayload : Output → List Byte
  | .mgmt _ _ _ _ b _ => b
  | _ => []

/-- A management response to a request with its TAG under a key: KMAC256 of SEQ, OP, STATUS, the payload's length, zero, OFFSET and
the payload, little-endian (R378). -/
def Sys2Proof.Claims.sealed (key : BitVec 256) (m : Datagram) (op status : BitVec 8) (off : Word) (b : List Byte) : Output :=
  let le := fun (v : Word) (n : Nat) => (List.range n).map fun j => v.extractLsb' (8 * j) 8
  .mgmt m.seq op status off b (Config.kmac256 key
    (le m.seq 8 ++ [op, status] ++ le (BitVec.ofNat 64 b.length) 2 ++ [0, 0, 0, 0] ++ le off 8 ++ b))

/-- The register window and the management port. A write of firmware reaches its register, reserved bits apart (R358), and an
unaligned one does nothing (the model's choice, log 61); an event queue's read returns the oldest event and takes it off, the rest of
an event standing in HEVT1 to HEVT3 (R357, R373); a counter is returned and cleared (R371). A management request that is not dropped,
in a start that is ready and with a key set where its OP needs one, is answered with status 0 and a TAG and performed: READ, WRITE,
WARM, COLD, ATTEST, FLASH, SVN, KEY; an unknown OP is answered with status 1 and does nothing (R374 to R379). The report's field sizes
and the moments of responses are the model's choice (logs 11, 33). -/
def Obligations.RegistersAndManagement : Prop :=
  (∀ (s : State) (v : Word) (i : Fin 64),
    (∀ off : BitVec 20, off.toNat % 8 ≠ 0 → exec (.registerWrite off v) s = .next s) ∧
    exec (.registerWrite (BitVec.ofNat 20 (0x10000 + 0x40 * i.val)) v) s =
      .next (s.onQueue (BitVec.ofNat 6 i.val) fun r => { r with base := v.extractLsb' 7 49 ++ 0#7 }) ∧
    exec (.registerWrite (BitVec.ofNat 20 (0x10008 + 0x40 * i.val)) v) s =
      .next (s.onQueue (BitVec.ofNat 6 i.val) fun r => { r with ctl := v.extractLsb' 0 26 }) ∧
    exec (.registerWrite 0x0F010 v) s = .next { s with hub := { s.hub with pdead := v.extractLsb' 0 24 } } ∧
    exec (.registerWrite 0x0F018 v) s = .next { s with hub := { s.hub with slice := v.extractLsb' 0 24 } } ∧
    exec (.registerWrite 0x0F020 v) s = .next { s with hub := { s.hub with wdef := v.extractLsb' 0 16 } } ∧
    exec (.registerWrite 0x0F110 v) s = .next { s with hub := { s.hub with pgroup := v.extractLsb' 0 16 } } ∧
    exec (.registerWrite 0x2F000 v) s = .next { s with fab := { s.fab with pkgid := v.extractLsb' 0 10 } } ∧
    exec (.registerWrite 0x2F010 v) s = .next { s with fab := { s.fab with hto := if v.extractLsb' 0 32 = 0 then 1 else v.extractLsb' 0 32 } } ∧
    exec (.registerWrite 0x0F100 v) s = .next s) ∧
  (∀ (s : State) (e : Word) (r : List Word), (s.fab.evF = e :: r →
      exec .fevtfRead s = .next { s with fab := { s.fab with evF := r }, out := s.out ++ [.reg 0x2F020 e] }) ∧
    (s.fab.evM = e :: r → exec .fevtmRead s = .next { s with fab := { s.fab with evM := r }, out := s.out ++ [.reg 0x2F028 e] }) ∧
    (s.fab.evF = [] → exec .fevtfRead s = .next { s with out := s.out ++ [.reg 0x2F020 0] })) ∧
  (∀ (s : State) (a b c d : Word) (r : List (Word × Word × Word × Word)), s.plat.events = (a, b, c, d) :: r →
    exec .hevt0Read s = .next { s with plat := { s.plat with events := r, latched := (b, c, d) }, out := s.out ++ [.reg 0x0D040 a] }) ∧
  (∀ (s : State) (b : Fin 17) (j : Fin 7), canon s.plat.errors = true →
    let n := 8 * b.val + j.val
    let off := BitVec.ofNat 20 (0xD100 + 8 * n)
    ∃ t, exec (.rcCounterRead off) s = .next t ∧ t.out = s.out ++ [.reg off (peek s.plat.errors n)] ∧
      (∀ m, peek t.plat.errors m = if m = n then 0 else peek s.plat.errors m) ∧ t.hub = s.hub ∧ t.fab = s.fab) ∧
  (∀ s : State, exec (.rcCounterRead 0x0E058) s =
    .next { s with hub := { s.hub with thcnt := 0 }, out := s.out ++ [.reg 0x0E058 (s.hub.thcnt.zeroExtend 64)] }) ∧
  (∀ (s : State) (m : Datagram), s.plat.safe = true ∨ s.plat.step = 0xFF →
    let s1 : State := { s with plat := { s.plat with lastSeq := some m.seq } }
    let val := ((List.range m.payload.length).map fun j => (m.payload.getD j 0).toNat * 256 ^ j).sum
    let heard := fun (op : BitVec 8) => s.plat.drops { m with op := op } = false
    let key := s.plat.mkey
    let ok := fun (op : BitVec 8) (data : List Byte) (s : State) => s.send (sealed s.plat.mkey m op 0 m.offset data)
    let due := s.agenda.filter isDatagram ++ [.boot]
    let window : Prop := m.offset.toNat < 2 ^ 20 ∧ m.offset.toNat % 8 = 0
    (heard 1 → window → exec (.mgmtRead m) s = .next (ok 1 ((List.range 8).map fun j => (s1.regRead m.offset.toNat).1.extractLsb' (8 * j) 8)
      (s1.regRead m.offset.toNat).2)) ∧
    (heard 8 → m.payload.length = 32 →
      exec (.mgmtKey m) s = .next (ok 8 [] { s1 with plat := { s1.plat with mkey := BitVec.ofNat 256 val } })) ∧
    (s.plat.mkey ≠ 0 →
      (heard 2 → window → m.payload.length = 8 →
        exec (.mgmtWrite m) s = .next ((ok 2 [] s1).regWrite false m.offset.toNat (BitVec.ofNat 64 val))) ∧
      (heard 3 → ∃ t, exec (.mgmtWarm m) s = .next t ∧ t.out = s.out ++ [sealed key m 3 0 m.offset []] ∧ t.agenda = due ∧
        t.coaches = State.reset.coaches ∧ t.tier = s.tier ∧ t.hub.mode = s.hub.mode ∧ t.plat.mkey = s.plat.mkey) ∧
      (heard 4 → ∃ t, exec (.mgmtCold m) s = .next t ∧ t.out = s.out ++ [sealed key m 4 0 m.offset []] ∧ t.agenda = due ∧
        t.coaches = State.reset.coaches ∧ t.tier = s.tier ∧ t.hbm = [] ∧ t.hub = .reset ∧ t.plat.mkey = s.plat.mkey) ∧
      (heard 5 → m.payload.length = 32 → ∃ rs, exec (.mgmtAttest m) s = .next { s1 with out := s.out ++ rs } ∧
        rs.flatMap mgmtPayload = s1.report m.payload ∧
        ∀ r ∈ rs, (mgmtPayload r).length ≤ 1024 ∧ ∃ off, r = sealed key m 5 0 off (mgmtPayload r)) ∧
      (heard 6 → m.offset.toNat < 2 ^ 42 → m.payload.length ≤ 1024 → canon s.plat.flash = true →
        ∃ t, exec (.mgmtFlash m) s = .next t ∧ t.out = s.out ++ [sealed key m 6 0 m.offset []] ∧ t.hub = s.hub ∧
          ∀ j < m.payload.length, peek t.plat.flash (m.offset.toNat / 2 ^ 40 * 2 ^ 40 + (m.offset.toNat % 2 ^ 40 + j) % 2 ^ 40) =
            (1#1 ++ m.payload.getD j 0)) ∧
      (heard 7 → m.payload.length = 4 → s.plat.minsvn.toNat ≤ val →
        exec (.mgmtSvn m) s = .next (ok 7 [] { s1 with plat := { s1.plat with minsvn := BitVec.ofNat 32 val } })) ∧
      (heard m.op → (m.op = 0 ∨ 8 < m.op.toNat) → exec (.mgmtUnknownOp m) s = .next (s1.send (sealed key m m.op 1 m.offset [])))))

/-- Power, temperature and resets. A die gates with an event of kind 6 and ends with one of kind 7 (R382); above the cap the
highest-numbered place gates with an event of kind 8, and 50 W below it gating ends with one of kind 9; PCAP is kept within 800 to
2,600, and the PMEAS that stands is held against a new one at once (R381); a coach's island takes its state, and no island changes under a context, switching a memory island off losing its banks
(R380). A cold reset loses HBM and keeps flash, tier and host memory; a warm reset keeps HBM, the mode, the identity, FCTL and the
start record with its next place (R6, R357, R370); of what was due, only the management datagrams that have arrived are still answered
(the model's choice, log 33), and a cold reset keeps the ring of the start record and begins it anew (log 26); SRSTAT.CLR adds one entry of kind 5 first (R365, R369). A shutdown and a loss of power leave the module
without power and the shutdown an entry in the start record (R368, R382). -/
def Obligations.PowerAndResets : Prop :=
  ∀ (s : State) (die : BitVec 5) (meas : BitVec 12) (v : Word) (st : BitVec 2),
    let room := s.plat.events.length < 256
    let ev := fun (k n : Nat) => (BitVec.ofNat 64 (k + n * 2 ^ 8 + s.hub.pbeat.toNat % 2 ^ 32 * 2 ^ 32), (0 : Word), (0 : Word), (0 : Word))
    (die ∉ s.plat.hot → room → exec (.thermalGateBegin die) s =
      .next { s with plat := { s.plat with hot := s.plat.hot ++ [die], events := s.plat.events ++ [ev 6 die.toNat] } }) ∧
    (die ∈ s.plat.hot → exec (.thermalGateBegin die) s = .next s) ∧
    (die ∈ s.plat.hot → room → exec (.thermalGateEnd die) s =
      .next { s with plat := { s.plat with hot := s.plat.hot.filter (fun d => d ≠ die), events := s.plat.events ++ [ev 7 die.toNat] } }) ∧
    (s.plat.pcap.toNat < meas.toNat → s.plat.gated = [] → s.plat.capped = false → room → exec (.powerCapEngage meas) s =
      .next { s with plat := { s.plat with pmeas := meas, gated := s.placeOfCoach 7, capped := true, events := s.plat.events ++ [ev 8 0] } }) ∧
    (meas.toNat ≤ s.plat.pcap.toNat → exec (.powerCapEngage meas) s = .next { s with plat := { s.plat with pmeas := meas } }) ∧
    (s.plat.capped = true → meas.toNat + 50 ≤ s.plat.pcap.toNat → room → exec (.powerCapRelease meas) s =
      .next { s with plat := { s.plat with pmeas := meas, gated := [], capped := false, events := s.plat.events ++ [ev 9 0] } }) ∧
    (s.plat.capped = false → exec (.powerCapRelease meas) s = .next { s with plat := { s.plat with pmeas := meas } }) ∧
    (let n : BitVec 12 := BitVec.ofNat 12 (max 800 (min 2600 (v.extractLsb' 0 12).toNat))
      let at_ := s.plat.pmeas.toNat
      (∃ t, exec (.pcapWrite v) s = .next t ∧ t.plat.pcap = n ∧ t.plat.pmeas = s.plat.pmeas ∧ t.coaches = s.coaches ∧ t.hbm = s.hbm) ∧
      (at_ ≤ n.toNat → s.plat.capped = false ∨ n.toNat < at_ + 50 → exec (.pcapWrite v) s = .next { s with plat := { s.plat with pcap := n } }) ∧
      (n.toNat < at_ → s.plat.gated = [] → s.plat.capped = false → room → exec (.pcapWrite v) s = .next { s with plat := { s.plat with
        pcap := n, gated := s.placeOfCoach 7, capped := true, events := s.plat.events ++ [ev 8 0] } }) ∧
      (at_ + 50 ≤ n.toNat → s.plat.capped = true → room → exec (.pcapWrite v) s = .next { s with plat := { s.plat with
        pcap := n, gated := [], capped := false, events := s.plat.events ++ [ev 9 0] } })) ∧
    (∀ i : Fin 26, 16 ≤ i.val ∨ st = 3 ∨ (st ≠ 2 ∧ (s.coach (BitVec.ofNat 3 i.val)).unit ≠ none) →
      exec (.islandStateRequest (BitVec.ofNat 5 i.val) st) s = .next s) ∧
    (∀ i : Fin 26, i.val < 16 → st ≠ 3 → (st = 2 ∨ (s.coach (BitVec.ofNat 3 i.val)).unit = none) →
      ∃ t, exec (.islandStateRequest (BitVec.ofNat 5 i.val) st) s = .next t ∧ t.plat.islands = s.plat.islands.set i st ∧
        (8 ≤ i.val → st = 0 → (t.coach (BitVec.ofNat 3 i.val)).en.banks = []) ∧
        (i.val < 8 ∨ st ≠ 0 → t.coaches = s.coaches) ∧ t.hbm = s.hbm) ∧
    (∃ t, exec .coldReset s = .next t ∧ t.agenda = s.agenda.filter isDatagram ++ [.boot] ∧ t.plat.srnext = 0 ∧ t.hbm = [] ∧ t.tier = s.tier ∧ t.host = s.host ∧ t.hub = .reset ∧
      t.coaches = State.reset.coaches ∧ t.plat.ring = s.plat.ring ∧ t.plat.flash = s.plat.flash ∧ t.plat.start = s.plat.start ∧
      t.plat.safe = false ∧ t.fab.pkgid = 0 ∧ t.plat.powered = true) ∧
    (∀ i ∈ [Instr.warmReset, .srstatWarmWrite, .srstatClrWrite], ∃ t, exec i s = .next t ∧
      t.agenda = s.agenda.filter isDatagram ++ [.boot] ∧ t.tier = s.tier ∧ t.host = s.host ∧
      (s.viewLog = [] → t.hbm = s.hbm) ∧ t.coaches = State.reset.coaches ∧ t.hub.mode = s.hub.mode ∧ t.hub.run = false ∧
      t.fab.pkgid = s.fab.pkgid ∧ t.fab.bsrc = s.fab.bsrc ∧ t.fab.blost = s.fab.blost ∧ t.fab.rhops = s.fab.rhops ∧ t.plat.start = s.plat.start ∧ t.plat.mkey = s.plat.mkey ∧ t.plat.safe = false ∧
      (i ≠ .srstatClrWrite → t.plat.ring = s.plat.ring ∧ t.plat.srnext = s.plat.srnext) ∧
      (i = .srstatClrWrite → t.plat.srnext = s.plat.srnext + 1 ∧
        (canon s.plat.ring = true → (peek t.plat.ring s.plat.srnext.toNat).extractLsb' 48 3 = 5))) ∧
    exec .powerLoss s = .next { s with agenda := [], timers := [], plat := { s.plat with powered := false } } ∧
    (∃ t, exec .thermalShutdown s = .next t ∧ t.agenda = [] ∧ t.timers = [] ∧ t.plat.powered = false ∧ t.plat.srnext = s.plat.srnext + 1 ∧
      t.hbm = s.hbm ∧ t.coaches = s.coaches ∧
      (canon s.plat.ring = true → (peek t.plat.ring s.plat.srnext.toNat).extractLsb' 48 3 = 2 ∧
        (peek t.plat.ring s.plat.srnext.toNat).extractLsb' 32 8 = 0 ∧ (peek t.plat.ring s.plat.srnext.toNat).extractLsb' 64 32 = 1))

end Statements
end

