-- ==== Sys2Proof/Laws/Access.lean ====
section
/-! SUPPORT. What the hub's accesses can do to the state where no word of theirs is in error: nothing but their own effect. -/

namespace Sys2Proof.Machine

/-- No list of errors names a word. -/
def State.clean (s : State) : Prop := s.badHbm = [] ∧ s.softHbm = [] ∧ s.badTier = [] ∧ s.badPut = [] ∧ s.badHost = []

theorem State.badAt_of_clean {s : State} (h : s.clean) (p : WordKey) : s.badAt p = none := by
  obtain ⟨h1, _, h2, h3, h4⟩ := h
  cases p <;> simp [State.badAt, h1, h2, h3, h4]

theorem foldl_fixed {α β : Type} {f : α → β → α} {a : α} (h : ∀ b, f a b = a) (l : List β) : l.foldl f a = a := by
  induction l with
  | nil => rfl
  | cons b t ih => rw [List.foldl_cons, h, ih]

theorem State.meetWords_of_clean {s : State} (h : s.clean) (l : List WordKey) : s.meetWords l = s :=
  foldl_fixed (fun p => by
    have h2 : s.softHbm = [] := h.2.1
    cases p with
    | hbm k => simp [State.meetWord, State.badAt_of_clean h, State.countErrors, h2]
    | _ => rfl) _

/-- A piece whose words are free of error is not performed again. -/
theorem State.retry_of_clean {s : State} (h : s.clean) (piece : List WordKey) : s.retry piece = s := by
  simp [State.retry, State.badAt_of_clean h, State.countAgain]

/-- An access of words that are free of error is performed once and changes nothing. -/
theorem State.readOk_of_clean {s : State} (h : s.clean) (l : List (List WordKey)) : s.readOk l = (true, s) := by
  have hl : l.flatten.find? s.lastingAt = none := by simp [State.lastingAt, State.badAt_of_clean h]
  simp only [State.readOk, hl, State.meetWords_of_clean h]
  exact congrArg (Prod.mk true) (foldl_fixed (State.retry_of_clean h) _)

/-- A walk whose entries are free of error counts nothing. -/
theorem State.countWalk_of_clean {s : State} (h : s.clean) (root a : Nat) : s.countWalk root a = s :=
  foldl_fixed (fun k => by simp [State.countErrors, h.1, h.2.1]) _

theorem State.countWalks_of_clean {s : State} (h : s.clean) (job : BitVec 8) (a n : Nat) : s.countWalks job a n = s :=
  foldl_fixed (fun _ => State.countWalk_of_clean h _ _) _

/-- Whether the place of a DVA is in HBM. -/
def inHbm : Except Nat (Place × Nat) → Bool
  | .ok (.hbm _, _) => true
  | _ => false

/-- A word that stands in HBM is ready for the hub as it is. -/
theorem State.hubReady_of_hbm (s : State) (job : BitVec 8) (a : Nat) (h : inHbm (s.hubPlace job a true false) = true) :
    (s.hubReady job a false).2 = s := by
  unfold State.hubReady
  simp only [Bool.not_false]
  split
  · rfl
  · rename_i e
    simp [e, inHbm] at h
  · next p _ _ e =>
    obtain ⟨hpa, rfl⟩ : ∃ hpa, p = .hbm hpa := by
      rw [e] at h
      cases p <;> simp_all [inHbm]
    rfl

/-- So are words that follow one another, modulo the address space. -/
theorem State.hubWords_of_hbm (s : State) (job : BitVec 8) : ∀ (n a : Nat), a < 2 ^ 56 →
    (∀ i < n, inHbm (s.hubPlace job ((a + 4 * i) % 2 ^ 56) true false) = true) → (s.hubWords job a false n).2 = s
  | 0, _, _, _ => rfl
  | n + 1, a, ha, h => by
    have h0 := s.hubReady_of_hbm job a (by have := h 0 (Nat.succ_pos n); rwa [show (a + 4 * 0) % 2 ^ 56 = a by omega] at this)
    have ih := State.hubWords_of_hbm s job n ((a + 4) % 2 ^ 56) (by omega) fun i hi => by
      have := h (i + 1) (Nat.succ_lt_succ hi)
      rwa [show ((a + 4) % 2 ^ 56 + 4 * i) % 2 ^ 56 = (a + 4 * (i + 1)) % 2 ^ 56 by omega]
    unfold State.hubWords
    split
    · next e => rw [e] at h0; exact h0
    · next e =>
      rw [e] at h0
      simp only at h0
      subst h0
      split
      · next e2 => rw [e2] at ih; exact ih
      · next e2 => rw [e2] at ih; exact ih

end Sys2Proof.Machine
end

