-- ==== Sys2Proof/Laws/PerInstr.lean ====
section
/-! SUPPORT. The family Rows, one lemma per constructor: the row of its class that an instruction's syllable matches is the
instruction itself, with every operand as it was (spec/12_opcode_map.md R190 to R206). -/

/-- A field that lies above the lower part of an appended word is a field of the upper part. -/
theorem Sys2Proof.Laws.extract_hi {v w s l : Nat} (x : BitVec v) (y : BitVec w) (h : w ≤ s) :
    @BitVec.extractLsb' (no_index (v + w)) s l (no_index (x ++ y)) = BitVec.extractLsb' (s - w) l x :=
  BitVec.extractLsb'_append_eq_of_le h

/-- A field that lies within the lower part of an appended word is a field of that part. -/
theorem Sys2Proof.Laws.extract_lo {v w s l : Nat} (x : BitVec v) (y : BitVec w) (h : s + l ≤ w) :
    @BitVec.extractLsb' (no_index (v + w)) s l (no_index (x ++ y)) = BitVec.extractLsb' s l y :=
  BitVec.extractLsb'_append_eq_of_add_le h

/-- A fixed field holds its value when each bit does. -/
theorem Sys2Proof.Laws.fx_iff (w : Sys2Proof.Lane) (lo n v : Nat) : Sys2Proof.fx w lo n v = true ↔ ∀ i < n, w.getLsbD (lo + i) = v.testBit i := by
  simp only [Sys2Proof.fx, beq_iff_eq]
  constructor
  · intro h i hi
    have := congrArg (fun x => x.getLsbD i) h
    simpa only [BitVec.getLsbD_extractLsb', BitVec.getLsbD_ofNat, hi, decide_true, Bool.true_and] using this
  · intro h
    apply BitVec.eq_of_getLsbD_eq
    intro i hi
    simp only [BitVec.getLsbD_extractLsb', BitVec.getLsbD_ofNat, hi, decide_true, Bool.true_and, h i hi]

/-- A fixed field is two fixed fields. -/
theorem Sys2Proof.Laws.fx_split (w : Sys2Proof.Lane) (lo n v k : Nat) (h : k ≤ n) :
    Sys2Proof.fx w lo n v = (Sys2Proof.fx w (lo + k) (n - k) (v / 2 ^ k) && Sys2Proof.fx w lo k v) := by
  rw [Bool.eq_iff_iff, Bool.and_eq_true, Sys2Proof.Laws.fx_iff, Sys2Proof.Laws.fx_iff, Sys2Proof.Laws.fx_iff]
  constructor
  · intro h0
    exact ⟨fun i hi => by rw [Nat.testBit_div_two_pow, Nat.add_assoc, h0 _ (by omega), Nat.add_comm], fun i hi => h0 i (by omega)⟩
  · rintro ⟨h1, h2⟩ i hi
    by_cases hk : i < k
    · exact h2 i hk
    · have := h1 (i - k) (by omega)
      rwa [Nat.testBit_div_two_pow, show lo + k + (i - k) = lo + i by omega, show i - k + k = i by omega] at this

/-- An instruction that has a class is read back from its own syllable by that class's rows. -/
def Sys2Proof.Laws.Rows.Statement (i : Sys2Proof.Instr) : Prop :=
  ∀ k, i.cls = some k → Sys2Proof.decodeRow k (Sys2Proof.encode i) = some i

namespace Sys2Proof.Laws

open Sys2Proof

theorem Rows.rsolveAccept :
    ∀ c id, Rows.Statement (.rsolveAccept c id) := by
  intros; exact nofun

theorem Rows.rsolveSwitch :
    ∀ c id, Rows.Statement (.rsolveSwitch c id) := by
  intros; exact nofun

theorem Rows.itemPost :
    ∀ c id, Rows.Statement (.itemPost c id) := by
  intros; exact nofun

theorem Rows.putAcknowledgement :
    ∀ c id status, Rows.Statement (.putAcknowledgement c id status) := by
  intros; exact nofun

theorem Rows.fenceScTick :
    ∀ c id, Rows.Statement (.fenceScTick c id) := by
  intros; exact nofun

theorem Rows.viewMergeTimeout :
    ∀ id, Rows.Statement (.viewMergeTimeout id) := by
  intros; exact nofun

theorem Rows.trapEntry :
    ∀ c cause member arg, Rows.Statement (.trapEntry c cause member arg) := by
  intros; exact nofun

theorem Rows.fatalContextError :
    ∀ c cause, Rows.Statement (.fatalContextError c cause) := by
  intros; exact nofun

theorem Rows.preemptRequest :
    ∀ c cancel, Rows.Statement (.preemptRequest c cancel) := by
  intros; exact nofun

theorem Rows.sliceExpiry :
    ∀ c ctx stamp, Rows.Statement (.sliceExpiry c ctx stamp) := by
  intros; exact nofun

theorem Rows.pdeadExpiry :
    ∀ c ctx stamp, Rows.Statement (.pdeadExpiry c ctx stamp) := by
  intros; exact nofun

theorem Rows.huskResume :
    ∀ c ctx, Rows.Statement (.huskResume c ctx) := by
  intros; exact nofun

theorem Rows.launchDispatchBegin :
    ∀ q slot, Rows.Statement (.launchDispatchBegin q slot) := by
  intros; exact nofun

theorem Rows.thrashHoldExpiry :
    ∀ page, Rows.Statement (.thrashHoldExpiry page) := by
  intros; exact nofun

theorem Rows.pageExpansion :
    ∀ page, Rows.Statement (.pageExpansion page) := by
  intros; exact nofun

theorem Rows.unitRetire :
    ∀ c status, Rows.Statement (.unitRetire c status) := by
  intros; exact nofun

theorem Rows.launchComplete :
    ∀ q slot, Rows.Statement (.launchComplete q slot) := by
  intros; exact nofun

theorem Rows.qtailWrite :
    ∀ q v, Rows.Statement (.qtailWrite q v) := by
  intros; exact nofun

theorem Rows.cancelWrite :
    ∀ v, Rows.Statement (.cancelWrite v) := by
  intros; exact nofun

theorem Rows.sctlWrite :
    ∀ v, Rows.Statement (.sctlWrite v) := by
  intros; exact nofun

theorem Rows.lseedWrite :
    ∀ v, Rows.Statement (.lseedWrite v) := by
  intros; exact nofun

theorem Rows.nmodeWrite :
    ∀ v, Rows.Statement (.nmodeWrite v) := by
  intros; exact nofun

theorem Rows.fbflushWrite :
    ∀ v, Rows.Statement (.fbflushWrite v) := by
  intros; exact nofun

theorem Rows.fbdenyWrite :
    ∀ v, Rows.Statement (.fbdenyWrite v) := by
  intros; exact nofun

theorem Rows.refreshHeartbeat :
    ∀ k, Rows.Statement (.refreshHeartbeat k) := by
  intros; exact nofun

theorem Rows.refreshTakeover :
    ∀ k, Rows.Statement (.refreshTakeover k) := by
  intros; exact nofun

theorem Rows.stkrefRelWrite :
    ∀ k v, Rows.Statement (.stkrefRelWrite k v) := by
  intros; exact nofun

theorem Rows.podBeatTake :
    ∀ received bnum, Rows.Statement (.podBeatTake received bnum) := by
  intros; exact nofun

theorem Rows.rdmaWriteDva :
    ∀ r data, Rows.Statement (.rdmaWriteDva r data) := by
  intros; exact nofun

theorem Rows.rdmaWriteBankLine :
    ∀ r data, Rows.Statement (.rdmaWriteBankLine r data) := by
  intros; exact nofun

theorem Rows.rdmaWriteMailbox :
    ∀ r data, Rows.Statement (.rdmaWriteMailbox r data) := by
  intros; exact nofun

theorem Rows.rdmaWriteRegister :
    ∀ r data, Rows.Statement (.rdmaWriteRegister r data) := by
  intros; exact nofun

theorem Rows.rdmaReadDva :
    ∀ r len, Rows.Statement (.rdmaReadDva r len) := by
  intros; exact nofun

theorem Rows.rdmaReadRegister :
    ∀ r len, Rows.Statement (.rdmaReadRegister r len) := by
  intros; exact nofun

theorem Rows.rdmaFetchAdd :
    ∀ r v, Rows.Statement (.rdmaFetchAdd r v) := by
  intros; exact nofun

theorem Rows.rdmaCompareSwap :
    ∀ r cmp v, Rows.Statement (.rdmaCompareSwap r cmp v) := by
  intros; exact nofun

theorem Rows.rdmaUnsupportedRequest :
    ∀ r, Rows.Statement (.rdmaUnsupportedRequest r) := by
  intros; exact nofun

theorem Rows.putArrival :
    ∀ m, Rows.Statement (.putArrival m) := by
  intros; exact nofun

theorem Rows.remoteDcopyRequest :
    ∀ m, Rows.Statement (.remoteDcopyRequest m) := by
  intros; exact nofun

theorem Rows.flitReceive :
    ∀ p l bits, Rows.Statement (.flitReceive p l bits) := by
  intros; exact nofun

theorem Rows.linkNakReceive :
    ∀ p l n, Rows.Statement (.linkNakReceive p l n) := by
  intros; exact nofun

theorem Rows.lanesetRelockTimeout :
    ∀ p l stamp, Rows.Statement (.lanesetRelockTimeout p l stamp) := by
  intros; exact nofun

theorem Rows.remapReceive :
    ∀ p l pos spare n, Rows.Statement (.remapReceive p l pos spare n) := by
  intros; exact nofun

theorem Rows.remapSwitch :
    ∀ p l pos spare, Rows.Statement (.remapSwitch p l pos spare) := by
  intros; exact nofun

theorem Rows.pctlQreq :
    ∀ p, Rows.Statement (.pctlQreq p) := by
  intros; exact nofun

theorem Rows.pctlDownreq :
    ∀ p, Rows.Statement (.pctlDownreq p) := by
  intros; exact nofun

theorem Rows.pctlQclr :
    ∀ p, Rows.Statement (.pctlQclr p) := by
  intros; exact nofun

theorem Rows.pctlRelock :
    ∀ p, Rows.Statement (.pctlRelock p) := by
  intros; exact nofun

theorem Rows.lightTest :
    ∀ p, Rows.Statement (.lightTest p) := by
  intros; exact nofun

theorem Rows.portRelockTimeout :
    ∀ p stamp, Rows.Statement (.portRelockTimeout p stamp) := by
  intros; exact nofun

theorem Rows.quiesceTimeout :
    ∀ p stamp, Rows.Statement (.quiesceTimeout p stamp) := by
  intros; exact nofun

theorem Rows.drainMarkerReceive :
    ∀ p l, Rows.Statement (.drainMarkerReceive p l) := by
  intros; exact nofun

theorem Rows.lanesetLock :
    ∀ p l pkg port, Rows.Statement (.lanesetLock p l pkg port) := by
  intros; exact nofun

theorem Rows.peerStateReport :
    ∀ p st, Rows.Statement (.peerStateReport p st) := by
  intros; exact nofun

theorem Rows.slotBoundary :
    ∀ p, Rows.Statement (.slotBoundary p) := by
  intros; exact nofun

theorem Rows.calendarSwitch :
    ∀ p, Rows.Statement (.calendarSwitch p) := by
  intros; exact nofun

theorem Rows.cswWrite :
    ∀ p v, Rows.Statement (.cswWrite p v) := by
  intros; exact nofun

theorem Rows.shadowCalendarWrite :
    ∀ p off v, Rows.Statement (.shadowCalendarWrite p off v) := by
  intros; exact nofun

theorem Rows.snapTake :
    ∀ p, Rows.Statement (.snapTake p) := by
  intros; exact nofun

theorem Rows.frmapWrite :
    ∀ p v, Rows.Statement (.frmapWrite p v) := by
  intros; exact nofun

theorem Rows.routeTableWrite :
    ∀ n v, Rows.Statement (.routeTableWrite n v) := by
  intros; exact nofun

theorem Rows.holdTimeout :
    ∀ c id stamp, Rows.Statement (.holdTimeout c id stamp) := by
  intros; exact nofun

theorem Rows.rcCounterRead :
    ∀ off, Rows.Statement (.rcCounterRead off) := by
  intros; exact nofun

theorem Rows.registerWrite :
    ∀ off v, Rows.Statement (.registerWrite off v) := by
  intros; exact nofun

theorem Rows.mgmtRead :
    ∀ m, Rows.Statement (.mgmtRead m) := by
  intros; exact nofun

theorem Rows.mgmtWrite :
    ∀ m, Rows.Statement (.mgmtWrite m) := by
  intros; exact nofun

theorem Rows.mgmtWarm :
    ∀ m, Rows.Statement (.mgmtWarm m) := by
  intros; exact nofun

theorem Rows.mgmtCold :
    ∀ m, Rows.Statement (.mgmtCold m) := by
  intros; exact nofun

theorem Rows.mgmtAttest :
    ∀ m, Rows.Statement (.mgmtAttest m) := by
  intros; exact nofun

theorem Rows.mgmtFlash :
    ∀ m, Rows.Statement (.mgmtFlash m) := by
  intros; exact nofun

theorem Rows.mgmtSvn :
    ∀ m, Rows.Statement (.mgmtSvn m) := by
  intros; exact nofun

theorem Rows.mgmtKey :
    ∀ m, Rows.Statement (.mgmtKey m) := by
  intros; exact nofun

theorem Rows.mgmtUnknownOp :
    ∀ m, Rows.Statement (.mgmtUnknownOp m) := by
  intros; exact nofun

theorem Rows.thermalGateBegin :
    ∀ die, Rows.Statement (.thermalGateBegin die) := by
  intros; exact nofun

theorem Rows.thermalGateEnd :
    ∀ die, Rows.Statement (.thermalGateEnd die) := by
  intros; exact nofun

theorem Rows.powerCapEngage :
    ∀ meas, Rows.Statement (.powerCapEngage meas) := by
  intros; exact nofun

theorem Rows.powerCapRelease :
    ∀ meas, Rows.Statement (.powerCapRelease meas) := by
  intros; exact nofun

theorem Rows.pcapWrite :
    ∀ v, Rows.Statement (.pcapWrite v) := by
  intros; exact nofun

theorem Rows.islandStateRequest :
    ∀ i st, Rows.Statement (.islandStateRequest i st) := by
  intros; exact nofun

theorem Rows.networkSyllable :
    ∀ r w s t p a e, Rows.Statement (.networkSyllable r w s t p a e) := by
  intro r w s t p a e k hk
  obtain rfl : Cls.network = k := Option.some.inj hk
  obtain ⟨word, hw⟩ : ∃ word : Lane, word = (r ++ w ++ s ++ t ++ p ++ 0#2 ++ a ++ e : BitVec 32) := ⟨_, rfl⟩
  have hg : encode (.networkSyllable r w s t p a e) = word := hw.symm
  change decodeNetwork _ = _
  rw [hg]
  delta decodeNetwork
  simp only [fx, fld, hw, Laws.extract_hi, Laws.extract_lo, Nat.reduceLeDiff, Nat.reduceAdd, Nat.reduceSub]
  simp

theorem Rows.tree :
    ∀ h w t x, Rows.Statement (.tree h w t x) := by
  intro h w t x k hk
  obtain rfl : Cls.header = k := Option.some.inj hk
  obtain ⟨word, hw⟩ : ∃ word : Lane, word = (1#4 ++ h ++ w ++ t ++ x ++ 0#14 : BitVec 32) := ⟨_, rfl⟩
  have hg : encode (.tree h w t x) = word := hw.symm
  change decodeHeader _ = _
  rw [hg]
  delta decodeHeader
  simp only [fx, fld, hw, Laws.extract_hi, Laws.extract_lo, Nat.reduceLeDiff, Nat.reduceAdd, Nat.reduceSub]
  simp

theorem Rows.jump :
    ∀ h w t x i, Rows.Statement (.jump h w t x i) := by
  intro h w t x i k hk
  obtain rfl : Cls.header = k := Option.some.inj hk
  obtain ⟨word, hw⟩ : ∃ word : Lane, word = (2#4 ++ h ++ w ++ t ++ x ++ i : BitVec 32) := ⟨_, rfl⟩
  have hg : encode (.jump h w t x i) = word := hw.symm
  change decodeHeader _ = _
  rw [hg]
  delta decodeHeader
  simp only [fx, fld, hw, Laws.extract_hi, Laws.extract_lo, Nat.reduceLeDiff, Nat.reduceAdd, Nat.reduceSub]
  simp

theorem Rows.call :
    ∀ h w t x i, Rows.Statement (.call h w t x i) := by
  intro h w t x i k hk
  obtain rfl : Cls.header = k := Option.some.inj hk
  obtain ⟨word, hw⟩ : ∃ word : Lane, word = (3#4 ++ h ++ w ++ t ++ x ++ i : BitVec 32) := ⟨_, rfl⟩
  have hg : encode (.call h w t x i) = word := hw.symm
  change decodeHeader _ = _
  rw [hg]
  delta decodeHeader
  simp only [fx, fld, hw, Laws.extract_hi, Laws.extract_lo, Nat.reduceLeDiff, Nat.reduceAdd, Nat.reduceSub]
  simp

theorem Rows.ret :
    ∀ h w t x, Rows.Statement (.ret h w t x) := by
  intro h w t x k hk
  obtain rfl : Cls.header = k := Option.some.inj hk
  obtain ⟨word, hw⟩ : ∃ word : Lane, word = (4#4 ++ h ++ w ++ t ++ x ++ 0#14 : BitVec 32) := ⟨_, rfl⟩
  have hg : encode (.ret h w t x) = word := hw.symm
  change decodeHeader _ = _
  rw [hg]
  delta decodeHeader
  simp only [fx, fld, hw, Laws.extract_hi, Laws.extract_lo, Nat.reduceLeDiff, Nat.reduceAdd, Nat.reduceSub]
  simp

theorem Rows.loop :
    ∀ h w t x l n g y, Rows.Statement (.loop h w t x l n g y) := by
  intro h w t x l n g y k hk
  obtain rfl : Cls.header = k := Option.some.inj hk
  obtain ⟨word, hw⟩ : ∃ word : Lane, word = (5#4 ++ h ++ w ++ t ++ x ++ l ++ n ++ g ++ y : BitVec 32) := ⟨_, rfl⟩
  have hg : encode (.loop h w t x l n g y) = word := hw.symm
  change decodeHeader _ = _
  rw [hg]
  delta decodeHeader
  simp only [fx, fld, hw, Laws.extract_hi, Laws.extract_lo, Nat.reduceLeDiff, Nat.reduceAdd, Nat.reduceSub]
  simp

theorem Rows.trap :
    ∀ h w t x c, Rows.Statement (.trap h w t x c) := by
  intro h w t x c k hk
  obtain rfl : Cls.header = k := Option.some.inj hk
  obtain ⟨word, hw⟩ : ∃ word : Lane, word = (6#4 ++ h ++ w ++ t ++ x ++ c : BitVec 32) := ⟨_, rfl⟩
  have hg : encode (.trap h w t x c) = word := hw.symm
  change decodeHeader _ = _
  rw [hg]
  delta decodeHeader
  simp only [fx, fld, hw, Laws.extract_hi, Laws.extract_lo, Nat.reduceLeDiff, Nat.reduceAdd, Nat.reduceSub]
  simp

theorem Rows.yield :
    ∀ h w t x, Rows.Statement (.yield h w t x) := by
  intro h w t x k hk
  obtain rfl : Cls.header = k := Option.some.inj hk
  obtain ⟨word, hw⟩ : ∃ word : Lane, word = (7#4 ++ h ++ w ++ t ++ x ++ 0#14 : BitVec 32) := ⟨_, rfl⟩
  have hg : encode (.yield h w t x) = word := hw.symm
  change decodeHeader _ = _
  rw [hg]
  delta decodeHeader
  simp only [fx, fld, hw, Laws.extract_hi, Laws.extract_lo, Nat.reduceLeDiff, Nat.reduceAdd, Nat.reduceSub]
  simp

theorem Rows.exit :
    ∀ h w t x, Rows.Statement (.exit h w t x) := by
  intro h w t x k hk
  obtain rfl : Cls.header = k := Option.some.inj hk
  obtain ⟨word, hw⟩ : ∃ word : Lane, word = (8#4 ++ h ++ w ++ t ++ x ++ 0#14 : BitVec 32) := ⟨_, rfl⟩
  have hg : encode (.exit h w t x) = word := hw.symm
  change decodeHeader _ = _
  rw [hg]
  delta decodeHeader
  simp only [fx, fld, hw, Laws.extract_hi, Laws.extract_lo, Nat.reduceLeDiff, Nat.reduceAdd, Nat.reduceSub]
  simp

theorem Rows.rtt :
    ∀ h w t x, Rows.Statement (.rtt h w t x) := by
  intro h w t x k hk
  obtain rfl : Cls.header = k := Option.some.inj hk
  obtain ⟨word, hw⟩ : ∃ word : Lane, word = (9#4 ++ h ++ w ++ t ++ x ++ 0#14 : BitVec 32) := ⟨_, rfl⟩
  have hg : encode (.rtt h w t x) = word := hw.symm
  change decodeHeader _ = _
  rw [hg]
  delta decodeHeader
  simp only [fx, fld, hw, Laws.extract_hi, Laws.extract_lo, Nat.reduceLeDiff, Nat.reduceAdd, Nat.reduceSub]
  simp

theorem Rows.bsel :
    ∀ h w t x k s, Rows.Statement (.bsel h w t x k s) := by
  intro h w t x k s k hk
  obtain rfl : Cls.header = k := Option.some.inj hk
  obtain ⟨word, hw⟩ : ∃ word : Lane, word = (10#4 ++ h ++ w ++ t ++ x ++ 0#5 ++ k ++ s : BitVec 32) := ⟨_, rfl⟩
  have hg : encode (.bsel h w t x k s) = word := hw.symm
  change decodeHeader _ = _
  rw [hg]
  delta decodeHeader
  simp only [fx, fld, hw, Laws.extract_hi, Laws.extract_lo, Nat.reduceLeDiff, Nat.reduceAdd, Nat.reduceSub]
  simp

theorem Rows.brk :
    ∀ h w t x c, Rows.Statement (.brk h w t x c) := by
  intro h w t x c k hk
  obtain rfl : Cls.header = k := Option.some.inj hk
  obtain ⟨word, hw⟩ : ∃ word : Lane, word = (11#4 ++ h ++ w ++ t ++ x ++ c : BitVec 32) := ⟨_, rfl⟩
  have hg : encode (.brk h w t x c) = word := hw.symm
  change decodeHeader _ = _
  rw [hg]
  delta decodeHeader
  simp only [fx, fld, hw, Laws.extract_hi, Laws.extract_lo, Nat.reduceLeDiff, Nat.reduceAdd, Nat.reduceSub]
  simp

theorem Rows.add :
    ∀ d a b, Rows.Statement (.add d a b) := by
  intro d a b k hk
  obtain rfl : Cls.scalar = k := Option.some.inj hk
  obtain ⟨word, hw⟩ : ∃ word : Lane, word = (1#6 ++ d ++ a ++ b ++ 0#11 : BitVec 32) := ⟨_, rfl⟩
  have hg : encode (.add d a b) = word := hw.symm
  change decodeScalar _ = _
  rw [hg]
  delta decodeScalar
  simp only [fx, fld, hw, Laws.extract_hi, Laws.extract_lo, Nat.reduceLeDiff, Nat.reduceAdd, Nat.reduceSub]
  simp

theorem Rows.sub :
    ∀ d a b, Rows.Statement (.sub d a b) := by
  intro d a b k hk
  obtain rfl : Cls.scalar = k := Option.some.inj hk
  obtain ⟨word, hw⟩ : ∃ word : Lane, word = (2#6 ++ d ++ a ++ b ++ 0#11 : BitVec 32) := ⟨_, rfl⟩
  have hg : encode (.sub d a b) = word := hw.symm
  change decodeScalar _ = _
  rw [hg]
  delta decodeScalar
  simp only [fx, fld, hw, Laws.extract_hi, Laws.extract_lo, Nat.reduceLeDiff, Nat.reduceAdd, Nat.reduceSub]
  simp

theorem Rows.and :
    ∀ d a b, Rows.Statement (.and d a b) := by
  intro d a b k hk
  obtain rfl : Cls.scalar = k := Option.some.inj hk
  obtain ⟨word, hw⟩ : ∃ word : Lane, word = (3#6 ++ d ++ a ++ b ++ 0#11 : BitVec 32) := ⟨_, rfl⟩
  have hg : encode (.and d a b) = word := hw.symm
  change decodeScalar _ = _
  rw [hg]
  delta decodeScalar
  simp only [fx, fld, hw, Laws.extract_hi, Laws.extract_lo, Nat.reduceLeDiff, Nat.reduceAdd, Nat.reduceSub]
  simp

theorem Rows.or :
    ∀ d a b, Rows.Statement (.or d a b) := by
  intro d a b k hk
  obtain rfl : Cls.scalar = k := Option.some.inj hk
  obtain ⟨word, hw⟩ : ∃ word : Lane, word = (4#6 ++ d ++ a ++ b ++ 0#11 : BitVec 32) := ⟨_, rfl⟩
  have hg : encode (.or d a b) = word := hw.symm
  change decodeScalar _ = _
  rw [hg]
  delta decodeScalar
  simp only [fx, fld, hw, Laws.extract_hi, Laws.extract_lo, Nat.reduceLeDiff, Nat.reduceAdd, Nat.reduceSub]
  simp

theorem Rows.xor :
    ∀ d a b, Rows.Statement (.xor d a b) := by
  intro d a b k hk
  obtain rfl : Cls.scalar = k := Option.some.inj hk
  obtain ⟨word, hw⟩ : ∃ word : Lane, word = (5#6 ++ d ++ a ++ b ++ 0#11 : BitVec 32) := ⟨_, rfl⟩
  have hg : encode (.xor d a b) = word := hw.symm
  change decodeScalar _ = _
  rw [hg]
  delta decodeScalar
  simp only [fx, fld, hw, Laws.extract_hi, Laws.extract_lo, Nat.reduceLeDiff, Nat.reduceAdd, Nat.reduceSub]
  simp

theorem Rows.andn :
    ∀ d a b, Rows.Statement (.andn d a b) := by
  intro d a b k hk
  obtain rfl : Cls.scalar = k := Option.some.inj hk
  obtain ⟨word, hw⟩ : ∃ word : Lane, word = (6#6 ++ d ++ a ++ b ++ 0#11 : BitVec 32) := ⟨_, rfl⟩
  have hg : encode (.andn d a b) = word := hw.symm
  change decodeScalar _ = _
  rw [hg]
  delta decodeScalar
  simp only [fx, fld, hw, Laws.extract_hi, Laws.extract_lo, Nat.reduceLeDiff, Nat.reduceAdd, Nat.reduceSub]
  simp

theorem Rows.shl :
    ∀ d a b, Rows.Statement (.shl d a b) := by
  intro d a b k hk
  obtain rfl : Cls.scalar = k := Option.some.inj hk
  obtain ⟨word, hw⟩ : ∃ word : Lane, word = (7#6 ++ d ++ a ++ b ++ 0#11 : BitVec 32) := ⟨_, rfl⟩
  have hg : encode (.shl d a b) = word := hw.symm
  change decodeScalar _ = _
  rw [hg]
  delta decodeScalar
  simp only [fx, fld, hw, Laws.extract_hi, Laws.extract_lo, Nat.reduceLeDiff, Nat.reduceAdd, Nat.reduceSub]
  simp

theorem Rows.shr :
    ∀ d a b, Rows.Statement (.shr d a b) := by
  intro d a b k hk
  obtain rfl : Cls.scalar = k := Option.some.inj hk
  obtain ⟨word, hw⟩ : ∃ word : Lane, word = (8#6 ++ d ++ a ++ b ++ 0#11 : BitVec 32) := ⟨_, rfl⟩
  have hg : encode (.shr d a b) = word := hw.symm
  change decodeScalar _ = _
  rw [hg]
  delta decodeScalar
  simp only [fx, fld, hw, Laws.extract_hi, Laws.extract_lo, Nat.reduceLeDiff, Nat.reduceAdd, Nat.reduceSub]
  simp

theorem Rows.sar :
    ∀ d a b, Rows.Statement (.sar d a b) := by
  intro d a b k hk
  obtain rfl : Cls.scalar = k := Option.some.inj hk
  obtain ⟨word, hw⟩ : ∃ word : Lane, word = (9#6 ++ d ++ a ++ b ++ 0#11 : BitVec 32) := ⟨_, rfl⟩
  have hg : encode (.sar d a b) = word := hw.symm
  change decodeScalar _ = _
  rw [hg]
  delta decodeScalar
  simp only [fx, fld, hw, Laws.extract_hi, Laws.extract_lo, Nat.reduceLeDiff, Nat.reduceAdd, Nat.reduceSub]
  simp

theorem Rows.min :
    ∀ d a b, Rows.Statement (.min d a b) := by
  intro d a b k hk
  obtain rfl : Cls.scalar = k := Option.some.inj hk
  obtain ⟨word, hw⟩ : ∃ word : Lane, word = (10#6 ++ d ++ a ++ b ++ 0#11 : BitVec 32) := ⟨_, rfl⟩
  have hg : encode (.min d a b) = word := hw.symm
  change decodeScalar _ = _
  rw [hg]
  delta decodeScalar
  simp only [fx, fld, hw, Laws.extract_hi, Laws.extract_lo, Nat.reduceLeDiff, Nat.reduceAdd, Nat.reduceSub]
  simp

theorem Rows.max :
    ∀ d a b, Rows.Statement (.max d a b) := by
  intro d a b k hk
  obtain rfl : Cls.scalar = k := Option.some.inj hk
  obtain ⟨word, hw⟩ : ∃ word : Lane, word = (11#6 ++ d ++ a ++ b ++ 0#11 : BitVec 32) := ⟨_, rfl⟩
  have hg : encode (.max d a b) = word := hw.symm
  change decodeScalar _ = _
  rw [hg]
  delta decodeScalar
  simp only [fx, fld, hw, Laws.extract_hi, Laws.extract_lo, Nat.reduceLeDiff, Nat.reduceAdd, Nat.reduceSub]
  simp

theorem Rows.minu :
    ∀ d a b, Rows.Statement (.minu d a b) := by
  intro d a b k hk
  obtain rfl : Cls.scalar = k := Option.some.inj hk
  obtain ⟨word, hw⟩ : ∃ word : Lane, word = (12#6 ++ d ++ a ++ b ++ 0#11 : BitVec 32) := ⟨_, rfl⟩
  have hg : encode (.minu d a b) = word := hw.symm
  change decodeScalar _ = _
  rw [hg]
  delta decodeScalar
  simp only [fx, fld, hw, Laws.extract_hi, Laws.extract_lo, Nat.reduceLeDiff, Nat.reduceAdd, Nat.reduceSub]
  simp

theorem Rows.maxu :
    ∀ d a b, Rows.Statement (.maxu d a b) := by
  intro d a b k hk
  obtain rfl : Cls.scalar = k := Option.some.inj hk
  obtain ⟨word, hw⟩ : ∃ word : Lane, word = (13#6 ++ d ++ a ++ b ++ 0#11 : BitVec 32) := ⟨_, rfl⟩
  have hg : encode (.maxu d a b) = word := hw.symm
  change decodeScalar _ = _
  rw [hg]
  delta decodeScalar
  simp only [fx, fld, hw, Laws.extract_hi, Laws.extract_lo, Nat.reduceLeDiff, Nat.reduceAdd, Nat.reduceSub]
  simp

theorem Rows.clz :
    ∀ d a, Rows.Statement (.clz d a) := by
  intro d a k hk
  obtain rfl : Cls.scalar = k := Option.some.inj hk
  obtain ⟨word, hw⟩ : ∃ word : Lane, word = (14#6 ++ d ++ a ++ 0#16 : BitVec 32) := ⟨_, rfl⟩
  have hg : encode (.clz d a) = word := hw.symm
  change decodeScalar _ = _
  rw [hg]
  delta decodeScalar
  simp only [fx, fld, hw, Laws.extract_hi, Laws.extract_lo, Nat.reduceLeDiff, Nat.reduceAdd, Nat.reduceSub]
  simp

theorem Rows.popc :
    ∀ d a, Rows.Statement (.popc d a) := by
  intro d a k hk
  obtain rfl : Cls.scalar = k := Option.some.inj hk
  obtain ⟨word, hw⟩ : ∃ word : Lane, word = (15#6 ++ d ++ a ++ 0#16 : BitVec 32) := ⟨_, rfl⟩
  have hg : encode (.popc d a) = word := hw.symm
  change decodeScalar _ = _
  rw [hg]
  delta decodeScalar
  simp only [fx, fld, hw, Laws.extract_hi, Laws.extract_lo, Nat.reduceLeDiff, Nat.reduceAdd, Nat.reduceSub]
  simp

theorem Rows.mul :
    ∀ d a b, Rows.Statement (.mul d a b) := by
  intro d a b k hk
  obtain rfl : Cls.scalar = k := Option.some.inj hk
  obtain ⟨word, hw⟩ : ∃ word : Lane, word = (16#6 ++ d ++ a ++ b ++ 0#11 : BitVec 32) := ⟨_, rfl⟩
  have hg : encode (.mul d a b) = word := hw.symm
  change decodeScalar _ = _
  rw [hg]
  delta decodeScalar
  simp only [fx, fld, hw, Laws.extract_hi, Laws.extract_lo, Nat.reduceLeDiff, Nat.reduceAdd, Nat.reduceSub]
  simp

theorem Rows.mulh :
    ∀ d a b, Rows.Statement (.mulh d a b) := by
  intro d a b k hk
  obtain rfl : Cls.scalar = k := Option.some.inj hk
  obtain ⟨word, hw⟩ : ∃ word : Lane, word = (17#6 ++ d ++ a ++ b ++ 0#11 : BitVec 32) := ⟨_, rfl⟩
  have hg : encode (.mulh d a b) = word := hw.symm
  change decodeScalar _ = _
  rw [hg]
  delta decodeScalar
  simp only [fx, fld, hw, Laws.extract_hi, Laws.extract_lo, Nat.reduceLeDiff, Nat.reduceAdd, Nat.reduceSub]
  simp

theorem Rows.mulhu :
    ∀ d a b, Rows.Statement (.mulhu d a b) := by
  intro d a b k hk
  obtain rfl : Cls.scalar = k := Option.some.inj hk
  obtain ⟨word, hw⟩ : ∃ word : Lane, word = (18#6 ++ d ++ a ++ b ++ 0#11 : BitVec 32) := ⟨_, rfl⟩
  have hg : encode (.mulhu d a b) = word := hw.symm
  change decodeScalar _ = _
  rw [hg]
  delta decodeScalar
  simp only [fx, fld, hw, Laws.extract_hi, Laws.extract_lo, Nat.reduceLeDiff, Nat.reduceAdd, Nat.reduceSub]
  simp

theorem Rows.sel :
    ∀ d a b c, Rows.Statement (.sel d a b c) := by
  intro d a b c k hk
  obtain rfl : Cls.scalar = k := Option.some.inj hk
  obtain ⟨word, hw⟩ : ∃ word : Lane, word = (19#6 ++ d ++ a ++ b ++ c ++ 0#7 : BitVec 32) := ⟨_, rfl⟩
  have hg : encode (.sel d a b c) = word := hw.symm
  change decodeScalar _ = _
  rw [hg]
  delta decodeScalar
  simp only [fx, fld, hw, Laws.extract_hi, Laws.extract_lo, Nat.reduceLeDiff, Nat.reduceAdd, Nat.reduceSub]
  simp

theorem Rows.addi :
    ∀ d a i, Rows.Statement (.addi d a i) := by
  intro d a i k hk
  obtain rfl : Cls.scalar = k := Option.some.inj hk
  obtain ⟨word, hw⟩ : ∃ word : Lane, word = (24#6 ++ d ++ a ++ i : BitVec 32) := ⟨_, rfl⟩
  have hg : encode (.addi d a i) = word := hw.symm
  change decodeScalar _ = _
  rw [hg]
  delta decodeScalar
  simp only [fx, fld, hw, Laws.extract_hi, Laws.extract_lo, Nat.reduceLeDiff, Nat.reduceAdd, Nat.reduceSub]
  simp

theorem Rows.andi :
    ∀ d a i, Rows.Statement (.andi d a i) := by
  intro d a i k hk
  obtain rfl : Cls.scalar = k := Option.some.inj hk
  obtain ⟨word, hw⟩ : ∃ word : Lane, word = (25#6 ++ d ++ a ++ i : BitVec 32) := ⟨_, rfl⟩
  have hg : encode (.andi d a i) = word := hw.symm
  change decodeScalar _ = _
  rw [hg]
  delta decodeScalar
  simp only [fx, fld, hw, Laws.extract_hi, Laws.extract_lo, Nat.reduceLeDiff, Nat.reduceAdd, Nat.reduceSub]
  simp

theorem Rows.ori :
    ∀ d a i, Rows.Statement (.ori d a i) := by
  intro d a i k hk
  obtain rfl : Cls.scalar = k := Option.some.inj hk
  obtain ⟨word, hw⟩ : ∃ word : Lane, word = (26#6 ++ d ++ a ++ i : BitVec 32) := ⟨_, rfl⟩
  have hg : encode (.ori d a i) = word := hw.symm
  change decodeScalar _ = _
  rw [hg]
  delta decodeScalar
  simp only [fx, fld, hw, Laws.extract_hi, Laws.extract_lo, Nat.reduceLeDiff, Nat.reduceAdd, Nat.reduceSub]
  simp

theorem Rows.xori :
    ∀ d a i, Rows.Statement (.xori d a i) := by
  intro d a i k hk
  obtain rfl : Cls.scalar = k := Option.some.inj hk
  obtain ⟨word, hw⟩ : ∃ word : Lane, word = (27#6 ++ d ++ a ++ i : BitVec 32) := ⟨_, rfl⟩
  have hg : encode (.xori d a i) = word := hw.symm
  change decodeScalar _ = _
  rw [hg]
  delta decodeScalar
  simp only [fx, fld, hw, Laws.extract_hi, Laws.extract_lo, Nat.reduceLeDiff, Nat.reduceAdd, Nat.reduceSub]
  simp

theorem Rows.shli :
    ∀ d a i, Rows.Statement (.shli d a i) := by
  intro d a i k hk
  obtain rfl : Cls.scalar = k := Option.some.inj hk
  obtain ⟨word, hw⟩ : ∃ word : Lane, word = (28#6 ++ d ++ a ++ 0#10 ++ i : BitVec 32) := ⟨_, rfl⟩
  have hg : encode (.shli d a i) = word := hw.symm
  change decodeScalar _ = _
  rw [hg]
  delta decodeScalar
  simp only [fx, fld, hw, Laws.extract_hi, Laws.extract_lo, Nat.reduceLeDiff, Nat.reduceAdd, Nat.reduceSub]
  simp

theorem Rows.shri :
    ∀ d a i, Rows.Statement (.shri d a i) := by
  intro d a i k hk
  obtain rfl : Cls.scalar = k := Option.some.inj hk
  obtain ⟨word, hw⟩ : ∃ word : Lane, word = (29#6 ++ d ++ a ++ 0#10 ++ i : BitVec 32) := ⟨_, rfl⟩
  have hg : encode (.shri d a i) = word := hw.symm
  change decodeScalar _ = _
  rw [hg]
  delta decodeScalar
  simp only [fx, fld, hw, Laws.extract_hi, Laws.extract_lo, Nat.reduceLeDiff, Nat.reduceAdd, Nat.reduceSub]
  simp

theorem Rows.sari :
    ∀ d a i, Rows.Statement (.sari d a i) := by
  intro d a i k hk
  obtain rfl : Cls.scalar = k := Option.some.inj hk
  obtain ⟨word, hw⟩ : ∃ word : Lane, word = (30#6 ++ d ++ a ++ 0#10 ++ i : BitVec 32) := ⟨_, rfl⟩
  have hg : encode (.sari d a i) = word := hw.symm
  change decodeScalar _ = _
  rw [hg]
  delta decodeScalar
  simp only [fx, fld, hw, Laws.extract_hi, Laws.extract_lo, Nat.reduceLeDiff, Nat.reduceAdd, Nat.reduceSub]
  simp

theorem Rows.liw :
    ∀ d e, Rows.Statement (.liw d e) := by
  intro d e k hk
  obtain rfl : Cls.scalar = k := Option.some.inj hk
  obtain ⟨word, hw⟩ : ∃ word : Lane, word = (32#6 ++ d ++ 0#19 ++ e : BitVec 32) := ⟨_, rfl⟩
  have hg : encode (.liw d e) = word := hw.symm
  change decodeScalar _ = _
  rw [hg]
  delta decodeScalar
  simp only [fx, fld, hw, Laws.extract_hi, Laws.extract_lo, Nat.reduceLeDiff, Nat.reduceAdd, Nat.reduceSub]
  simp

theorem Rows.lid :
    ∀ d e, Rows.Statement (.lid d e) := by
  intro d e k hk
  obtain rfl : Cls.scalar = k := Option.some.inj hk
  obtain ⟨word, hw⟩ : ∃ word : Lane, word = (33#6 ++ d ++ 0#19 ++ e ++ 0#1 : BitVec 32) := ⟨_, rfl⟩
  have hg : encode (.lid d e) = word := hw.symm
  change decodeScalar _ = _
  rw [hg]
  delta decodeScalar
  simp only [fx, fld, hw, Laws.extract_hi, Laws.extract_lo, Nat.reduceLeDiff, Nat.reduceAdd, Nat.reduceSub]
  simp

theorem Rows.cmp :
    ∀ c a k b, Rows.Statement (.cmp c a k b) := by
  intro c a k b k hk
  obtain rfl : Cls.scalar = k := Option.some.inj hk
  obtain ⟨word, hw⟩ : ∃ word : Lane, word = (34#6 ++ c ++ a ++ 0#1 ++ k ++ b ++ 0#8 : BitVec 32) := ⟨_, rfl⟩
  have hg : encode (.cmp c a k b) = word := hw.symm
  change decodeScalar _ = _
  rw [hg]
  delta decodeScalar
  simp only [fx, fld, hw, Laws.extract_hi, Laws.extract_lo, Nat.reduceLeDiff, Nat.reduceAdd, Nat.reduceSub]
  simp

theorem Rows.cmpi :
    ∀ c a k i, Rows.Statement (.cmpi c a k i) := by
  intro c a k i k hk
  obtain rfl : Cls.scalar = k := Option.some.inj hk
  obtain ⟨word, hw⟩ : ∃ word : Lane, word = (35#6 ++ c ++ a ++ 0#1 ++ k ++ i : BitVec 32) := ⟨_, rfl⟩
  have hg : encode (.cmpi c a k i) = word := hw.symm
  change decodeScalar _ = _
  rw [hg]
  delta decodeScalar
  simp only [fx, fld, hw, Laws.extract_hi, Laws.extract_lo, Nat.reduceLeDiff, Nat.reduceAdd, Nat.reduceSub]
  simp

theorem Rows.cset :
    ∀ d a b l, Rows.Statement (.cset d a b l) := by
  intro d a b l k hk
  obtain rfl : Cls.scalar = k := Option.some.inj hk
  obtain ⟨word, hw⟩ : ∃ word : Lane, word = (36#6 ++ d ++ a ++ b ++ l ++ 0#10 : BitVec 32) := ⟨_, rfl⟩
  have hg : encode (.cset d a b l) = word := hw.symm
  change decodeScalar _ = _
  rw [hg]
  delta decodeScalar
  simp only [fx, fld, hw, Laws.extract_hi, Laws.extract_lo, Nat.reduceLeDiff, Nat.reduceAdd, Nat.reduceSub]
  simp

theorem Rows.ld :
    ∀ d a z s o, Rows.Statement (.ld d a z s o) := by
  intro d a z s o k hk
  obtain rfl : Cls.scalar = k := Option.some.inj hk
  obtain ⟨word, hw⟩ : ∃ word : Lane, word = (40#6 ++ d ++ a ++ z ++ s ++ o : BitVec 32) := ⟨_, rfl⟩
  have hg : encode (.ld d a z s o) = word := hw.symm
  change decodeScalar _ = _
  rw [hg]
  delta decodeScalar
  simp only [fx, fld, hw, Laws.extract_hi, Laws.extract_lo, Nat.reduceLeDiff, Nat.reduceAdd, Nat.reduceSub]
  simp

theorem Rows.st :
    ∀ s a z o, Rows.Statement (.st s a z o) := by
  intro s a z o k hk
  obtain rfl : Cls.scalar = k := Option.some.inj hk
  obtain ⟨word, hw⟩ : ∃ word : Lane, word = (41#6 ++ s ++ a ++ z ++ 0#1 ++ o : BitVec 32) := ⟨_, rfl⟩
  have hg : encode (.st s a z o) = word := hw.symm
  change decodeScalar _ = _
  rw [hg]
  delta decodeScalar
  simp only [fx, fld, hw, Laws.extract_hi, Laws.extract_lo, Nat.reduceLeDiff, Nat.reduceAdd, Nat.reduceSub]
  simp

theorem Rows.mbr :
    ∀ d m, Rows.Statement (.mbr d m) := by
  intro d m k hk
  obtain rfl : Cls.scalar = k := Option.some.inj hk
  obtain ⟨word, hw⟩ : ∃ word : Lane, word = (42#6 ++ d ++ m ++ 0#17 : BitVec 32) := ⟨_, rfl⟩
  have hg : encode (.mbr d m) = word := hw.symm
  change decodeScalar _ = _
  rw [hg]
  delta decodeScalar
  simp only [fx, fld, hw, Laws.extract_hi, Laws.extract_lo, Nat.reduceLeDiff, Nat.reduceAdd, Nat.reduceSub]
  simp

theorem Rows.mbw :
    ∀ s m, Rows.Statement (.mbw s m) := by
  intro s m k hk
  obtain rfl : Cls.scalar = k := Option.some.inj hk
  obtain ⟨word, hw⟩ : ∃ word : Lane, word = (43#6 ++ s ++ m ++ 0#17 : BitVec 32) := ⟨_, rfl⟩
  have hg : encode (.mbw s m) = word := hw.symm
  change decodeScalar _ = _
  rw [hg]
  delta decodeScalar
  simp only [fx, fld, hw, Laws.extract_hi, Laws.extract_lo, Nat.reduceLeDiff, Nat.reduceAdd, Nat.reduceSub]
  simp

theorem Rows.srr :
    ∀ d n, Rows.Statement (.srr d n) := by
  intro d n k hk
  obtain rfl : Cls.scalar = k := Option.some.inj hk
  obtain ⟨word, hw⟩ : ∃ word : Lane, word = (44#6 ++ d ++ n ++ 0#9 : BitVec 32) := ⟨_, rfl⟩
  have hg : encode (.srr d n) = word := hw.symm
  change decodeScalar _ = _
  rw [hg]
  delta decodeScalar
  simp only [fx, fld, hw, Laws.extract_hi, Laws.extract_lo, Nat.reduceLeDiff, Nat.reduceAdd, Nat.reduceSub]
  simp

theorem Rows.srw :
    ∀ s n, Rows.Statement (.srw s n) := by
  intro s n k hk
  obtain rfl : Cls.scalar = k := Option.some.inj hk
  obtain ⟨word, hw⟩ : ∃ word : Lane, word = (45#6 ++ s ++ n ++ 0#9 : BitVec 32) := ⟨_, rfl⟩
  have hg : encode (.srw s n) = word := hw.symm
  change decodeScalar _ = _
  rw [hg]
  delta decodeScalar
  simp only [fx, fld, hw, Laws.extract_hi, Laws.extract_lo, Nat.reduceLeDiff, Nat.reduceAdd, Nat.reduceSub]
  simp

theorem Rows.srset :
    ∀ s n, Rows.Statement (.srset s n) := by
  intro s n k hk
  obtain rfl : Cls.scalar = k := Option.some.inj hk
  obtain ⟨word, hw⟩ : ∃ word : Lane, word = (46#6 ++ s ++ n ++ 0#9 : BitVec 32) := ⟨_, rfl⟩
  have hg : encode (.srset s n) = word := hw.symm
  change decodeScalar _ = _
  rw [hg]
  delta decodeScalar
  simp only [fx, fld, hw, Laws.extract_hi, Laws.extract_lo, Nat.reduceLeDiff, Nat.reduceAdd, Nat.reduceSub]
  simp

theorem Rows.srclr :
    ∀ s n, Rows.Statement (.srclr s n) := by
  intro s n k hk
  obtain rfl : Cls.scalar = k := Option.some.inj hk
  obtain ⟨word, hw⟩ : ∃ word : Lane, word = (47#6 ++ s ++ n ++ 0#9 : BitVec 32) := ⟨_, rfl⟩
  have hg : encode (.srclr s n) = word := hw.symm
  change decodeScalar _ = _
  rw [hg]
  delta decodeScalar
  simp only [fx, fld, hw, Laws.extract_hi, Laws.extract_lo, Nat.reduceLeDiff, Nat.reduceAdd, Nat.reduceSub]
  simp

theorem Rows.mvx :
    ∀ d c v l, Rows.Statement (.mvx d c v l) := by
  intro d c v l k hk
  obtain rfl : Cls.scalar = k := Option.some.inj hk
  obtain ⟨word, hw⟩ : ∃ word : Lane, word = (48#6 ++ d ++ c ++ v ++ l ++ 0#8 : BitVec 32) := ⟨_, rfl⟩
  have hg : encode (.mvx d c v l) = word := hw.symm
  change decodeScalar _ = _
  rw [hg]
  delta decodeScalar
  simp only [fx, fld, hw, Laws.extract_hi, Laws.extract_lo, Nat.reduceLeDiff, Nat.reduceAdd, Nat.reduceSub]
  simp

theorem Rows.mxv :
    ∀ s c v l, Rows.Statement (.mxv s c v l) := by
  intro s c v l k hk
  obtain rfl : Cls.scalar = k := Option.some.inj hk
  obtain ⟨word, hw⟩ : ∃ word : Lane, word = (49#6 ++ s ++ c ++ v ++ l ++ 0#8 : BitVec 32) := ⟨_, rfl⟩
  have hg : encode (.mxv s c v l) = word := hw.symm
  change decodeScalar _ = _
  rw [hg]
  delta decodeScalar
  simp only [fx, fld, hw, Laws.extract_hi, Laws.extract_lo, Nat.reduceLeDiff, Nat.reduceAdd, Nat.reduceSub]
  simp

theorem Rows.agb :
    ∀ g a, Rows.Statement (.agb g a) := by
  intro g a k hk
  obtain rfl : Cls.scalar = k := Option.some.inj hk
  obtain ⟨word, hw⟩ : ∃ word : Lane, word = (50#6 ++ g ++ a ++ 0#15 : BitVec 32) := ⟨_, rfl⟩
  have hg : encode (.agb g a) = word := hw.symm
  change decodeScalar _ = _
  rw [hg]
  delta decodeScalar
  simp only [fx, fld, hw, Laws.extract_hi, Laws.extract_lo, Nat.reduceLeDiff, Nat.reduceAdd, Nat.reduceSub]
  simp

theorem Rows.agl :
    ∀ g l b s, Rows.Statement (.agl g l b s) := by
  intro g l b s k hk
  obtain rfl : Cls.scalar = k := Option.some.inj hk
  obtain ⟨word, hw⟩ : ∃ word : Lane, word = (51#6 ++ g ++ l ++ b ++ s ++ 0#7 : BitVec 32) := ⟨_, rfl⟩
  have hg : encode (.agl g l b s) = word := hw.symm
  change decodeScalar _ = _
  rw [hg]
  delta decodeScalar
  simp only [fx, fld, hw, Laws.extract_hi, Laws.extract_lo, Nat.reduceLeDiff, Nat.reduceAdd, Nat.reduceSub]
  simp

theorem Rows.agp :
    ∀ g a, Rows.Statement (.agp g a) := by
  intro g a k hk
  obtain rfl : Cls.scalar = k := Option.some.inj hk
  obtain ⟨word, hw⟩ : ∃ word : Lane, word = (52#6 ++ g ++ a ++ 0#15 : BitVec 32) := ⟨_, rfl⟩
  have hg : encode (.agp g a) = word := hw.symm
  change decodeScalar _ = _
  rw [hg]
  delta decodeScalar
  simp only [fx, fld, hw, Laws.extract_hi, Laws.extract_lo, Nat.reduceLeDiff, Nat.reduceAdd, Nat.reduceSub]
  simp

theorem Rows.agr :
    ∀ g, Rows.Statement (.agr g) := by
  intro g k hk
  obtain rfl : Cls.scalar = k := Option.some.inj hk
  obtain ⟨word, hw⟩ : ∃ word : Lane, word = (53#6 ++ g ++ 0#20 : BitVec 32) := ⟨_, rfl⟩
  have hg : encode (.agr g) = word := hw.symm
  change decodeScalar _ = _
  rw [hg]
  delta decodeScalar
  simp only [fx, fld, hw, Laws.extract_hi, Laws.extract_lo, Nat.reduceLeDiff, Nat.reduceAdd, Nat.reduceSub]
  simp

theorem Rows.vadd :
    ∀ w d a b k r f, Rows.Statement (.vadd w d a b k r f) := by
  intro w d a b k r f k hk
  obtain rfl : Cls.vector = k := Option.some.inj hk
  obtain ⟨word, hw⟩ : ∃ word : Lane, word = (1#6 ++ w ++ d ++ a ++ b ++ k ++ r ++ f : BitVec 32) := ⟨_, rfl⟩
  have hg : encode (.vadd w d a b k r f) = word := hw.symm
  change decodeVector _ = _
  rw [hg]
  delta decodeVector
  simp only [fx, fld, hw, Laws.extract_hi, Laws.extract_lo, Nat.reduceLeDiff, Nat.reduceAdd, Nat.reduceSub]
  simp

theorem Rows.vsub :
    ∀ w d a b k r f, Rows.Statement (.vsub w d a b k r f) := by
  intro w d a b k r f k hk
  obtain rfl : Cls.vector = k := Option.some.inj hk
  obtain ⟨word, hw⟩ : ∃ word : Lane, word = (2#6 ++ w ++ d ++ a ++ b ++ k ++ r ++ f : BitVec 32) := ⟨_, rfl⟩
  have hg : encode (.vsub w d a b k r f) = word := hw.symm
  change decodeVector _ = _
  rw [hg]
  delta decodeVector
  simp only [fx, fld, hw, Laws.extract_hi, Laws.extract_lo, Nat.reduceLeDiff, Nat.reduceAdd, Nat.reduceSub]
  simp

theorem Rows.vmul :
    ∀ w d a b k r f, Rows.Statement (.vmul w d a b k r f) := by
  intro w d a b k r f k hk
  obtain rfl : Cls.vector = k := Option.some.inj hk
  obtain ⟨word, hw⟩ : ∃ word : Lane, word = (3#6 ++ w ++ d ++ a ++ b ++ k ++ r ++ f : BitVec 32) := ⟨_, rfl⟩
  have hg : encode (.vmul w d a b k r f) = word := hw.symm
  change decodeVector _ = _
  rw [hg]
  delta decodeVector
  simp only [fx, fld, hw, Laws.extract_hi, Laws.extract_lo, Nat.reduceLeDiff, Nat.reduceAdd, Nat.reduceSub]
  simp

theorem Rows.vmax :
    ∀ w d a b k f, Rows.Statement (.vmax w d a b k f) := by
  intro w d a b k f k hk
  obtain rfl : Cls.vector = k := Option.some.inj hk
  obtain ⟨word, hw⟩ : ∃ word : Lane, word = (4#6 ++ w ++ d ++ a ++ b ++ k ++ 0#3 ++ f : BitVec 32) := ⟨_, rfl⟩
  have hg : encode (.vmax w d a b k f) = word := hw.symm
  change decodeVector _ = _
  rw [hg]
  delta decodeVector
  simp only [fx, fld, hw, Laws.extract_hi, Laws.extract_lo, Nat.reduceLeDiff, Nat.reduceAdd, Nat.reduceSub]
  simp

theorem Rows.vmin :
    ∀ w d a b k f, Rows.Statement (.vmin w d a b k f) := by
  intro w d a b k f k hk
  obtain rfl : Cls.vector = k := Option.some.inj hk
  obtain ⟨word, hw⟩ : ∃ word : Lane, word = (5#6 ++ w ++ d ++ a ++ b ++ k ++ 0#3 ++ f : BitVec 32) := ⟨_, rfl⟩
  have hg : encode (.vmin w d a b k f) = word := hw.symm
  change decodeVector _ = _
  rw [hg]
  delta decodeVector
  simp only [fx, fld, hw, Laws.extract_hi, Laws.extract_lo, Nat.reduceLeDiff, Nat.reduceAdd, Nat.reduceSub]
  simp

theorem Rows.vabs :
    ∀ w d a k f, Rows.Statement (.vabs w d a k f) := by
  intro w d a k f k hk
  obtain rfl : Cls.vector = k := Option.some.inj hk
  obtain ⟨word, hw⟩ : ∃ word : Lane, word = (6#6 ++ w ++ d ++ a ++ 0#5 ++ k ++ 0#3 ++ f : BitVec 32) := ⟨_, rfl⟩
  have hg : encode (.vabs w d a k f) = word := hw.symm
  change decodeVector _ = _
  rw [hg]
  delta decodeVector
  simp only [fx, fld, hw, Laws.extract_hi, Laws.extract_lo, Nat.reduceLeDiff, Nat.reduceAdd, Nat.reduceSub]
  simp

theorem Rows.vneg :
    ∀ w d a k f, Rows.Statement (.vneg w d a k f) := by
  intro w d a k f k hk
  obtain rfl : Cls.vector = k := Option.some.inj hk
  obtain ⟨word, hw⟩ : ∃ word : Lane, word = (7#6 ++ w ++ d ++ a ++ 0#5 ++ k ++ 0#3 ++ f : BitVec 32) := ⟨_, rfl⟩
  have hg : encode (.vneg w d a k f) = word := hw.symm
  change decodeVector _ = _
  rw [hg]
  delta decodeVector
  simp only [fx, fld, hw, Laws.extract_hi, Laws.extract_lo, Nat.reduceLeDiff, Nat.reduceAdd, Nat.reduceSub]
  simp

theorem Rows.vfcmp :
    ∀ w d a b k c f, Rows.Statement (.vfcmp w d a b k c f) := by
  intro w d a b k c f k hk
  obtain rfl : Cls.vector = k := Option.some.inj hk
  obtain ⟨word, hw⟩ : ∃ word : Lane, word = (8#6 ++ w ++ 0#2 ++ d ++ a ++ b ++ k ++ c ++ f : BitVec 32) := ⟨_, rfl⟩
  have hg : encode (.vfcmp w d a b k c f) = word := hw.symm
  change decodeVector _ = _
  rw [hg]
  delta decodeVector
  simp only [fx, fld, hw, Laws.extract_hi, Laws.extract_lo, Nat.reduceLeDiff, Nat.reduceAdd, Nat.reduceSub]
  simp

theorem Rows.viadd :
    ∀ w d a b k s f, Rows.Statement (.viadd w d a b k s f) := by
  intro w d a b k s f k hk
  obtain rfl : Cls.vector = k := Option.some.inj hk
  obtain ⟨word, hw⟩ : ∃ word : Lane, word = (16#6 ++ w ++ d ++ a ++ b ++ k ++ 0#2 ++ s ++ f : BitVec 32) := ⟨_, rfl⟩
  have hg : encode (.viadd w d a b k s f) = word := hw.symm
  change decodeVector _ = _
  rw [hg]
  delta decodeVector
  simp only [fx, fld, hw, Laws.extract_hi, Laws.extract_lo, Nat.reduceLeDiff, Nat.reduceAdd, Nat.reduceSub]
  simp

theorem Rows.visub :
    ∀ w d a b k s f, Rows.Statement (.visub w d a b k s f) := by
  intro w d a b k s f k hk
  obtain rfl : Cls.vector = k := Option.some.inj hk
  obtain ⟨word, hw⟩ : ∃ word : Lane, word = (17#6 ++ w ++ d ++ a ++ b ++ k ++ 0#2 ++ s ++ f : BitVec 32) := ⟨_, rfl⟩
  have hg : encode (.visub w d a b k s f) = word := hw.symm
  change decodeVector _ = _
  rw [hg]
  delta decodeVector
  simp only [fx, fld, hw, Laws.extract_hi, Laws.extract_lo, Nat.reduceLeDiff, Nat.reduceAdd, Nat.reduceSub]
  simp

theorem Rows.vimul :
    ∀ w d a b k s f, Rows.Statement (.vimul w d a b k s f) := by
  intro w d a b k s f k hk
  obtain rfl : Cls.vector = k := Option.some.inj hk
  obtain ⟨word, hw⟩ : ∃ word : Lane, word = (18#6 ++ w ++ d ++ a ++ b ++ k ++ 0#2 ++ s ++ f : BitVec 32) := ⟨_, rfl⟩
  have hg : encode (.vimul w d a b k s f) = word := hw.symm
  change decodeVector _ = _
  rw [hg]
  delta decodeVector
  simp only [fx, fld, hw, Laws.extract_hi, Laws.extract_lo, Nat.reduceLeDiff, Nat.reduceAdd, Nat.reduceSub]
  simp

theorem Rows.vimulh :
    ∀ w d a b k f, Rows.Statement (.vimulh w d a b k f) := by
  intro w d a b k f k hk
  obtain rfl : Cls.vector = k := Option.some.inj hk
  obtain ⟨word, hw⟩ : ∃ word : Lane, word = (19#6 ++ w ++ d ++ a ++ b ++ k ++ 0#3 ++ f : BitVec 32) := ⟨_, rfl⟩
  have hg : encode (.vimulh w d a b k f) = word := hw.symm
  change decodeVector _ = _
  rw [hg]
  delta decodeVector
  simp only [fx, fld, hw, Laws.extract_hi, Laws.extract_lo, Nat.reduceLeDiff, Nat.reduceAdd, Nat.reduceSub]
  simp

theorem Rows.vimax :
    ∀ w d a b k f, Rows.Statement (.vimax w d a b k f) := by
  intro w d a b k f k hk
  obtain rfl : Cls.vector = k := Option.some.inj hk
  obtain ⟨word, hw⟩ : ∃ word : Lane, word = (20#6 ++ w ++ d ++ a ++ b ++ k ++ 0#3 ++ f : BitVec 32) := ⟨_, rfl⟩
  have hg : encode (.vimax w d a b k f) = word := hw.symm
  change decodeVector _ = _
  rw [hg]
  delta decodeVector
  simp only [fx, fld, hw, Laws.extract_hi, Laws.extract_lo, Nat.reduceLeDiff, Nat.reduceAdd, Nat.reduceSub]
  simp

theorem Rows.vimin :
    ∀ w d a b k f, Rows.Statement (.vimin w d a b k f) := by
  intro w d a b k f k hk
  obtain rfl : Cls.vector = k := Option.some.inj hk
  obtain ⟨word, hw⟩ : ∃ word : Lane, word = (21#6 ++ w ++ d ++ a ++ b ++ k ++ 0#3 ++ f : BitVec 32) := ⟨_, rfl⟩
  have hg : encode (.vimin w d a b k f) = word := hw.symm
  change decodeVector _ = _
  rw [hg]
  delta decodeVector
  simp only [fx, fld, hw, Laws.extract_hi, Laws.extract_lo, Nat.reduceLeDiff, Nat.reduceAdd, Nat.reduceSub]
  simp

theorem Rows.vshl :
    ∀ w d a b k s f, Rows.Statement (.vshl w d a b k s f) := by
  intro w d a b k s f k hk
  obtain rfl : Cls.vector = k := Option.some.inj hk
  obtain ⟨word, hw⟩ : ∃ word : Lane, word = (22#6 ++ w ++ d ++ a ++ b ++ k ++ 0#2 ++ s ++ f : BitVec 32) := ⟨_, rfl⟩
  have hg : encode (.vshl w d a b k s f) = word := hw.symm
  change decodeVector _ = _
  rw [hg]
  delta decodeVector
  simp only [fx, fld, hw, Laws.extract_hi, Laws.extract_lo, Nat.reduceLeDiff, Nat.reduceAdd, Nat.reduceSub]
  simp

theorem Rows.vshr :
    ∀ w d a b k f, Rows.Statement (.vshr w d a b k f) := by
  intro w d a b k f k hk
  obtain rfl : Cls.vector = k := Option.some.inj hk
  obtain ⟨word, hw⟩ : ∃ word : Lane, word = (23#6 ++ w ++ d ++ a ++ b ++ k ++ 0#3 ++ f : BitVec 32) := ⟨_, rfl⟩
  have hg : encode (.vshr w d a b k f) = word := hw.symm
  change decodeVector _ = _
  rw [hg]
  delta decodeVector
  simp only [fx, fld, hw, Laws.extract_hi, Laws.extract_lo, Nat.reduceLeDiff, Nat.reduceAdd, Nat.reduceSub]
  simp

theorem Rows.vsar :
    ∀ w d a b k f, Rows.Statement (.vsar w d a b k f) := by
  intro w d a b k f k hk
  obtain rfl : Cls.vector = k := Option.some.inj hk
  obtain ⟨word, hw⟩ : ∃ word : Lane, word = (24#6 ++ w ++ d ++ a ++ b ++ k ++ 0#3 ++ f : BitVec 32) := ⟨_, rfl⟩
  have hg : encode (.vsar w d a b k f) = word := hw.symm
  change decodeVector _ = _
  rw [hg]
  delta decodeVector
  simp only [fx, fld, hw, Laws.extract_hi, Laws.extract_lo, Nat.reduceLeDiff, Nat.reduceAdd, Nat.reduceSub]
  simp

theorem Rows.vicmp :
    ∀ w d a b k c f, Rows.Statement (.vicmp w d a b k c f) := by
  intro w d a b k c f k hk
  obtain rfl : Cls.vector = k := Option.some.inj hk
  obtain ⟨word, hw⟩ : ∃ word : Lane, word = (25#6 ++ w ++ 0#2 ++ d ++ a ++ b ++ k ++ c ++ f : BitVec 32) := ⟨_, rfl⟩
  have hg : encode (.vicmp w d a b k c f) = word := hw.symm
  change decodeVector _ = _
  rw [hg]
  delta decodeVector
  simp only [fx, fld, hw, Laws.extract_hi, Laws.extract_lo, Nat.reduceLeDiff, Nat.reduceAdd, Nat.reduceSub]
  simp

theorem Rows.viabs :
    ∀ w d a k s f, Rows.Statement (.viabs w d a k s f) := by
  intro w d a k s f k hk
  obtain rfl : Cls.vector = k := Option.some.inj hk
  obtain ⟨word, hw⟩ : ∃ word : Lane, word = (26#6 ++ w ++ d ++ a ++ 0#5 ++ k ++ 0#2 ++ s ++ f : BitVec 32) := ⟨_, rfl⟩
  have hg : encode (.viabs w d a k s f) = word := hw.symm
  change decodeVector _ = _
  rw [hg]
  delta decodeVector
  simp only [fx, fld, hw, Laws.extract_hi, Laws.extract_lo, Nat.reduceLeDiff, Nat.reduceAdd, Nat.reduceSub]
  simp

theorem Rows.vand :
    ∀ w d a b k, Rows.Statement (.vand w d a b k) := by
  intro w d a b k k hk
  obtain rfl : Cls.vector = k := Option.some.inj hk
  obtain ⟨word, hw⟩ : ∃ word : Lane, word = (32#6 ++ w ++ d ++ a ++ b ++ k ++ 0#6 : BitVec 32) := ⟨_, rfl⟩
  have hg : encode (.vand w d a b k) = word := hw.symm
  change decodeVector _ = _
  rw [hg]
  delta decodeVector
  simp only [fx, fld, hw, Laws.extract_hi, Laws.extract_lo, Nat.reduceLeDiff, Nat.reduceAdd, Nat.reduceSub]
  simp

theorem Rows.vor :
    ∀ w d a b k, Rows.Statement (.vor w d a b k) := by
  intro w d a b k k hk
  obtain rfl : Cls.vector = k := Option.some.inj hk
  obtain ⟨word, hw⟩ : ∃ word : Lane, word = (33#6 ++ w ++ d ++ a ++ b ++ k ++ 0#6 : BitVec 32) := ⟨_, rfl⟩
  have hg : encode (.vor w d a b k) = word := hw.symm
  change decodeVector _ = _
  rw [hg]
  delta decodeVector
  simp only [fx, fld, hw, Laws.extract_hi, Laws.extract_lo, Nat.reduceLeDiff, Nat.reduceAdd, Nat.reduceSub]
  simp

theorem Rows.vxor :
    ∀ w d a b k, Rows.Statement (.vxor w d a b k) := by
  intro w d a b k k hk
  obtain rfl : Cls.vector = k := Option.some.inj hk
  obtain ⟨word, hw⟩ : ∃ word : Lane, word = (34#6 ++ w ++ d ++ a ++ b ++ k ++ 0#6 : BitVec 32) := ⟨_, rfl⟩
  have hg : encode (.vxor w d a b k) = word := hw.symm
  change decodeVector _ = _
  rw [hg]
  delta decodeVector
  simp only [fx, fld, hw, Laws.extract_hi, Laws.extract_lo, Nat.reduceLeDiff, Nat.reduceAdd, Nat.reduceSub]
  simp

theorem Rows.vandn :
    ∀ w d a b k, Rows.Statement (.vandn w d a b k) := by
  intro w d a b k k hk
  obtain rfl : Cls.vector = k := Option.some.inj hk
  obtain ⟨word, hw⟩ : ∃ word : Lane, word = (35#6 ++ w ++ d ++ a ++ b ++ k ++ 0#6 : BitVec 32) := ⟨_, rfl⟩
  have hg : encode (.vandn w d a b k) = word := hw.symm
  change decodeVector _ = _
  rw [hg]
  delta decodeVector
  simp only [fx, fld, hw, Laws.extract_hi, Laws.extract_lo, Nat.reduceLeDiff, Nat.reduceAdd, Nat.reduceSub]
  simp

theorem Rows.vsel :
    ∀ w d a b k, Rows.Statement (.vsel w d a b k) := by
  intro w d a b k k hk
  obtain rfl : Cls.vector = k := Option.some.inj hk
  obtain ⟨word, hw⟩ : ∃ word : Lane, word = (36#6 ++ w ++ d ++ a ++ b ++ k ++ 0#6 : BitVec 32) := ⟨_, rfl⟩
  have hg : encode (.vsel w d a b k) = word := hw.symm
  change decodeVector _ = _
  rw [hg]
  delta decodeVector
  simp only [fx, fld, hw, Laws.extract_hi, Laws.extract_lo, Nat.reduceLeDiff, Nat.reduceAdd, Nat.reduceSub]
  simp

theorem Rows.vmov :
    ∀ w d a k, Rows.Statement (.vmov w d a k) := by
  intro w d a k k hk
  obtain rfl : Cls.vector = k := Option.some.inj hk
  obtain ⟨word, hw⟩ : ∃ word : Lane, word = (37#6 ++ w ++ d ++ a ++ 0#5 ++ k ++ 0#6 : BitVec 32) := ⟨_, rfl⟩
  have hg : encode (.vmov w d a k) = word := hw.symm
  change decodeVector _ = _
  rw [hg]
  delta decodeVector
  simp only [fx, fld, hw, Laws.extract_hi, Laws.extract_lo, Nat.reduceLeDiff, Nat.reduceAdd, Nat.reduceSub]
  simp

theorem Rows.vli :
    ∀ w d k e, Rows.Statement (.vli w d k e) := by
  intro w d k e k hk
  obtain rfl : Cls.vector = k := Option.some.inj hk
  obtain ⟨word, hw⟩ : ∃ word : Lane, word = (38#6 ++ w ++ d ++ 0#10 ++ k ++ 0#4 ++ e : BitVec 32) := ⟨_, rfl⟩
  have hg : encode (.vli w d k e) = word := hw.symm
  change decodeVector _ = _
  rw [hg]
  delta decodeVector
  simp only [fx, fld, hw, Laws.extract_hi, Laws.extract_lo, Nat.reduceLeDiff, Nat.reduceAdd, Nat.reduceSub]
  simp

theorem Rows.vkop :
    ∀ w d a b l, Rows.Statement (.vkop w d a b l) := by
  intro w d a b l k hk
  obtain rfl : Cls.vector = k := Option.some.inj hk
  obtain ⟨word, hw⟩ : ∃ word : Lane, word = (39#6 ++ w ++ 0#2 ++ d ++ 0#2 ++ a ++ 0#2 ++ b ++ 0#5 ++ l : BitVec 32) := ⟨_, rfl⟩
  have hg : encode (.vkop w d a b l) = word := hw.symm
  change decodeVector _ = _
  rw [hg]
  delta decodeVector
  simp only [fx, fld, hw, Laws.extract_hi, Laws.extract_lo, Nat.reduceLeDiff, Nat.reduceAdd, Nat.reduceSub]
  simp

theorem Rows.vpopc :
    ∀ w d a k f, Rows.Statement (.vpopc w d a k f) := by
  intro w d a k f k hk
  obtain rfl : Cls.vector = k := Option.some.inj hk
  obtain ⟨word, hw⟩ : ∃ word : Lane, word = (40#6 ++ w ++ d ++ a ++ 0#5 ++ k ++ 0#3 ++ f : BitVec 32) := ⟨_, rfl⟩
  have hg : encode (.vpopc w d a k f) = word := hw.symm
  change decodeVector _ = _
  rw [hg]
  delta decodeVector
  simp only [fx, fld, hw, Laws.extract_hi, Laws.extract_lo, Nat.reduceLeDiff, Nat.reduceAdd, Nat.reduceSub]
  simp

theorem Rows.vclz :
    ∀ w d a k f, Rows.Statement (.vclz w d a k f) := by
  intro w d a k f k hk
  obtain rfl : Cls.vector = k := Option.some.inj hk
  obtain ⟨word, hw⟩ : ∃ word : Lane, word = (41#6 ++ w ++ d ++ a ++ 0#5 ++ k ++ 0#3 ++ f : BitVec 32) := ⟨_, rfl⟩
  have hg : encode (.vclz w d a k f) = word := hw.symm
  change decodeVector _ = _
  rw [hg]
  delta decodeVector
  simp only [fx, fld, hw, Laws.extract_hi, Laws.extract_lo, Nat.reduceLeDiff, Nat.reduceAdd, Nat.reduceSub]
  simp

theorem Rows.vlcnt :
    ∀ w d k, Rows.Statement (.vlcnt w d k) := by
  intro w d k k hk
  obtain rfl : Cls.vector = k := Option.some.inj hk
  obtain ⟨word, hw⟩ : ∃ word : Lane, word = (42#6 ++ w ++ d ++ 0#10 ++ k ++ 0#6 : BitVec 32) := ⟨_, rfl⟩
  have hg : encode (.vlcnt w d k) = word := hw.symm
  change decodeVector _ = _
  rw [hg]
  delta decodeVector
  simp only [fx, fld, hw, Laws.extract_hi, Laws.extract_lo, Nat.reduceLeDiff, Nat.reduceAdd, Nat.reduceSub]
  simp

theorem Rows.vcvt :
    ∀ w d a t s r u p, Rows.Statement (.vcvt w d a t s r u p) := by
  intro w d a t s r u p k hk
  obtain rfl : Cls.vector = k := Option.some.inj hk
  obtain ⟨word, hw⟩ : ∃ word : Lane, word = (43#6 ++ w ++ d ++ a ++ t ++ s ++ r ++ u ++ p : BitVec 32) := ⟨_, rfl⟩
  have hg : encode (.vcvt w d a t s r u p) = word := hw.symm
  change decodeVector _ = _
  rw [hg]
  delta decodeVector
  simp only [fx, fld, hw, Laws.extract_hi, Laws.extract_lo, Nat.reduceLeDiff, Nat.reduceAdd, Nat.reduceSub]
  simp

theorem Rows.vmxp :
    ∀ w d a t s r p, Rows.Statement (.vmxp w d a t s r p) := by
  intro w d a t s r p k hk
  obtain rfl : Cls.vector = k := Option.some.inj hk
  obtain ⟨word, hw⟩ : ∃ word : Lane, word = (44#6 ++ w ++ d ++ a ++ t ++ s ++ r ++ 0#1 ++ p : BitVec 32) := ⟨_, rfl⟩
  have hg : encode (.vmxp w d a t s r p) = word := hw.symm
  change decodeVector _ = _
  rw [hg]
  delta decodeVector
  simp only [fx, fld, hw, Laws.extract_hi, Laws.extract_lo, Nat.reduceLeDiff, Nat.reduceAdd, Nat.reduceSub]
  simp

theorem Rows.vmxs :
    ∀ w d a t s, Rows.Statement (.vmxs w d a t s) := by
  intro w d a t s k hk
  obtain rfl : Cls.vector = k := Option.some.inj hk
  obtain ⟨word, hw⟩ : ∃ word : Lane, word = (45#6 ++ w ++ d ++ a ++ t ++ s ++ 0#6 : BitVec 32) := ⟨_, rfl⟩
  have hg : encode (.vmxs w d a t s) = word := hw.symm
  change decodeVector _ = _
  rw [hg]
  delta decodeVector
  simp only [fx, fld, hw, Laws.extract_hi, Laws.extract_lo, Nat.reduceLeDiff, Nat.reduceAdd, Nat.reduceSub]
  simp

theorem Rows.vmxu :
    ∀ w d a t s r u p, Rows.Statement (.vmxu w d a t s r u p) := by
  intro w d a t s r u p k hk
  obtain rfl : Cls.vector = k := Option.some.inj hk
  obtain ⟨word, hw⟩ : ∃ word : Lane, word = (46#6 ++ w ++ d ++ a ++ t ++ s ++ r ++ u ++ p : BitVec 32) := ⟨_, rfl⟩
  have hg : encode (.vmxu w d a t s r u p) = word := hw.symm
  change decodeVector _ = _
  rw [hg]
  delta decodeVector
  simp only [fx, fld, hw, Laws.extract_hi, Laws.extract_lo, Nat.reduceLeDiff, Nat.reduceAdd, Nat.reduceSub]
  simp

theorem Rows.vfma :
    ∀ f w d a b c r u, Rows.Statement (.vfma f w d a b c r u) := by
  intro f w d a b c r u k hk
  obtain rfl : Cls.vector = k := Option.some.inj hk
  obtain ⟨word, hw⟩ : ∃ word : Lane, word = (6#3 ++ f ++ w ++ d ++ a ++ b ++ c ++ r ++ u : BitVec 32) := ⟨_, rfl⟩
  have hg : encode (.vfma f w d a b c r u) = word := hw.symm
  change decodeVector _ = _
  rw [hg]
  delta decodeVector
  simp only [Laws.fx_split _ 26 6 _ 3 (by decide)]
  simp only [fx, fld, hw, Laws.extract_hi, Laws.extract_lo, Nat.reduceLeDiff, Nat.reduceAdd, Nat.reduceSub]
  simp

theorem Rows.vexp2 :
    ∀ d a, Rows.Statement (.vexp2 d a) := by
  intro d a k hk
  obtain rfl : Cls.special = k := Option.some.inj hk
  obtain ⟨word, hw⟩ : ∃ word : Lane, word = (1#6 ++ d ++ a ++ 0#20 : BitVec 32) := ⟨_, rfl⟩
  have hg : encode (.vexp2 d a) = word := hw.symm
  change decodeSpecial _ = _
  rw [hg]
  delta decodeSpecial
  simp only [Laws.fx_split _ 23 9 _ 3 (by decide), Laws.fx_split _ 19 13 _ 7 (by decide)]
  simp only [fx, fld, hw, Laws.extract_hi, Laws.extract_lo, Nat.reduceLeDiff, Nat.reduceAdd, Nat.reduceSub]
  simp

theorem Rows.vlog2 :
    ∀ d a, Rows.Statement (.vlog2 d a) := by
  intro d a k hk
  obtain rfl : Cls.special = k := Option.some.inj hk
  obtain ⟨word, hw⟩ : ∃ word : Lane, word = (2#6 ++ d ++ a ++ 0#20 : BitVec 32) := ⟨_, rfl⟩
  have hg : encode (.vlog2 d a) = word := hw.symm
  change decodeSpecial _ = _
  rw [hg]
  delta decodeSpecial
  simp only [Laws.fx_split _ 23 9 _ 3 (by decide), Laws.fx_split _ 19 13 _ 7 (by decide)]
  simp only [fx, fld, hw, Laws.extract_hi, Laws.extract_lo, Nat.reduceLeDiff, Nat.reduceAdd, Nat.reduceSub]
  simp

theorem Rows.vrcpe :
    ∀ d a, Rows.Statement (.vrcpe d a) := by
  intro d a k hk
  obtain rfl : Cls.special = k := Option.some.inj hk
  obtain ⟨word, hw⟩ : ∃ word : Lane, word = (3#6 ++ d ++ a ++ 0#20 : BitVec 32) := ⟨_, rfl⟩
  have hg : encode (.vrcpe d a) = word := hw.symm
  change decodeSpecial _ = _
  rw [hg]
  delta decodeSpecial
  simp only [Laws.fx_split _ 23 9 _ 3 (by decide), Laws.fx_split _ 19 13 _ 7 (by decide)]
  simp only [fx, fld, hw, Laws.extract_hi, Laws.extract_lo, Nat.reduceLeDiff, Nat.reduceAdd, Nat.reduceSub]
  simp

theorem Rows.vrsqe :
    ∀ d a, Rows.Statement (.vrsqe d a) := by
  intro d a k hk
  obtain rfl : Cls.special = k := Option.some.inj hk
  obtain ⟨word, hw⟩ : ∃ word : Lane, word = (4#6 ++ d ++ a ++ 0#20 : BitVec 32) := ⟨_, rfl⟩
  have hg : encode (.vrsqe d a) = word := hw.symm
  change decodeSpecial _ = _
  rw [hg]
  delta decodeSpecial
  simp only [Laws.fx_split _ 23 9 _ 3 (by decide), Laws.fx_split _ 19 13 _ 7 (by decide)]
  simp only [fx, fld, hw, Laws.extract_hi, Laws.extract_lo, Nat.reduceLeDiff, Nat.reduceAdd, Nat.reduceSub]
  simp

theorem Rows.vrcps :
    ∀ d a b r, Rows.Statement (.vrcps d a b r) := by
  intro d a b r k hk
  obtain rfl : Cls.special = k := Option.some.inj hk
  obtain ⟨word, hw⟩ : ∃ word : Lane, word = (5#6 ++ d ++ a ++ b ++ r ++ 0#14 : BitVec 32) := ⟨_, rfl⟩
  have hg : encode (.vrcps d a b r) = word := hw.symm
  change decodeSpecial _ = _
  rw [hg]
  delta decodeSpecial
  simp only [Laws.fx_split _ 23 9 _ 3 (by decide), Laws.fx_split _ 19 13 _ 7 (by decide)]
  simp only [fx, fld, hw, Laws.extract_hi, Laws.extract_lo, Nat.reduceLeDiff, Nat.reduceAdd, Nat.reduceSub]
  simp

theorem Rows.vrsqs :
    ∀ d a b r, Rows.Statement (.vrsqs d a b r) := by
  intro d a b r k hk
  obtain rfl : Cls.special = k := Option.some.inj hk
  obtain ⟨word, hw⟩ : ∃ word : Lane, word = (6#6 ++ d ++ a ++ b ++ r ++ 0#14 : BitVec 32) := ⟨_, rfl⟩
  have hg : encode (.vrsqs d a b r) = word := hw.symm
  change decodeSpecial _ = _
  rw [hg]
  delta decodeSpecial
  simp only [Laws.fx_split _ 23 9 _ 3 (by decide), Laws.fx_split _ 19 13 _ 7 (by decide)]
  simp only [fx, fld, hw, Laws.extract_hi, Laws.extract_lo, Nat.reduceLeDiff, Nat.reduceAdd, Nat.reduceSub]
  simp

theorem Rows.vsqrt :
    ∀ d a r, Rows.Statement (.vsqrt d a r) := by
  intro d a r k hk
  obtain rfl : Cls.special = k := Option.some.inj hk
  obtain ⟨word, hw⟩ : ∃ word : Lane, word = (7#6 ++ d ++ a ++ 0#3 ++ r ++ 0#14 : BitVec 32) := ⟨_, rfl⟩
  have hg : encode (.vsqrt d a r) = word := hw.symm
  change decodeSpecial _ = _
  rw [hg]
  delta decodeSpecial
  simp only [Laws.fx_split _ 23 9 _ 3 (by decide), Laws.fx_split _ 19 13 _ 7 (by decide)]
  simp only [fx, fld, hw, Laws.extract_hi, Laws.extract_lo, Nat.reduceLeDiff, Nat.reduceAdd, Nat.reduceSub]
  simp

theorem Rows.ftbl :
    ∀ d a r f t, Rows.Statement (.ftbl d a r f t) := by
  intro d a r f t k hk
  obtain rfl : Cls.special = k := Option.some.inj hk
  obtain ⟨word, hw⟩ : ∃ word : Lane, word = (8#6 ++ d ++ a ++ 0#3 ++ r ++ f ++ t ++ 0#4 : BitVec 32) := ⟨_, rfl⟩
  have hg : encode (.ftbl d a r f t) = word := hw.symm
  change decodeSpecial _ = _
  rw [hg]
  delta decodeSpecial
  simp only [Laws.fx_split _ 23 9 _ 3 (by decide), Laws.fx_split _ 19 13 _ 7 (by decide)]
  simp only [fx, fld, hw, Laws.extract_hi, Laws.extract_lo, Nat.reduceLeDiff, Nat.reduceAdd, Nat.reduceSub]
  simp

theorem Rows.ftld :
    ∀ a t p, Rows.Statement (.ftld a t p) := by
  intro a t p k hk
  obtain rfl : Cls.special = k := Option.some.inj hk
  obtain ⟨word, hw⟩ : ∃ word : Lane, word = (72#9 ++ a ++ 0#10 ++ t ++ p : BitVec 32) := ⟨_, rfl⟩
  have hg : encode (.ftld a t p) = word := hw.symm
  change decodeSpecial _ = _
  rw [hg]
  delta decodeSpecial
  simp only [Laws.fx_split _ 23 9 _ 3 (by decide), Laws.fx_split _ 19 13 _ 7 (by decide)]
  simp only [fx, fld, hw, Laws.extract_hi, Laws.extract_lo, Nat.reduceLeDiff, Nat.reduceAdd, Nat.reduceSub]
  simp

theorem Rows.fmov :
    ∀ d a, Rows.Statement (.fmov d a) := by
  intro d a k hk
  obtain rfl : Cls.special = k := Option.some.inj hk
  obtain ⟨word, hw⟩ : ∃ word : Lane, word = (10#6 ++ d ++ a ++ 0#20 : BitVec 32) := ⟨_, rfl⟩
  have hg : encode (.fmov d a) = word := hw.symm
  change decodeSpecial _ = _
  rw [hg]
  delta decodeSpecial
  simp only [Laws.fx_split _ 23 9 _ 3 (by decide), Laws.fx_split _ 19 13 _ 7 (by decide)]
  simp only [fx, fld, hw, Laws.extract_hi, Laws.extract_lo, Nat.reduceLeDiff, Nat.reduceAdd, Nat.reduceSub]
  simp

theorem Rows.psum :
    ∀ f r c d, Rows.Statement (.psum f r c d) := by
  intro f r c d k hk
  obtain rfl : Cls.special = k := Option.some.inj hk
  obtain ⟨word, hw⟩ : ∃ word : Lane, word = (16#6 ++ f ++ r ++ c ++ 0#3 ++ d ++ 0#12 : BitVec 32) := ⟨_, rfl⟩
  have hg : encode (.psum f r c d) = word := hw.symm
  change decodeSpecial _ = _
  rw [hg]
  delta decodeSpecial
  simp only [Laws.fx_split _ 23 9 _ 3 (by decide), Laws.fx_split _ 19 13 _ 7 (by decide)]
  simp only [fx, fld, hw, Laws.extract_hi, Laws.extract_lo, Nat.reduceLeDiff, Nat.reduceAdd, Nat.reduceSub]
  simp

theorem Rows.pmax :
    ∀ f c d, Rows.Statement (.pmax f c d) := by
  intro f c d k hk
  obtain rfl : Cls.special = k := Option.some.inj hk
  obtain ⟨word, hw⟩ : ∃ word : Lane, word = (17#6 ++ f ++ 0#3 ++ c ++ 0#3 ++ d ++ 0#12 : BitVec 32) := ⟨_, rfl⟩
  have hg : encode (.pmax f c d) = word := hw.symm
  change decodeSpecial _ = _
  rw [hg]
  delta decodeSpecial
  simp only [Laws.fx_split _ 23 9 _ 3 (by decide), Laws.fx_split _ 19 13 _ 7 (by decide)]
  simp only [fx, fld, hw, Laws.extract_hi, Laws.extract_lo, Nat.reduceLeDiff, Nat.reduceAdd, Nat.reduceSub]
  simp

theorem Rows.pmin :
    ∀ f c d, Rows.Statement (.pmin f c d) := by
  intro f c d k hk
  obtain rfl : Cls.special = k := Option.some.inj hk
  obtain ⟨word, hw⟩ : ∃ word : Lane, word = (18#6 ++ f ++ 0#3 ++ c ++ 0#3 ++ d ++ 0#12 : BitVec 32) := ⟨_, rfl⟩
  have hg : encode (.pmin f c d) = word := hw.symm
  change decodeSpecial _ = _
  rw [hg]
  delta decodeSpecial
  simp only [Laws.fx_split _ 23 9 _ 3 (by decide), Laws.fx_split _ 19 13 _ 7 (by decide)]
  simp only [fx, fld, hw, Laws.extract_hi, Laws.extract_lo, Nat.reduceLeDiff, Nat.reduceAdd, Nat.reduceSub]
  simp

theorem Rows.psums :
    ∀ f r c s d, Rows.Statement (.psums f r c s d) := by
  intro f r c s d k hk
  obtain rfl : Cls.special = k := Option.some.inj hk
  obtain ⟨word, hw⟩ : ∃ word : Lane, word = (19#6 ++ f ++ r ++ c ++ s ++ d ++ 0#12 : BitVec 32) := ⟨_, rfl⟩
  have hg : encode (.psums f r c s d) = word := hw.symm
  change decodeSpecial _ = _
  rw [hg]
  delta decodeSpecial
  simp only [Laws.fx_split _ 23 9 _ 3 (by decide), Laws.fx_split _ 19 13 _ 7 (by decide)]
  simp only [fx, fld, hw, Laws.extract_hi, Laws.extract_lo, Nat.reduceLeDiff, Nat.reduceAdd, Nat.reduceSub]
  simp

theorem Rows.pmaxs :
    ∀ f c s d, Rows.Statement (.pmaxs f c s d) := by
  intro f c s d k hk
  obtain rfl : Cls.special = k := Option.some.inj hk
  obtain ⟨word, hw⟩ : ∃ word : Lane, word = (20#6 ++ f ++ 0#3 ++ c ++ s ++ d ++ 0#12 : BitVec 32) := ⟨_, rfl⟩
  have hg : encode (.pmaxs f c s d) = word := hw.symm
  change decodeSpecial _ = _
  rw [hg]
  delta decodeSpecial
  simp only [Laws.fx_split _ 23 9 _ 3 (by decide), Laws.fx_split _ 19 13 _ 7 (by decide)]
  simp only [fx, fld, hw, Laws.extract_hi, Laws.extract_lo, Nat.reduceLeDiff, Nat.reduceAdd, Nat.reduceSub]
  simp

theorem Rows.pmins :
    ∀ f c s d, Rows.Statement (.pmins f c s d) := by
  intro f c s d k hk
  obtain rfl : Cls.special = k := Option.some.inj hk
  obtain ⟨word, hw⟩ : ∃ word : Lane, word = (21#6 ++ f ++ 0#3 ++ c ++ s ++ d ++ 0#12 : BitVec 32) := ⟨_, rfl⟩
  have hg : encode (.pmins f c s d) = word := hw.symm
  change decodeSpecial _ = _
  rw [hg]
  delta decodeSpecial
  simp only [Laws.fx_split _ 23 9 _ 3 (by decide), Laws.fx_split _ 19 13 _ 7 (by decide)]
  simp only [fx, fld, hw, Laws.extract_hi, Laws.extract_lo, Nat.reduceLeDiff, Nat.reduceAdd, Nat.reduceSub]
  simp

theorem Rows.cmpct :
    ∀ c d, Rows.Statement (.cmpct c d) := by
  intro c d k hk
  obtain rfl : Cls.special = k := Option.some.inj hk
  obtain ⟨word, hw⟩ : ∃ word : Lane, word = (2888#13 ++ c ++ 0#3 ++ d ++ 0#12 : BitVec 32) := ⟨_, rfl⟩
  have hg : encode (.cmpct c d) = word := hw.symm
  change decodeSpecial _ = _
  rw [hg]
  delta decodeSpecial
  simp only [Laws.fx_split _ 23 9 _ 3 (by decide), Laws.fx_split _ 19 13 _ 7 (by decide)]
  simp only [fx, fld, hw, Laws.extract_hi, Laws.extract_lo, Nat.reduceLeDiff, Nat.reduceAdd, Nat.reduceSub]
  simp

theorem Rows.mfire :
    ∀ b z, Rows.Statement (.mfire b z) := by
  intro b z k hk
  obtain rfl : Cls.matrix = k := Option.some.inj hk
  obtain ⟨word, hw⟩ : ∃ word : Lane, word = (1#6 ++ b ++ z ++ 0#17 : BitVec 32) := ⟨_, rfl⟩
  have hg : encode (.mfire b z) = word := hw.symm
  change decodeMatrix _ = _
  rw [hg]
  delta decodeMatrix
  simp only [fx, fld, hw, Laws.extract_hi, Laws.extract_lo, Nat.reduceLeDiff, Nat.reduceAdd, Nat.reduceSub]
  simp

theorem Rows.mtile :
    ∀ d t c, Rows.Statement (.mtile d t c) := by
  intro d t c k hk
  obtain rfl : Cls.matrix = k := Option.some.inj hk
  obtain ⟨word, hw⟩ : ∃ word : Lane, word = (2#6 ++ d ++ t ++ c ++ 0#16 : BitVec 32) := ⟨_, rfl⟩
  have hg : encode (.mtile d t c) = word := hw.symm
  change decodeMatrix _ = _
  rw [hg]
  delta decodeMatrix
  simp only [fx, fld, hw, Laws.extract_hi, Laws.extract_lo, Nat.reduceLeDiff, Nat.reduceAdd, Nat.reduceSub]
  simp

theorem Rows.mfmt :
    ∀ a b m, Rows.Statement (.mfmt a b m) := by
  intro a b m k hk
  obtain rfl : Cls.matrix = k := Option.some.inj hk
  obtain ⟨word, hw⟩ : ∃ word : Lane, word = (3#6 ++ a ++ b ++ m ++ 0#17 : BitVec 32) := ⟨_, rfl⟩
  have hg : encode (.mfmt a b m) = word := hw.symm
  change decodeMatrix _ = _
  rw [hg]
  delta decodeMatrix
  simp only [fx, fld, hw, Laws.extract_hi, Laws.extract_lo, Nat.reduceLeDiff, Nat.reduceAdd, Nat.reduceSub]
  simp

theorem Rows.mgeom :
    ∀ a, Rows.Statement (.mgeom a) := by
  intro a k hk
  obtain rfl : Cls.matrix = k := Option.some.inj hk
  obtain ⟨word, hw⟩ : ∃ word : Lane, word = (4#6 ++ a ++ 0#21 : BitVec 32) := ⟨_, rfl⟩
  have hg : encode (.mgeom a) = word := hw.symm
  change decodeMatrix _ = _
  rw [hg]
  delta decodeMatrix
  simp only [fx, fld, hw, Laws.extract_hi, Laws.extract_lo, Nat.reduceLeDiff, Nat.reduceAdd, Nat.reduceSub]
  simp

theorem Rows.mclr :
    ∀ b n, Rows.Statement (.mclr b n) := by
  intro b n k hk
  obtain rfl : Cls.matrix = k := Option.some.inj hk
  obtain ⟨word, hw⟩ : ∃ word : Lane, word = (5#6 ++ b ++ n ++ 0#10 : BitVec 32) := ⟨_, rfl⟩
  have hg : encode (.mclr b n) = word := hw.symm
  change decodeMatrix _ = _
  rw [hg]
  delta decodeMatrix
  simp only [fx, fld, hw, Laws.extract_hi, Laws.extract_lo, Nat.reduceLeDiff, Nat.reduceAdd, Nat.reduceSub]
  simp

theorem Rows.mdrn :
    ∀ b g c, Rows.Statement (.mdrn b g c) := by
  intro b g c k hk
  obtain rfl : Cls.matrix = k := Option.some.inj hk
  obtain ⟨word, hw⟩ : ∃ word : Lane, word = (6#6 ++ b ++ g ++ c ++ 0#14 : BitVec 32) := ⟨_, rfl⟩
  have hg : encode (.mdrn b g c) = word := hw.symm
  change decodeMatrix _ = _
  rw [hg]
  delta decodeMatrix
  simp only [fx, fld, hw, Laws.extract_hi, Laws.extract_lo, Nat.reduceLeDiff, Nat.reduceAdd, Nat.reduceSub]
  simp

theorem Rows.mpre :
    ∀ b g, Rows.Statement (.mpre b g) := by
  intro b g k hk
  obtain rfl : Cls.matrix = k := Option.some.inj hk
  obtain ⟨word, hw⟩ : ∃ word : Lane, word = (7#6 ++ b ++ g ++ 0#15 : BitVec 32) := ⟨_, rfl⟩
  have hg : encode (.mpre b g) = word := hw.symm
  change decodeMatrix _ = _
  rw [hg]
  delta decodeMatrix
  simp only [fx, fld, hw, Laws.extract_hi, Laws.extract_lo, Nat.reduceLeDiff, Nat.reduceAdd, Nat.reduceSub]
  simp

theorem Rows.dcopyLin :
    ∀ d t a r s i, Rows.Statement (.dcopyLin d t a r s i) := by
  intro d t a r s i k hk
  obtain rfl : Cls.async = k := Option.some.inj hk
  obtain ⟨word, hw⟩ : ∃ word : Lane, word = (1#6 ++ d ++ t ++ a ++ r ++ s ++ 0#6 ++ i ++ 0#3 : BitVec 32) := ⟨_, rfl⟩
  have hg : encode (.dcopyLin d t a r s i) = word := hw.symm
  change decodeAsync _ = _
  rw [hg]
  delta decodeAsync
  simp only [Laws.fx_split _ 21 11 _ 5 (by decide)]
  simp only [fx, fld, hw, Laws.extract_hi, Laws.extract_lo, Nat.reduceLeDiff, Nat.reduceAdd, Nat.reduceSub]
  simp

theorem Rows.dcopyStr :
    ∀ d t a r s i, Rows.Statement (.dcopyStr d t a r s i) := by
  intro d t a r s i k hk
  obtain rfl : Cls.async = k := Option.some.inj hk
  obtain ⟨word, hw⟩ : ∃ word : Lane, word = (1#6 ++ d ++ t ++ a ++ r ++ s ++ 0#6 ++ i ++ 1#3 : BitVec 32) := ⟨_, rfl⟩
  have hg : encode (.dcopyStr d t a r s i) = word := hw.symm
  change decodeAsync _ = _
  rw [hg]
  delta decodeAsync
  simp only [Laws.fx_split _ 21 11 _ 5 (by decide)]
  simp only [fx, fld, hw, Laws.extract_hi, Laws.extract_lo, Nat.reduceLeDiff, Nat.reduceAdd, Nat.reduceSub]
  simp

theorem Rows.dcopyNest :
    ∀ d t a r s i, Rows.Statement (.dcopyNest d t a r s i) := by
  intro d t a r s i k hk
  obtain rfl : Cls.async = k := Option.some.inj hk
  obtain ⟨word, hw⟩ : ∃ word : Lane, word = (1#6 ++ d ++ t ++ a ++ r ++ s ++ 0#6 ++ i ++ 2#3 : BitVec 32) := ⟨_, rfl⟩
  have hg : encode (.dcopyNest d t a r s i) = word := hw.symm
  change decodeAsync _ = _
  rw [hg]
  delta decodeAsync
  simp only [Laws.fx_split _ 21 11 _ 5 (by decide)]
  simp only [fx, fld, hw, Laws.extract_hi, Laws.extract_lo, Nat.reduceLeDiff, Nat.reduceAdd, Nat.reduceSub]
  simp

theorem Rows.dcopyPad :
    ∀ d t a r s i, Rows.Statement (.dcopyPad d t a r s i) := by
  intro d t a r s i k hk
  obtain rfl : Cls.async = k := Option.some.inj hk
  obtain ⟨word, hw⟩ : ∃ word : Lane, word = (1#6 ++ d ++ t ++ a ++ r ++ s ++ 0#6 ++ i ++ 3#3 : BitVec 32) := ⟨_, rfl⟩
  have hg : encode (.dcopyPad d t a r s i) = word := hw.symm
  change decodeAsync _ = _
  rw [hg]
  delta decodeAsync
  simp only [Laws.fx_split _ 21 11 _ 5 (by decide)]
  simp only [fx, fld, hw, Laws.extract_hi, Laws.extract_lo, Nat.reduceLeDiff, Nat.reduceAdd, Nat.reduceSub]
  simp

theorem Rows.dcopyView :
    ∀ d t a r s i, Rows.Statement (.dcopyView d t a r s i) := by
  intro d t a r s i k hk
  obtain rfl : Cls.async = k := Option.some.inj hk
  obtain ⟨word, hw⟩ : ∃ word : Lane, word = (1#6 ++ d ++ t ++ a ++ r ++ s ++ 0#6 ++ i ++ 4#3 : BitVec 32) := ⟨_, rfl⟩
  have hg : encode (.dcopyView d t a r s i) = word := hw.symm
  change decodeAsync _ = _
  rw [hg]
  delta decodeAsync
  simp only [Laws.fx_split _ 21 11 _ 5 (by decide)]
  simp only [fx, fld, hw, Laws.extract_hi, Laws.extract_lo, Nat.reduceLeDiff, Nat.reduceAdd, Nat.reduceSub]
  simp

theorem Rows.dcopyRem :
    ∀ d t a r s i, Rows.Statement (.dcopyRem d t a r s i) := by
  intro d t a r s i k hk
  obtain rfl : Cls.async = k := Option.some.inj hk
  obtain ⟨word, hw⟩ : ∃ word : Lane, word = (1#6 ++ d ++ t ++ a ++ r ++ s ++ 0#6 ++ i ++ 5#3 : BitVec 32) := ⟨_, rfl⟩
  have hg : encode (.dcopyRem d t a r s i) = word := hw.symm
  change decodeAsync _ = _
  rw [hg]
  delta decodeAsync
  simp only [Laws.fx_split _ 21 11 _ 5 (by decide)]
  simp only [fx, fld, hw, Laws.extract_hi, Laws.extract_lo, Nat.reduceLeDiff, Nat.reduceAdd, Nat.reduceSub]
  simp

theorem Rows.dcopyHost :
    ∀ d t a r s i, Rows.Statement (.dcopyHost d t a r s i) := by
  intro d t a r s i k hk
  obtain rfl : Cls.async = k := Option.some.inj hk
  obtain ⟨word, hw⟩ : ∃ word : Lane, word = (1#6 ++ d ++ t ++ a ++ r ++ s ++ 0#6 ++ i ++ 6#3 : BitVec 32) := ⟨_, rfl⟩
  have hg : encode (.dcopyHost d t a r s i) = word := hw.symm
  change decodeAsync _ = _
  rw [hg]
  delta decodeAsync
  simp only [Laws.fx_split _ 21 11 _ 5 (by decide)]
  simp only [fx, fld, hw, Laws.extract_hi, Laws.extract_lo, Nat.reduceLeDiff, Nat.reduceAdd, Nat.reduceSub]
  simp

theorem Rows.put :
    ∀ d t a r s, Rows.Statement (.put d t a r s) := by
  intro d t a r s k hk
  obtain rfl : Cls.async = k := Option.some.inj hk
  obtain ⟨word, hw⟩ : ∃ word : Lane, word = (2#6 ++ d ++ t ++ a ++ r ++ s ++ 0#11 : BitVec 32) := ⟨_, rfl⟩
  have hg : encode (.put d t a r s) = word := hw.symm
  change decodeAsync _ = _
  rw [hg]
  delta decodeAsync
  simp only [Laws.fx_split _ 21 11 _ 5 (by decide)]
  simp only [fx, fld, hw, Laws.extract_hi, Laws.extract_lo, Nat.reduceLeDiff, Nat.reduceAdd, Nat.reduceSub]
  simp

theorem Rows.hgath :
    ∀ d t a r s m, Rows.Statement (.hgath d t a r s m) := by
  intro d t a r s m k hk
  obtain rfl : Cls.async = k := Option.some.inj hk
  obtain ⟨word, hw⟩ : ∃ word : Lane, word = (3#6 ++ d ++ t ++ a ++ r ++ s ++ 0#9 ++ m : BitVec 32) := ⟨_, rfl⟩
  have hg : encode (.hgath d t a r s m) = word := hw.symm
  change decodeAsync _ = _
  rw [hg]
  delta decodeAsync
  simp only [Laws.fx_split _ 21 11 _ 5 (by decide)]
  simp only [fx, fld, hw, Laws.extract_hi, Laws.extract_lo, Nat.reduceLeDiff, Nat.reduceAdd, Nat.reduceSub]
  simp

theorem Rows.hredSum :
    ∀ d t a r s u f, Rows.Statement (.hredSum d t a r s u f) := by
  intro d t a r s u f k hk
  obtain rfl : Cls.async = k := Option.some.inj hk
  obtain ⟨word, hw⟩ : ∃ word : Lane, word = (4#6 ++ d ++ t ++ a ++ r ++ s ++ 0#2 ++ u ++ f ++ 0#2 : BitVec 32) := ⟨_, rfl⟩
  have hg : encode (.hredSum d t a r s u f) = word := hw.symm
  change decodeAsync _ = _
  rw [hg]
  delta decodeAsync
  simp only [Laws.fx_split _ 21 11 _ 5 (by decide)]
  simp only [fx, fld, hw, Laws.extract_hi, Laws.extract_lo, Nat.reduceLeDiff, Nat.reduceAdd, Nat.reduceSub]
  simp

theorem Rows.hredMax :
    ∀ d t a r s u f, Rows.Statement (.hredMax d t a r s u f) := by
  intro d t a r s u f k hk
  obtain rfl : Cls.async = k := Option.some.inj hk
  obtain ⟨word, hw⟩ : ∃ word : Lane, word = (4#6 ++ d ++ t ++ a ++ r ++ s ++ 0#2 ++ u ++ f ++ 1#2 : BitVec 32) := ⟨_, rfl⟩
  have hg : encode (.hredMax d t a r s u f) = word := hw.symm
  change decodeAsync _ = _
  rw [hg]
  delta decodeAsync
  simp only [Laws.fx_split _ 21 11 _ 5 (by decide)]
  simp only [fx, fld, hw, Laws.extract_hi, Laws.extract_lo, Nat.reduceLeDiff, Nat.reduceAdd, Nat.reduceSub]
  simp

theorem Rows.hredMin :
    ∀ d t a r s u f, Rows.Statement (.hredMin d t a r s u f) := by
  intro d t a r s u f k hk
  obtain rfl : Cls.async = k := Option.some.inj hk
  obtain ⟨word, hw⟩ : ∃ word : Lane, word = (4#6 ++ d ++ t ++ a ++ r ++ s ++ 0#2 ++ u ++ f ++ 2#2 : BitVec 32) := ⟨_, rfl⟩
  have hg : encode (.hredMin d t a r s u f) = word := hw.symm
  change decodeAsync _ = _
  rw [hg]
  delta decodeAsync
  simp only [Laws.fx_split _ 21 11 _ 5 (by decide)]
  simp only [fx, fld, hw, Laws.extract_hi, Laws.extract_lo, Nat.reduceLeDiff, Nat.reduceAdd, Nat.reduceSub]
  simp

theorem Rows.hcvt :
    ∀ d t a r s, Rows.Statement (.hcvt d t a r s) := by
  intro d t a r s k hk
  obtain rfl : Cls.async = k := Option.some.inj hk
  obtain ⟨word, hw⟩ : ∃ word : Lane, word = (5#6 ++ d ++ t ++ a ++ r ++ s ++ 0#11 : BitVec 32) := ⟨_, rfl⟩
  have hg : encode (.hcvt d t a r s) = word := hw.symm
  change decodeAsync _ = _
  rw [hg]
  delta decodeAsync
  simp only [Laws.fx_split _ 21 11 _ 5 (by decide)]
  simp only [fx, fld, hw, Laws.extract_hi, Laws.extract_lo, Nat.reduceLeDiff, Nat.reduceAdd, Nat.reduceSub]
  simp

theorem Rows.hatomAdd :
    ∀ d t a r s w, Rows.Statement (.hatomAdd d t a r s w) := by
  intro d t a r s w k hk
  obtain rfl : Cls.async = k := Option.some.inj hk
  obtain ⟨word, hw⟩ : ∃ word : Lane, word = (6#6 ++ d ++ t ++ a ++ r ++ s ++ 0#10 ++ w : BitVec 32) := ⟨_, rfl⟩
  have hg : encode (.hatomAdd d t a r s w) = word := hw.symm
  change decodeAsync _ = _
  rw [hg]
  delta decodeAsync
  simp only [Laws.fx_split _ 21 11 _ 5 (by decide)]
  simp only [fx, fld, hw, Laws.extract_hi, Laws.extract_lo, Nat.reduceLeDiff, Nat.reduceAdd, Nat.reduceSub]
  simp

theorem Rows.hatomMax :
    ∀ d t a r s w, Rows.Statement (.hatomMax d t a r s w) := by
  intro d t a r s w k hk
  obtain rfl : Cls.async = k := Option.some.inj hk
  obtain ⟨word, hw⟩ : ∃ word : Lane, word = (6#6 ++ d ++ t ++ a ++ r ++ s ++ 1#10 ++ w : BitVec 32) := ⟨_, rfl⟩
  have hg : encode (.hatomMax d t a r s w) = word := hw.symm
  change decodeAsync _ = _
  rw [hg]
  delta decodeAsync
  simp only [Laws.fx_split _ 21 11 _ 5 (by decide)]
  simp only [fx, fld, hw, Laws.extract_hi, Laws.extract_lo, Nat.reduceLeDiff, Nat.reduceAdd, Nat.reduceSub]
  simp

theorem Rows.hatomMin :
    ∀ d t a r s w, Rows.Statement (.hatomMin d t a r s w) := by
  intro d t a r s w k hk
  obtain rfl : Cls.async = k := Option.some.inj hk
  obtain ⟨word, hw⟩ : ∃ word : Lane, word = (6#6 ++ d ++ t ++ a ++ r ++ s ++ 2#10 ++ w : BitVec 32) := ⟨_, rfl⟩
  have hg : encode (.hatomMin d t a r s w) = word := hw.symm
  change decodeAsync _ = _
  rw [hg]
  delta decodeAsync
  simp only [Laws.fx_split _ 21 11 _ 5 (by decide)]
  simp only [fx, fld, hw, Laws.extract_hi, Laws.extract_lo, Nat.reduceLeDiff, Nat.reduceAdd, Nat.reduceSub]
  simp

theorem Rows.hatomXchg :
    ∀ d t a r s w, Rows.Statement (.hatomXchg d t a r s w) := by
  intro d t a r s w k hk
  obtain rfl : Cls.async = k := Option.some.inj hk
  obtain ⟨word, hw⟩ : ∃ word : Lane, word = (6#6 ++ d ++ t ++ a ++ r ++ s ++ 3#10 ++ w : BitVec 32) := ⟨_, rfl⟩
  have hg : encode (.hatomXchg d t a r s w) = word := hw.symm
  change decodeAsync _ = _
  rw [hg]
  delta decodeAsync
  simp only [Laws.fx_split _ 21 11 _ 5 (by decide)]
  simp only [fx, fld, hw, Laws.extract_hi, Laws.extract_lo, Nat.reduceLeDiff, Nat.reduceAdd, Nat.reduceSub]
  simp

theorem Rows.hatomCas :
    ∀ d t a r s w, Rows.Statement (.hatomCas d t a r s w) := by
  intro d t a r s w k hk
  obtain rfl : Cls.async = k := Option.some.inj hk
  obtain ⟨word, hw⟩ : ∃ word : Lane, word = (6#6 ++ d ++ t ++ a ++ r ++ s ++ 4#10 ++ w : BitVec 32) := ⟨_, rfl⟩
  have hg : encode (.hatomCas d t a r s w) = word := hw.symm
  change decodeAsync _ = _
  rw [hg]
  delta decodeAsync
  simp only [Laws.fx_split _ 21 11 _ 5 (by decide)]
  simp only [fx, fld, hw, Laws.extract_hi, Laws.extract_lo, Nat.reduceLeDiff, Nat.reduceAdd, Nat.reduceSub]
  simp

theorem Rows.hatomAddFp32 :
    ∀ d t a r s, Rows.Statement (.hatomAddFp32 d t a r s) := by
  intro d t a r s k hk
  obtain rfl : Cls.async = k := Option.some.inj hk
  obtain ⟨word, hw⟩ : ∃ word : Lane, word = (6#6 ++ d ++ t ++ a ++ r ++ s ++ 10#11 : BitVec 32) := ⟨_, rfl⟩
  have hg : encode (.hatomAddFp32 d t a r s) = word := hw.symm
  change decodeAsync _ = _
  rw [hg]
  delta decodeAsync
  simp only [Laws.fx_split _ 21 11 _ 5 (by decide)]
  simp only [fx, fld, hw, Laws.extract_hi, Laws.extract_lo, Nat.reduceLeDiff, Nat.reduceAdd, Nat.reduceSub]
  simp

theorem Rows.hatomMaxFp32 :
    ∀ d t a r s, Rows.Statement (.hatomMaxFp32 d t a r s) := by
  intro d t a r s k hk
  obtain rfl : Cls.async = k := Option.some.inj hk
  obtain ⟨word, hw⟩ : ∃ word : Lane, word = (6#6 ++ d ++ t ++ a ++ r ++ s ++ 11#11 : BitVec 32) := ⟨_, rfl⟩
  have hg : encode (.hatomMaxFp32 d t a r s) = word := hw.symm
  change decodeAsync _ = _
  rw [hg]
  delta decodeAsync
  simp only [Laws.fx_split _ 21 11 _ 5 (by decide)]
  simp only [fx, fld, hw, Laws.extract_hi, Laws.extract_lo, Nat.reduceLeDiff, Nat.reduceAdd, Nat.reduceSub]
  simp

theorem Rows.hatomMinFp32 :
    ∀ d t a r s, Rows.Statement (.hatomMinFp32 d t a r s) := by
  intro d t a r s k hk
  obtain rfl : Cls.async = k := Option.some.inj hk
  obtain ⟨word, hw⟩ : ∃ word : Lane, word = (6#6 ++ d ++ t ++ a ++ r ++ s ++ 12#11 : BitVec 32) := ⟨_, rfl⟩
  have hg : encode (.hatomMinFp32 d t a r s) = word := hw.symm
  change decodeAsync _ = _
  rw [hg]
  delta decodeAsync
  simp only [Laws.fx_split _ 21 11 _ 5 (by decide)]
  simp only [fx, fld, hw, Laws.extract_hi, Laws.extract_lo, Nat.reduceLeDiff, Nat.reduceAdd, Nat.reduceSub]
  simp

theorem Rows.probeUnpin :
    ∀ d t a r s, Rows.Statement (.probeUnpin d t a r s) := by
  intro d t a r s k hk
  obtain rfl : Cls.async = k := Option.some.inj hk
  obtain ⟨word, hw⟩ : ∃ word : Lane, word = (7#6 ++ d ++ t ++ a ++ r ++ s ++ 0#11 : BitVec 32) := ⟨_, rfl⟩
  have hg : encode (.probeUnpin d t a r s) = word := hw.symm
  change decodeAsync _ = _
  rw [hg]
  delta decodeAsync
  simp only [Laws.fx_split _ 21 11 _ 5 (by decide)]
  simp only [fx, fld, hw, Laws.extract_hi, Laws.extract_lo, Nat.reduceLeDiff, Nat.reduceAdd, Nat.reduceSub]
  simp

theorem Rows.probeR :
    ∀ d t a r s, Rows.Statement (.probeR d t a r s) := by
  intro d t a r s k hk
  obtain rfl : Cls.async = k := Option.some.inj hk
  obtain ⟨word, hw⟩ : ∃ word : Lane, word = (7#6 ++ d ++ t ++ a ++ r ++ s ++ 1#11 : BitVec 32) := ⟨_, rfl⟩
  have hg : encode (.probeR d t a r s) = word := hw.symm
  change decodeAsync _ = _
  rw [hg]
  delta decodeAsync
  simp only [Laws.fx_split _ 21 11 _ 5 (by decide)]
  simp only [fx, fld, hw, Laws.extract_hi, Laws.extract_lo, Nat.reduceLeDiff, Nat.reduceAdd, Nat.reduceSub]
  simp

theorem Rows.probeW :
    ∀ d t a r s, Rows.Statement (.probeW d t a r s) := by
  intro d t a r s k hk
  obtain rfl : Cls.async = k := Option.some.inj hk
  obtain ⟨word, hw⟩ : ∃ word : Lane, word = (7#6 ++ d ++ t ++ a ++ r ++ s ++ 2#11 : BitVec 32) := ⟨_, rfl⟩
  have hg : encode (.probeW d t a r s) = word := hw.symm
  change decodeAsync _ = _
  rw [hg]
  delta decodeAsync
  simp only [Laws.fx_split _ 21 11 _ 5 (by decide)]
  simp only [fx, fld, hw, Laws.extract_hi, Laws.extract_lo, Nat.reduceLeDiff, Nat.reduceAdd, Nat.reduceSub]
  simp

theorem Rows.probeRw :
    ∀ d t a r s, Rows.Statement (.probeRw d t a r s) := by
  intro d t a r s k hk
  obtain rfl : Cls.async = k := Option.some.inj hk
  obtain ⟨word, hw⟩ : ∃ word : Lane, word = (7#6 ++ d ++ t ++ a ++ r ++ s ++ 3#11 : BitVec 32) := ⟨_, rfl⟩
  have hg : encode (.probeRw d t a r s) = word := hw.symm
  change decodeAsync _ = _
  rw [hg]
  delta decodeAsync
  simp only [Laws.fx_split _ 21 11 _ 5 (by decide)]
  simp only [fx, fld, hw, Laws.extract_hi, Laws.extract_lo, Nat.reduceLeDiff, Nat.reduceAdd, Nat.reduceSub]
  simp

theorem Rows.fence :
    ∀ t s, Rows.Statement (.fence t s) := by
  intro t s k hk
  obtain rfl : Cls.async = k := Option.some.inj hk
  obtain ⟨word, hw⟩ : ∃ word : Lane, word = (256#11 ++ t ++ 0#2 ++ s ++ 0#11 : BitVec 32) := ⟨_, rfl⟩
  have hg : encode (.fence t s) = word := hw.symm
  change decodeAsync _ = _
  rw [hg]
  delta decodeAsync
  simp only [Laws.fx_split _ 21 11 _ 5 (by decide)]
  simp only [fx, fld, hw, Laws.extract_hi, Laws.extract_lo, Nat.reduceLeDiff, Nat.reduceAdd, Nat.reduceSub]
  simp

theorem Rows.fenceSc :
    ∀ t s, Rows.Statement (.fenceSc t s) := by
  intro t s k hk
  obtain rfl : Cls.async = k := Option.some.inj hk
  obtain ⟨word, hw⟩ : ∃ word : Lane, word = (288#11 ++ t ++ 0#2 ++ s ++ 0#11 : BitVec 32) := ⟨_, rfl⟩
  have hg : encode (.fenceSc t s) = word := hw.symm
  change decodeAsync _ = _
  rw [hg]
  delta decodeAsync
  simp only [Laws.fx_split _ 21 11 _ 5 (by decide)]
  simp only [fx, fld, hw, Laws.extract_hi, Laws.extract_lo, Nat.reduceLeDiff, Nat.reduceAdd, Nat.reduceSub]
  simp

theorem Rows.vsync :
    ∀ t, Rows.Statement (.vsync t) := by
  intro t k hk
  obtain rfl : Cls.async = k := Option.some.inj hk
  obtain ⟨word, hw⟩ : ∃ word : Lane, word = (320#11 ++ t ++ 0#17 : BitVec 32) := ⟨_, rfl⟩
  have hg : encode (.vsync t) = word := hw.symm
  change decodeAsync _ = _
  rw [hg]
  delta decodeAsync
  simp only [Laws.fx_split _ 21 11 _ 5 (by decide)]
  simp only [fx, fld, hw, Laws.extract_hi, Laws.extract_lo, Nat.reduceLeDiff, Nat.reduceAdd, Nat.reduceSub]
  simp

theorem Rows.tadv :
    ∀ d t, Rows.Statement (.tadv d t) := by
  intro d t k hk
  obtain rfl : Cls.async = k := Option.some.inj hk
  obtain ⟨word, hw⟩ : ∃ word : Lane, word = (11#6 ++ d ++ t ++ 0#17 : BitVec 32) := ⟨_, rfl⟩
  have hg : encode (.tadv d t) = word := hw.symm
  change decodeAsync _ = _
  rw [hg]
  delta decodeAsync
  simp only [Laws.fx_split _ 21 11 _ 5 (by decide)]
  simp only [fx, fld, hw, Laws.extract_hi, Laws.extract_lo, Nat.reduceLeDiff, Nat.reduceAdd, Nat.reduceSub]
  simp

theorem Rows.tsetSet :
    ∀ d t, Rows.Statement (.tsetSet d t) := by
  intro d t k hk
  obtain rfl : Cls.async = k := Option.some.inj hk
  obtain ⟨word, hw⟩ : ∃ word : Lane, word = (12#6 ++ d ++ t ++ 0#17 : BitVec 32) := ⟨_, rfl⟩
  have hg : encode (.tsetSet d t) = word := hw.symm
  change decodeAsync _ = _
  rw [hg]
  delta decodeAsync
  simp only [Laws.fx_split _ 21 11 _ 5 (by decide)]
  simp only [fx, fld, hw, Laws.extract_hi, Laws.extract_lo, Nat.reduceLeDiff, Nat.reduceAdd, Nat.reduceSub]
  simp

theorem Rows.tsetSeterr :
    ∀ d t, Rows.Statement (.tsetSeterr d t) := by
  intro d t k hk
  obtain rfl : Cls.async = k := Option.some.inj hk
  obtain ⟨word, hw⟩ : ∃ word : Lane, word = (12#6 ++ d ++ t ++ 1#17 : BitVec 32) := ⟨_, rfl⟩
  have hg : encode (.tsetSeterr d t) = word := hw.symm
  change decodeAsync _ = _
  rw [hg]
  delta decodeAsync
  simp only [Laws.fx_split _ 21 11 _ 5 (by decide)]
  simp only [fx, fld, hw, Laws.extract_hi, Laws.extract_lo, Nat.reduceLeDiff, Nat.reduceAdd, Nat.reduceSub]
  simp

theorem Rows.tsetClrerr :
    ∀ d t, Rows.Statement (.tsetClrerr d t) := by
  intro d t k hk
  obtain rfl : Cls.async = k := Option.some.inj hk
  obtain ⟨word, hw⟩ : ∃ word : Lane, word = (12#6 ++ d ++ t ++ 2#17 : BitVec 32) := ⟨_, rfl⟩
  have hg : encode (.tsetClrerr d t) = word := hw.symm
  change decodeAsync _ = _
  rw [hg]
  delta decodeAsync
  simp only [Laws.fx_split _ 21 11 _ 5 (by decide)]
  simp only [fx, fld, hw, Laws.extract_hi, Laws.extract_lo, Nat.reduceLeDiff, Nat.reduceAdd, Nat.reduceSub]
  simp

theorem Rows.enq :
    ∀ d t a r s, Rows.Statement (.enq d t a r s) := by
  intro d t a r s k hk
  obtain rfl : Cls.async = k := Option.some.inj hk
  obtain ⟨word, hw⟩ : ∃ word : Lane, word = (13#6 ++ d ++ t ++ a ++ r ++ s ++ 0#11 : BitVec 32) := ⟨_, rfl⟩
  have hg : encode (.enq d t a r s) = word := hw.symm
  change decodeAsync _ = _
  rw [hg]
  delta decodeAsync
  simp only [Laws.fx_split _ 21 11 _ 5 (by decide)]
  simp only [fx, fld, hw, Laws.extract_hi, Laws.extract_lo, Nat.reduceLeDiff, Nat.reduceAdd, Nat.reduceSub]
  simp

theorem Rows.cload :
    ∀ d t a r s, Rows.Statement (.cload d t a r s) := by
  intro d t a r s k hk
  obtain rfl : Cls.async = k := Option.some.inj hk
  obtain ⟨word, hw⟩ : ∃ word : Lane, word = (14#6 ++ d ++ t ++ a ++ r ++ s ++ 0#11 : BitVec 32) := ⟨_, rfl⟩
  have hg : encode (.cload d t a r s) = word := hw.symm
  change decodeAsync _ = _
  rw [hg]
  delta decodeAsync
  simp only [Laws.fx_split _ 21 11 _ 5 (by decide)]
  simp only [fx, fld, hw, Laws.extract_hi, Laws.extract_lo, Nat.reduceLeDiff, Nat.reduceAdd, Nat.reduceSub]
  simp

theorem Rows.rsolve :
    ∀ d t a r s k m, Rows.Statement (.rsolve d t a r s k m) := by
  intro d t a r s k m k hk
  obtain rfl : Cls.async = k := Option.some.inj hk
  obtain ⟨word, hw⟩ : ∃ word : Lane, word = (15#6 ++ d ++ t ++ a ++ r ++ s ++ 0#8 ++ k ++ m : BitVec 32) := ⟨_, rfl⟩
  have hg : encode (.rsolve d t a r s k m) = word := hw.symm
  change decodeAsync _ = _
  rw [hg]
  delta decodeAsync
  simp only [Laws.fx_split _ 21 11 _ 5 (by decide)]
  simp only [fx, fld, hw, Laws.extract_hi, Laws.extract_lo, Nat.reduceLeDiff, Nat.reduceAdd, Nat.reduceSub]
  simp

theorem Rows.rd :
    ∀ b x, Rows.Statement (.rd b x) := by
  intro b x k hk
  obtain rfl : Cls.read = k := Option.some.inj hk
  obtain ⟨word, hw⟩ : ∃ word : Lane, word = (1#6 ++ b ++ x ++ 0#15 : BitVec 32) := ⟨_, rfl⟩
  have hg : encode (.rd b x) = word := hw.symm
  change decodeRead _ = _
  rw [hg]
  delta decodeRead
  simp only [fx, fld, hw, Laws.extract_hi, Laws.extract_lo, Nat.reduceLeDiff, Nat.reduceAdd, Nat.reduceSub]
  simp

theorem Rows.rdc :
    ∀ b x, Rows.Statement (.rdc b x) := by
  intro b x k hk
  obtain rfl : Cls.read = k := Option.some.inj hk
  obtain ⟨word, hw⟩ : ∃ word : Lane, word = (2#6 ++ b ++ x ++ 0#15 : BitVec 32) := ⟨_, rfl⟩
  have hg : encode (.rdc b x) = word := hw.symm
  change decodeRead _ = _
  rw [hg]
  delta decodeRead
  simp only [fx, fld, hw, Laws.extract_hi, Laws.extract_lo, Nat.reduceLeDiff, Nat.reduceAdd, Nat.reduceSub]
  simp

theorem Rows.rdi :
    ∀ b x, Rows.Statement (.rdi b x) := by
  intro b x k hk
  obtain rfl : Cls.read = k := Option.some.inj hk
  obtain ⟨word, hw⟩ : ∃ word : Lane, word = (3#6 ++ b ++ x ++ 0#15 : BitVec 32) := ⟨_, rfl⟩
  have hg : encode (.rdi b x) = word := hw.symm
  change decodeRead _ = _
  rw [hg]
  delta decodeRead
  simp only [fx, fld, hw, Laws.extract_hi, Laws.extract_lo, Nat.reduceLeDiff, Nat.reduceAdd, Nat.reduceSub]
  simp

theorem Rows.waitf :
    ∀ b x n, Rows.Statement (.waitf b x n) := by
  intro b x n k hk
  obtain rfl : Cls.read = k := Option.some.inj hk
  obtain ⟨word, hw⟩ : ∃ word : Lane, word = (4#6 ++ b ++ x ++ n ++ 0#10 : BitVec 32) := ⟨_, rfl⟩
  have hg : encode (.waitf b x n) = word := hw.symm
  change decodeRead _ = _
  rw [hg]
  delta decodeRead
  simp only [fx, fld, hw, Laws.extract_hi, Laws.extract_lo, Nat.reduceLeDiff, Nat.reduceAdd, Nat.reduceSub]
  simp

theorem Rows.rload :
    ∀ r k b x, Rows.Statement (.rload r k b x) := by
  intro r k b x k hk
  obtain rfl : Cls.read = k := Option.some.inj hk
  obtain ⟨word, hw⟩ : ∃ word : Lane, word = (5#6 ++ r ++ k ++ b ++ x ++ 0#5 : BitVec 32) := ⟨_, rfl⟩
  have hg : encode (.rload r k b x) = word := hw.symm
  change decodeRead _ = _
  rw [hg]
  delta decodeRead
  simp only [fx, fld, hw, Laws.extract_hi, Laws.extract_lo, Nat.reduceLeDiff, Nat.reduceAdd, Nat.reduceSub]
  simp

theorem Rows.wr :
    ∀ b x, Rows.Statement (.wr b x) := by
  intro b x k hk
  obtain rfl : Cls.write = k := Option.some.inj hk
  obtain ⟨word, hw⟩ : ∃ word : Lane, word = (1#6 ++ b ++ x ++ 0#15 : BitVec 32) := ⟨_, rfl⟩
  have hg : encode (.wr b x) = word := hw.symm
  change decodeWrite _ = _
  rw [hg]
  delta decodeWrite
  simp only [fx, fld, hw, Laws.extract_hi, Laws.extract_lo, Nat.reduceLeDiff, Nat.reduceAdd, Nat.reduceSub]
  simp

theorem Rows.wrm :
    ∀ b x m, Rows.Statement (.wrm b x m) := by
  intro b x m k hk
  obtain rfl : Cls.write = k := Option.some.inj hk
  obtain ⟨word, hw⟩ : ∃ word : Lane, word = (2#6 ++ b ++ x ++ m ++ 0#10 : BitVec 32) := ⟨_, rfl⟩
  have hg : encode (.wrm b x m) = word := hw.symm
  change decodeWrite _ = _
  rw [hg]
  delta decodeWrite
  simp only [fx, fld, hw, Laws.extract_hi, Laws.extract_lo, Nat.reduceLeDiff, Nat.reduceAdd, Nat.reduceSub]
  simp

theorem Rows.wrf :
    ∀ b x n, Rows.Statement (.wrf b x n) := by
  intro b x n k hk
  obtain rfl : Cls.write = k := Option.some.inj hk
  obtain ⟨word, hw⟩ : ∃ word : Lane, word = (3#6 ++ b ++ x ++ n ++ 0#10 : BitVec 32) := ⟨_, rfl⟩
  have hg : encode (.wrf b x n) = word := hw.symm
  change decodeWrite _ = _
  rw [hg]
  delta decodeWrite
  simp only [fx, fld, hw, Laws.extract_hi, Laws.extract_lo, Nat.reduceLeDiff, Nat.reduceAdd, Nat.reduceSub]
  simp

theorem Rows.rsave :
    ∀ r k b x, Rows.Statement (.rsave r k b x) := by
  intro r k b x k hk
  obtain rfl : Cls.write = k := Option.some.inj hk
  obtain ⟨word, hw⟩ : ∃ word : Lane, word = (4#6 ++ r ++ k ++ b ++ x ++ 0#5 : BitVec 32) := ⟨_, rfl⟩
  have hg : encode (.rsave r k b x) = word := hw.symm
  change decodeWrite _ = _
  rw [hg]
  delta decodeWrite
  simp only [fx, fld, hw, Laws.extract_hi, Laws.extract_lo, Nat.reduceLeDiff, Nat.reduceAdd, Nat.reduceSub]
  simp

theorem Rows.pageMigrationComplete :
    ∀ page, Rows.Statement (.pageMigrationComplete page) := by
  intros; exact nofun

theorem Rows.otherHostTierWrite :
    ∀ addr v, Rows.Statement (.otherHostTierWrite addr v) := by
  intros; exact nofun

theorem Rows.cnpReceive :
    ∀ port qp, Rows.Statement (.cnpReceive port qp) := by
  intros; exact nofun

theorem Rows.pfcPauseReceive :
    ∀ port prio pause, Rows.Statement (.pfcPauseReceive port prio pause) := by
  intros; exact nofun

theorem Rows.bundleIssue : Rows.Statement .bundleIssue := nofun

theorem Rows.resultLanding : Rows.Statement .resultLanding := nofun

theorem Rows.hitchLaneArrival : Rows.Statement .hitchLaneArrival := nofun

theorem Rows.engineLineWrite : Rows.Statement .engineLineWrite := nofun

theorem Rows.mtileFiring : Rows.Statement .mtileFiring := nofun

theorem Rows.routeLoadSwitch : Rows.Statement .routeLoadSwitch := nofun

theorem Rows.softYield : Rows.Statement .softYield := nofun

theorem Rows.huskSave : Rows.Statement .huskSave := nofun

theorem Rows.stallWatchdogExpiry : Rows.Statement .stallWatchdogExpiry := nofun

theorem Rows.lotteryDraw : Rows.Statement .lotteryDraw := nofun

theorem Rows.modeChangeComplete : Rows.Statement .modeChangeComplete := nofun

theorem Rows.packageBeat : Rows.Statement .packageBeat := nofun

theorem Rows.podBeatLost : Rows.Statement .podBeatLost := nofun

theorem Rows.correctionWindowEnd : Rows.Statement .correctionWindowEnd := nofun

theorem Rows.ageingRefresh : Rows.Statement .ageingRefresh := nofun

theorem Rows.fevtfRead : Rows.Statement .fevtfRead := nofun

theorem Rows.fevtmRead : Rows.Statement .fevtmRead := nofun

theorem Rows.hevt0Read : Rows.Statement .hevt0Read := nofun

theorem Rows.coldReset : Rows.Statement .coldReset := nofun

theorem Rows.warmReset : Rows.Statement .warmReset := nofun

theorem Rows.srstatWarmWrite : Rows.Statement .srstatWarmWrite := nofun

theorem Rows.srstatClrWrite : Rows.Statement .srstatClrWrite := nofun

theorem Rows.thermalShutdown : Rows.Statement .thermalShutdown := nofun

theorem Rows.powerLoss : Rows.Statement .powerLoss := nofun

theorem Rows.effHourlySample : Rows.Statement .effHourlySample := nofun

end Sys2Proof.Laws
end

