-- ==== Sys2Proof/Laws/State.lean ====
section
/-! SUPPORT. State: one lemma per field per named update, so that no later proof unfolds a record update, and what a coach reads
after an update. -/

namespace Sys2Proof.Machine

open Sys2Proof

@[simp] theorem State.setCoach_now (s : State) (c : BitVec 3) (k : Coach) : (s.setCoach c k).now = s.now := rfl
@[simp] theorem State.setCoach_agenda (s : State) (c : BitVec 3) (k : Coach) : (s.setCoach c k).agenda = s.agenda := rfl
@[simp] theorem State.setCoach_inputs (s : State) (c : BitVec 3) (k : Coach) : (s.setCoach c k).inputs = s.inputs := rfl
@[simp] theorem State.setCoach_timers (s : State) (c : BitVec 3) (k : Coach) : (s.setCoach c k).timers = s.timers := rfl
@[simp] theorem State.setCoach_out (s : State) (c : BitVec 3) (k : Coach) : (s.setCoach c k).out = s.out := rfl
@[simp] theorem State.setCoach_draw (s : State) (c : BitVec 3) (k : Coach) : (s.setCoach c k).draw = s.draw := rfl
@[simp] theorem State.setCoach_cur (s : State) (c : BitVec 3) (k : Coach) : (s.setCoach c k).cur = s.cur := rfl
@[simp] theorem State.setCoach_hbm (s : State) (c : BitVec 3) (k : Coach) : (s.setCoach c k).hbm = s.hbm := rfl
@[simp] theorem State.setCoach_tier (s : State) (c : BitVec 3) (k : Coach) : (s.setCoach c k).tier = s.tier := rfl
@[simp] theorem State.setCoach_host (s : State) (c : BitVec 3) (k : Coach) : (s.setCoach c k).host = s.host := rfl
@[simp] theorem State.setCoach_badHbm (s : State) (c : BitVec 3) (k : Coach) : (s.setCoach c k).badHbm = s.badHbm := rfl
@[simp] theorem State.setCoach_badTier (s : State) (c : BitVec 3) (k : Coach) : (s.setCoach c k).badTier = s.badTier := rfl
@[simp] theorem State.setCoach_viewLog (s : State) (c : BitVec 3) (k : Coach) : (s.setCoach c k).viewLog = s.viewLog := rfl
@[simp] theorem State.setCoach_viewEmptied (s : State) (c : BitVec 3) (k : Coach) : (s.setCoach c k).viewEmptied = s.viewEmptied := rfl
@[simp] theorem State.setCoach_viewClock (s : State) (c : BitVec 3) (k : Coach) : (s.setCoach c k).viewClock = s.viewClock := rfl
@[simp] theorem State.setCoach_softHbm (s : State) (c : BitVec 3) (k : Coach) : (s.setCoach c k).softHbm = s.softHbm := rfl
@[simp] theorem State.setCoach_badPut (s : State) (c : BitVec 3) (k : Coach) : (s.setCoach c k).badPut = s.badPut := rfl
@[simp] theorem State.setCoach_badHost (s : State) (c : BitVec 3) (k : Coach) : (s.setCoach c k).badHost = s.badHost := rfl
@[simp] theorem State.setCoach_hub (s : State) (c : BitVec 3) (k : Coach) : (s.setCoach c k).hub = s.hub := rfl
@[simp] theorem State.setCoach_fab (s : State) (c : BitVec 3) (k : Coach) : (s.setCoach c k).fab = s.fab := rfl
@[simp] theorem State.setCoach_plat (s : State) (c : BitVec 3) (k : Coach) : (s.setCoach c k).plat = s.plat := rfl

@[simp] theorem State.onCoach_now (s : State) (c : BitVec 3) (f : Coach → Coach) : (s.onCoach c f).now = s.now := rfl
@[simp] theorem State.onCoach_agenda (s : State) (c : BitVec 3) (f : Coach → Coach) : (s.onCoach c f).agenda = s.agenda := rfl
@[simp] theorem State.onCoach_inputs (s : State) (c : BitVec 3) (f : Coach → Coach) : (s.onCoach c f).inputs = s.inputs := rfl
@[simp] theorem State.onCoach_timers (s : State) (c : BitVec 3) (f : Coach → Coach) : (s.onCoach c f).timers = s.timers := rfl
@[simp] theorem State.onCoach_out (s : State) (c : BitVec 3) (f : Coach → Coach) : (s.onCoach c f).out = s.out := rfl
@[simp] theorem State.onCoach_draw (s : State) (c : BitVec 3) (f : Coach → Coach) : (s.onCoach c f).draw = s.draw := rfl
@[simp] theorem State.onCoach_cur (s : State) (c : BitVec 3) (f : Coach → Coach) : (s.onCoach c f).cur = s.cur := rfl
@[simp] theorem State.onCoach_hbm (s : State) (c : BitVec 3) (f : Coach → Coach) : (s.onCoach c f).hbm = s.hbm := rfl
@[simp] theorem State.onCoach_tier (s : State) (c : BitVec 3) (f : Coach → Coach) : (s.onCoach c f).tier = s.tier := rfl
@[simp] theorem State.onCoach_host (s : State) (c : BitVec 3) (f : Coach → Coach) : (s.onCoach c f).host = s.host := rfl
@[simp] theorem State.onCoach_badHbm (s : State) (c : BitVec 3) (f : Coach → Coach) : (s.onCoach c f).badHbm = s.badHbm := rfl
@[simp] theorem State.onCoach_badTier (s : State) (c : BitVec 3) (f : Coach → Coach) : (s.onCoach c f).badTier = s.badTier := rfl
@[simp] theorem State.onCoach_viewLog (s : State) (c : BitVec 3) (f : Coach → Coach) : (s.onCoach c f).viewLog = s.viewLog := rfl
@[simp] theorem State.onCoach_viewEmptied (s : State) (c : BitVec 3) (f : Coach → Coach) : (s.onCoach c f).viewEmptied = s.viewEmptied := rfl
@[simp] theorem State.onCoach_viewClock (s : State) (c : BitVec 3) (f : Coach → Coach) : (s.onCoach c f).viewClock = s.viewClock := rfl
@[simp] theorem State.onCoach_softHbm (s : State) (c : BitVec 3) (f : Coach → Coach) : (s.onCoach c f).softHbm = s.softHbm := rfl
@[simp] theorem State.onCoach_badPut (s : State) (c : BitVec 3) (f : Coach → Coach) : (s.onCoach c f).badPut = s.badPut := rfl
@[simp] theorem State.onCoach_badHost (s : State) (c : BitVec 3) (f : Coach → Coach) : (s.onCoach c f).badHost = s.badHost := rfl
@[simp] theorem State.onCoach_hub (s : State) (c : BitVec 3) (f : Coach → Coach) : (s.onCoach c f).hub = s.hub := rfl
@[simp] theorem State.onCoach_fab (s : State) (c : BitVec 3) (f : Coach → Coach) : (s.onCoach c f).fab = s.fab := rfl
@[simp] theorem State.onCoach_plat (s : State) (c : BitVec 3) (f : Coach → Coach) : (s.onCoach c f).plat = s.plat := rfl

@[simp] theorem State.onSq_now (s : State) (c : BitVec 3) (f : Seq → Seq) : (s.onSq c f).now = s.now := rfl
@[simp] theorem State.onSq_agenda (s : State) (c : BitVec 3) (f : Seq → Seq) : (s.onSq c f).agenda = s.agenda := rfl
@[simp] theorem State.onSq_inputs (s : State) (c : BitVec 3) (f : Seq → Seq) : (s.onSq c f).inputs = s.inputs := rfl
@[simp] theorem State.onSq_timers (s : State) (c : BitVec 3) (f : Seq → Seq) : (s.onSq c f).timers = s.timers := rfl
@[simp] theorem State.onSq_out (s : State) (c : BitVec 3) (f : Seq → Seq) : (s.onSq c f).out = s.out := rfl
@[simp] theorem State.onSq_draw (s : State) (c : BitVec 3) (f : Seq → Seq) : (s.onSq c f).draw = s.draw := rfl
@[simp] theorem State.onSq_cur (s : State) (c : BitVec 3) (f : Seq → Seq) : (s.onSq c f).cur = s.cur := rfl
@[simp] theorem State.onSq_hbm (s : State) (c : BitVec 3) (f : Seq → Seq) : (s.onSq c f).hbm = s.hbm := rfl
@[simp] theorem State.onSq_tier (s : State) (c : BitVec 3) (f : Seq → Seq) : (s.onSq c f).tier = s.tier := rfl
@[simp] theorem State.onSq_host (s : State) (c : BitVec 3) (f : Seq → Seq) : (s.onSq c f).host = s.host := rfl
@[simp] theorem State.onSq_badHbm (s : State) (c : BitVec 3) (f : Seq → Seq) : (s.onSq c f).badHbm = s.badHbm := rfl
@[simp] theorem State.onSq_badTier (s : State) (c : BitVec 3) (f : Seq → Seq) : (s.onSq c f).badTier = s.badTier := rfl
@[simp] theorem State.onSq_viewLog (s : State) (c : BitVec 3) (f : Seq → Seq) : (s.onSq c f).viewLog = s.viewLog := rfl
@[simp] theorem State.onSq_viewEmptied (s : State) (c : BitVec 3) (f : Seq → Seq) : (s.onSq c f).viewEmptied = s.viewEmptied := rfl
@[simp] theorem State.onSq_viewClock (s : State) (c : BitVec 3) (f : Seq → Seq) : (s.onSq c f).viewClock = s.viewClock := rfl
@[simp] theorem State.onSq_softHbm (s : State) (c : BitVec 3) (f : Seq → Seq) : (s.onSq c f).softHbm = s.softHbm := rfl
@[simp] theorem State.onSq_badPut (s : State) (c : BitVec 3) (f : Seq → Seq) : (s.onSq c f).badPut = s.badPut := rfl
@[simp] theorem State.onSq_badHost (s : State) (c : BitVec 3) (f : Seq → Seq) : (s.onSq c f).badHost = s.badHost := rfl
@[simp] theorem State.onSq_hub (s : State) (c : BitVec 3) (f : Seq → Seq) : (s.onSq c f).hub = s.hub := rfl
@[simp] theorem State.onSq_fab (s : State) (c : BitVec 3) (f : Seq → Seq) : (s.onSq c f).fab = s.fab := rfl
@[simp] theorem State.onSq_plat (s : State) (c : BitVec 3) (f : Seq → Seq) : (s.onSq c f).plat = s.plat := rfl

@[simp] theorem State.onEn_now (s : State) (c : BitVec 3) (f : Engine → Engine) : (s.onEn c f).now = s.now := rfl
@[simp] theorem State.onEn_agenda (s : State) (c : BitVec 3) (f : Engine → Engine) : (s.onEn c f).agenda = s.agenda := rfl
@[simp] theorem State.onEn_inputs (s : State) (c : BitVec 3) (f : Engine → Engine) : (s.onEn c f).inputs = s.inputs := rfl
@[simp] theorem State.onEn_timers (s : State) (c : BitVec 3) (f : Engine → Engine) : (s.onEn c f).timers = s.timers := rfl
@[simp] theorem State.onEn_out (s : State) (c : BitVec 3) (f : Engine → Engine) : (s.onEn c f).out = s.out := rfl
@[simp] theorem State.onEn_draw (s : State) (c : BitVec 3) (f : Engine → Engine) : (s.onEn c f).draw = s.draw := rfl
@[simp] theorem State.onEn_cur (s : State) (c : BitVec 3) (f : Engine → Engine) : (s.onEn c f).cur = s.cur := rfl
@[simp] theorem State.onEn_hbm (s : State) (c : BitVec 3) (f : Engine → Engine) : (s.onEn c f).hbm = s.hbm := rfl
@[simp] theorem State.onEn_tier (s : State) (c : BitVec 3) (f : Engine → Engine) : (s.onEn c f).tier = s.tier := rfl
@[simp] theorem State.onEn_host (s : State) (c : BitVec 3) (f : Engine → Engine) : (s.onEn c f).host = s.host := rfl
@[simp] theorem State.onEn_badHbm (s : State) (c : BitVec 3) (f : Engine → Engine) : (s.onEn c f).badHbm = s.badHbm := rfl
@[simp] theorem State.onEn_badTier (s : State) (c : BitVec 3) (f : Engine → Engine) : (s.onEn c f).badTier = s.badTier := rfl
@[simp] theorem State.onEn_viewLog (s : State) (c : BitVec 3) (f : Engine → Engine) : (s.onEn c f).viewLog = s.viewLog := rfl
@[simp] theorem State.onEn_viewEmptied (s : State) (c : BitVec 3) (f : Engine → Engine) : (s.onEn c f).viewEmptied = s.viewEmptied := rfl
@[simp] theorem State.onEn_viewClock (s : State) (c : BitVec 3) (f : Engine → Engine) : (s.onEn c f).viewClock = s.viewClock := rfl
@[simp] theorem State.onEn_softHbm (s : State) (c : BitVec 3) (f : Engine → Engine) : (s.onEn c f).softHbm = s.softHbm := rfl
@[simp] theorem State.onEn_badPut (s : State) (c : BitVec 3) (f : Engine → Engine) : (s.onEn c f).badPut = s.badPut := rfl
@[simp] theorem State.onEn_badHost (s : State) (c : BitVec 3) (f : Engine → Engine) : (s.onEn c f).badHost = s.badHost := rfl
@[simp] theorem State.onEn_hub (s : State) (c : BitVec 3) (f : Engine → Engine) : (s.onEn c f).hub = s.hub := rfl
@[simp] theorem State.onEn_fab (s : State) (c : BitVec 3) (f : Engine → Engine) : (s.onEn c f).fab = s.fab := rfl
@[simp] theorem State.onEn_plat (s : State) (c : BitVec 3) (f : Engine → Engine) : (s.onEn c f).plat = s.plat := rfl

@[simp] theorem State.result_now (s : State) (c : BitVec 3) (n : Nat) (fl : BitVec 40) (d : Dest) : (s.result c n fl d).now = s.now := rfl
@[simp] theorem State.result_agenda (s : State) (c : BitVec 3) (n : Nat) (fl : BitVec 40) (d : Dest) : (s.result c n fl d).agenda = s.agenda := rfl
@[simp] theorem State.result_inputs (s : State) (c : BitVec 3) (n : Nat) (fl : BitVec 40) (d : Dest) : (s.result c n fl d).inputs = s.inputs := rfl
@[simp] theorem State.result_timers (s : State) (c : BitVec 3) (n : Nat) (fl : BitVec 40) (d : Dest) : (s.result c n fl d).timers = s.timers := rfl
@[simp] theorem State.result_out (s : State) (c : BitVec 3) (n : Nat) (fl : BitVec 40) (d : Dest) : (s.result c n fl d).out = s.out := rfl
@[simp] theorem State.result_draw (s : State) (c : BitVec 3) (n : Nat) (fl : BitVec 40) (d : Dest) : (s.result c n fl d).draw = s.draw := rfl
@[simp] theorem State.result_cur (s : State) (c : BitVec 3) (n : Nat) (fl : BitVec 40) (d : Dest) : (s.result c n fl d).cur = s.cur := rfl
@[simp] theorem State.result_hbm (s : State) (c : BitVec 3) (n : Nat) (fl : BitVec 40) (d : Dest) : (s.result c n fl d).hbm = s.hbm := rfl
@[simp] theorem State.result_tier (s : State) (c : BitVec 3) (n : Nat) (fl : BitVec 40) (d : Dest) : (s.result c n fl d).tier = s.tier := rfl
@[simp] theorem State.result_host (s : State) (c : BitVec 3) (n : Nat) (fl : BitVec 40) (d : Dest) : (s.result c n fl d).host = s.host := rfl
@[simp] theorem State.result_badHbm (s : State) (c : BitVec 3) (n : Nat) (fl : BitVec 40) (d : Dest) : (s.result c n fl d).badHbm = s.badHbm := rfl
@[simp] theorem State.result_badTier (s : State) (c : BitVec 3) (n : Nat) (fl : BitVec 40) (d : Dest) : (s.result c n fl d).badTier = s.badTier := rfl
@[simp] theorem State.result_viewLog (s : State) (c : BitVec 3) (n : Nat) (fl : BitVec 40) (d : Dest) : (s.result c n fl d).viewLog = s.viewLog := rfl
@[simp] theorem State.result_viewEmptied (s : State) (c : BitVec 3) (n : Nat) (fl : BitVec 40) (d : Dest) : (s.result c n fl d).viewEmptied = s.viewEmptied := rfl
@[simp] theorem State.result_viewClock (s : State) (c : BitVec 3) (n : Nat) (fl : BitVec 40) (d : Dest) : (s.result c n fl d).viewClock = s.viewClock := rfl
@[simp] theorem State.result_softHbm (s : State) (c : BitVec 3) (n : Nat) (fl : BitVec 40) (d : Dest) : (s.result c n fl d).softHbm = s.softHbm := rfl
@[simp] theorem State.result_badPut (s : State) (c : BitVec 3) (n : Nat) (fl : BitVec 40) (d : Dest) : (s.result c n fl d).badPut = s.badPut := rfl
@[simp] theorem State.result_badHost (s : State) (c : BitVec 3) (n : Nat) (fl : BitVec 40) (d : Dest) : (s.result c n fl d).badHost = s.badHost := rfl
@[simp] theorem State.result_hub (s : State) (c : BitVec 3) (n : Nat) (fl : BitVec 40) (d : Dest) : (s.result c n fl d).hub = s.hub := rfl
@[simp] theorem State.result_fab (s : State) (c : BitVec 3) (n : Nat) (fl : BitVec 40) (d : Dest) : (s.result c n fl d).fab = s.fab := rfl
@[simp] theorem State.result_plat (s : State) (c : BitVec 3) (n : Nat) (fl : BitVec 40) (d : Dest) : (s.result c n fl d).plat = s.plat := rfl

@[simp] theorem State.timer_now (s : State) (t : Nat) (c : BitVec 3) (i : Instr) : (s.timer t c i).now = s.now := rfl
@[simp] theorem State.timer_agenda (s : State) (t : Nat) (c : BitVec 3) (i : Instr) : (s.timer t c i).agenda = s.agenda := rfl
@[simp] theorem State.timer_inputs (s : State) (t : Nat) (c : BitVec 3) (i : Instr) : (s.timer t c i).inputs = s.inputs := rfl
@[simp] theorem State.timer_out (s : State) (t : Nat) (c : BitVec 3) (i : Instr) : (s.timer t c i).out = s.out := rfl
@[simp] theorem State.timer_draw (s : State) (t : Nat) (c : BitVec 3) (i : Instr) : (s.timer t c i).draw = s.draw := rfl
@[simp] theorem State.timer_cur (s : State) (t : Nat) (c : BitVec 3) (i : Instr) : (s.timer t c i).cur = s.cur := rfl
@[simp] theorem State.timer_hbm (s : State) (t : Nat) (c : BitVec 3) (i : Instr) : (s.timer t c i).hbm = s.hbm := rfl
@[simp] theorem State.timer_tier (s : State) (t : Nat) (c : BitVec 3) (i : Instr) : (s.timer t c i).tier = s.tier := rfl
@[simp] theorem State.timer_host (s : State) (t : Nat) (c : BitVec 3) (i : Instr) : (s.timer t c i).host = s.host := rfl
@[simp] theorem State.timer_badHbm (s : State) (t : Nat) (c : BitVec 3) (i : Instr) : (s.timer t c i).badHbm = s.badHbm := rfl
@[simp] theorem State.timer_badTier (s : State) (t : Nat) (c : BitVec 3) (i : Instr) : (s.timer t c i).badTier = s.badTier := rfl
@[simp] theorem State.timer_viewLog (s : State) (t : Nat) (c : BitVec 3) (i : Instr) : (s.timer t c i).viewLog = s.viewLog := rfl
@[simp] theorem State.timer_viewEmptied (s : State) (t : Nat) (c : BitVec 3) (i : Instr) : (s.timer t c i).viewEmptied = s.viewEmptied := rfl
@[simp] theorem State.timer_viewClock (s : State) (t : Nat) (c : BitVec 3) (i : Instr) : (s.timer t c i).viewClock = s.viewClock := rfl
@[simp] theorem State.timer_softHbm (s : State) (t : Nat) (c : BitVec 3) (i : Instr) : (s.timer t c i).softHbm = s.softHbm := rfl
@[simp] theorem State.timer_badPut (s : State) (t : Nat) (c : BitVec 3) (i : Instr) : (s.timer t c i).badPut = s.badPut := rfl
@[simp] theorem State.timer_badHost (s : State) (t : Nat) (c : BitVec 3) (i : Instr) : (s.timer t c i).badHost = s.badHost := rfl
@[simp] theorem State.timer_coaches (s : State) (t : Nat) (c : BitVec 3) (i : Instr) : (s.timer t c i).coaches = s.coaches := rfl
@[simp] theorem State.timer_hub (s : State) (t : Nat) (c : BitVec 3) (i : Instr) : (s.timer t c i).hub = s.hub := rfl
@[simp] theorem State.timer_fab (s : State) (t : Nat) (c : BitVec 3) (i : Instr) : (s.timer t c i).fab = s.fab := rfl
@[simp] theorem State.timer_plat (s : State) (t : Nat) (c : BitVec 3) (i : Instr) : (s.timer t c i).plat = s.plat := rfl

@[simp] theorem State.periodic_now (s : State) (n : Nat) (i : Instr) : (s.periodic n i).now = s.now := rfl
@[simp] theorem State.periodic_agenda (s : State) (n : Nat) (i : Instr) : (s.periodic n i).agenda = s.agenda := rfl
@[simp] theorem State.periodic_inputs (s : State) (n : Nat) (i : Instr) : (s.periodic n i).inputs = s.inputs := rfl
@[simp] theorem State.periodic_out (s : State) (n : Nat) (i : Instr) : (s.periodic n i).out = s.out := rfl
@[simp] theorem State.periodic_draw (s : State) (n : Nat) (i : Instr) : (s.periodic n i).draw = s.draw := rfl
@[simp] theorem State.periodic_cur (s : State) (n : Nat) (i : Instr) : (s.periodic n i).cur = s.cur := rfl
@[simp] theorem State.periodic_hbm (s : State) (n : Nat) (i : Instr) : (s.periodic n i).hbm = s.hbm := rfl
@[simp] theorem State.periodic_tier (s : State) (n : Nat) (i : Instr) : (s.periodic n i).tier = s.tier := rfl
@[simp] theorem State.periodic_host (s : State) (n : Nat) (i : Instr) : (s.periodic n i).host = s.host := rfl
@[simp] theorem State.periodic_badHbm (s : State) (n : Nat) (i : Instr) : (s.periodic n i).badHbm = s.badHbm := rfl
@[simp] theorem State.periodic_badTier (s : State) (n : Nat) (i : Instr) : (s.periodic n i).badTier = s.badTier := rfl
@[simp] theorem State.periodic_viewLog (s : State) (n : Nat) (i : Instr) : (s.periodic n i).viewLog = s.viewLog := rfl
@[simp] theorem State.periodic_viewEmptied (s : State) (n : Nat) (i : Instr) : (s.periodic n i).viewEmptied = s.viewEmptied := rfl
@[simp] theorem State.periodic_viewClock (s : State) (n : Nat) (i : Instr) : (s.periodic n i).viewClock = s.viewClock := rfl
@[simp] theorem State.periodic_softHbm (s : State) (n : Nat) (i : Instr) : (s.periodic n i).softHbm = s.softHbm := rfl
@[simp] theorem State.periodic_badPut (s : State) (n : Nat) (i : Instr) : (s.periodic n i).badPut = s.badPut := rfl
@[simp] theorem State.periodic_badHost (s : State) (n : Nat) (i : Instr) : (s.periodic n i).badHost = s.badHost := rfl
@[simp] theorem State.periodic_coaches (s : State) (n : Nat) (i : Instr) : (s.periodic n i).coaches = s.coaches := rfl
@[simp] theorem State.periodic_hub (s : State) (n : Nat) (i : Instr) : (s.periodic n i).hub = s.hub := rfl
@[simp] theorem State.periodic_fab (s : State) (n : Nat) (i : Instr) : (s.periodic n i).fab = s.fab := rfl
@[simp] theorem State.periodic_plat (s : State) (n : Nat) (i : Instr) : (s.periodic n i).plat = s.plat := rfl

@[simp] theorem State.send_now (s : State) (o : Output) : (s.send o).now = s.now := rfl
@[simp] theorem State.send_agenda (s : State) (o : Output) : (s.send o).agenda = s.agenda := rfl
@[simp] theorem State.send_inputs (s : State) (o : Output) : (s.send o).inputs = s.inputs := rfl
@[simp] theorem State.send_timers (s : State) (o : Output) : (s.send o).timers = s.timers := rfl
@[simp] theorem State.send_draw (s : State) (o : Output) : (s.send o).draw = s.draw := rfl
@[simp] theorem State.send_cur (s : State) (o : Output) : (s.send o).cur = s.cur := rfl
@[simp] theorem State.send_hbm (s : State) (o : Output) : (s.send o).hbm = s.hbm := rfl
@[simp] theorem State.send_tier (s : State) (o : Output) : (s.send o).tier = s.tier := rfl
@[simp] theorem State.send_host (s : State) (o : Output) : (s.send o).host = s.host := rfl
@[simp] theorem State.send_badHbm (s : State) (o : Output) : (s.send o).badHbm = s.badHbm := rfl
@[simp] theorem State.send_badTier (s : State) (o : Output) : (s.send o).badTier = s.badTier := rfl
@[simp] theorem State.send_viewLog (s : State) (o : Output) : (s.send o).viewLog = s.viewLog := rfl
@[simp] theorem State.send_viewEmptied (s : State) (o : Output) : (s.send o).viewEmptied = s.viewEmptied := rfl
@[simp] theorem State.send_viewClock (s : State) (o : Output) : (s.send o).viewClock = s.viewClock := rfl
@[simp] theorem State.send_softHbm (s : State) (o : Output) : (s.send o).softHbm = s.softHbm := rfl
@[simp] theorem State.send_badPut (s : State) (o : Output) : (s.send o).badPut = s.badPut := rfl
@[simp] theorem State.send_badHost (s : State) (o : Output) : (s.send o).badHost = s.badHost := rfl
@[simp] theorem State.send_coaches (s : State) (o : Output) : (s.send o).coaches = s.coaches := rfl
@[simp] theorem State.send_hub (s : State) (o : Output) : (s.send o).hub = s.hub := rfl
@[simp] theorem State.send_fab (s : State) (o : Output) : (s.send o).fab = s.fab := rfl
@[simp] theorem State.send_plat (s : State) (o : Output) : (s.send o).plat = s.plat := rfl

@[simp] theorem State.soon_now (s : State) (c : BitVec 3) (i : Instr) : (s.soon c i).now = s.now := rfl
@[simp] theorem State.soon_inputs (s : State) (c : BitVec 3) (i : Instr) : (s.soon c i).inputs = s.inputs := rfl
@[simp] theorem State.soon_timers (s : State) (c : BitVec 3) (i : Instr) : (s.soon c i).timers = s.timers := rfl
@[simp] theorem State.soon_out (s : State) (c : BitVec 3) (i : Instr) : (s.soon c i).out = s.out := rfl
@[simp] theorem State.soon_draw (s : State) (c : BitVec 3) (i : Instr) : (s.soon c i).draw = s.draw := rfl
@[simp] theorem State.soon_cur (s : State) (c : BitVec 3) (i : Instr) : (s.soon c i).cur = s.cur := rfl
@[simp] theorem State.soon_hbm (s : State) (c : BitVec 3) (i : Instr) : (s.soon c i).hbm = s.hbm := rfl
@[simp] theorem State.soon_tier (s : State) (c : BitVec 3) (i : Instr) : (s.soon c i).tier = s.tier := rfl
@[simp] theorem State.soon_host (s : State) (c : BitVec 3) (i : Instr) : (s.soon c i).host = s.host := rfl
@[simp] theorem State.soon_badHbm (s : State) (c : BitVec 3) (i : Instr) : (s.soon c i).badHbm = s.badHbm := rfl
@[simp] theorem State.soon_badTier (s : State) (c : BitVec 3) (i : Instr) : (s.soon c i).badTier = s.badTier := rfl
@[simp] theorem State.soon_viewLog (s : State) (c : BitVec 3) (i : Instr) : (s.soon c i).viewLog = s.viewLog := rfl
@[simp] theorem State.soon_viewEmptied (s : State) (c : BitVec 3) (i : Instr) : (s.soon c i).viewEmptied = s.viewEmptied := rfl
@[simp] theorem State.soon_viewClock (s : State) (c : BitVec 3) (i : Instr) : (s.soon c i).viewClock = s.viewClock := rfl
@[simp] theorem State.soon_softHbm (s : State) (c : BitVec 3) (i : Instr) : (s.soon c i).softHbm = s.softHbm := rfl
@[simp] theorem State.soon_badPut (s : State) (c : BitVec 3) (i : Instr) : (s.soon c i).badPut = s.badPut := rfl
@[simp] theorem State.soon_badHost (s : State) (c : BitVec 3) (i : Instr) : (s.soon c i).badHost = s.badHost := rfl
@[simp] theorem State.soon_coaches (s : State) (c : BitVec 3) (i : Instr) : (s.soon c i).coaches = s.coaches := rfl
@[simp] theorem State.soon_hub (s : State) (c : BitVec 3) (i : Instr) : (s.soon c i).hub = s.hub := rfl
@[simp] theorem State.soon_fab (s : State) (c : BitVec 3) (i : Instr) : (s.soon c i).fab = s.fab := rfl
@[simp] theorem State.soon_plat (s : State) (c : BitVec 3) (i : Instr) : (s.soon c i).plat = s.plat := rfl

@[simp] theorem State.later_now (s : State) (c : BitVec 3) (i : Instr) : (s.later c i).now = s.now := rfl
@[simp] theorem State.later_inputs (s : State) (c : BitVec 3) (i : Instr) : (s.later c i).inputs = s.inputs := rfl
@[simp] theorem State.later_timers (s : State) (c : BitVec 3) (i : Instr) : (s.later c i).timers = s.timers := rfl
@[simp] theorem State.later_out (s : State) (c : BitVec 3) (i : Instr) : (s.later c i).out = s.out := rfl
@[simp] theorem State.later_draw (s : State) (c : BitVec 3) (i : Instr) : (s.later c i).draw = s.draw := rfl
@[simp] theorem State.later_cur (s : State) (c : BitVec 3) (i : Instr) : (s.later c i).cur = s.cur := rfl
@[simp] theorem State.later_hbm (s : State) (c : BitVec 3) (i : Instr) : (s.later c i).hbm = s.hbm := rfl
@[simp] theorem State.later_tier (s : State) (c : BitVec 3) (i : Instr) : (s.later c i).tier = s.tier := rfl
@[simp] theorem State.later_host (s : State) (c : BitVec 3) (i : Instr) : (s.later c i).host = s.host := rfl
@[simp] theorem State.later_badHbm (s : State) (c : BitVec 3) (i : Instr) : (s.later c i).badHbm = s.badHbm := rfl
@[simp] theorem State.later_badTier (s : State) (c : BitVec 3) (i : Instr) : (s.later c i).badTier = s.badTier := rfl
@[simp] theorem State.later_viewLog (s : State) (c : BitVec 3) (i : Instr) : (s.later c i).viewLog = s.viewLog := rfl
@[simp] theorem State.later_viewEmptied (s : State) (c : BitVec 3) (i : Instr) : (s.later c i).viewEmptied = s.viewEmptied := rfl
@[simp] theorem State.later_viewClock (s : State) (c : BitVec 3) (i : Instr) : (s.later c i).viewClock = s.viewClock := rfl
@[simp] theorem State.later_softHbm (s : State) (c : BitVec 3) (i : Instr) : (s.later c i).softHbm = s.softHbm := rfl
@[simp] theorem State.later_badPut (s : State) (c : BitVec 3) (i : Instr) : (s.later c i).badPut = s.badPut := rfl
@[simp] theorem State.later_badHost (s : State) (c : BitVec 3) (i : Instr) : (s.later c i).badHost = s.badHost := rfl
@[simp] theorem State.later_coaches (s : State) (c : BitVec 3) (i : Instr) : (s.later c i).coaches = s.coaches := rfl
@[simp] theorem State.later_hub (s : State) (c : BitVec 3) (i : Instr) : (s.later c i).hub = s.hub := rfl
@[simp] theorem State.later_fab (s : State) (c : BitVec 3) (i : Instr) : (s.later c i).fab = s.fab := rfl
@[simp] theorem State.later_plat (s : State) (c : BitVec 3) (i : Instr) : (s.later c i).plat = s.plat := rfl

@[simp] theorem State.pick_now (s : State) : s.pick.2.now = s.now := rfl
@[simp] theorem State.pick_agenda (s : State) : s.pick.2.agenda = s.agenda := rfl
@[simp] theorem State.pick_inputs (s : State) : s.pick.2.inputs = s.inputs := rfl
@[simp] theorem State.pick_timers (s : State) : s.pick.2.timers = s.timers := rfl
@[simp] theorem State.pick_out (s : State) : s.pick.2.out = s.out := rfl
@[simp] theorem State.pick_cur (s : State) : s.pick.2.cur = s.cur := rfl
@[simp] theorem State.pick_hbm (s : State) : s.pick.2.hbm = s.hbm := rfl
@[simp] theorem State.pick_tier (s : State) : s.pick.2.tier = s.tier := rfl
@[simp] theorem State.pick_host (s : State) : s.pick.2.host = s.host := rfl
@[simp] theorem State.pick_badHbm (s : State) : s.pick.2.badHbm = s.badHbm := rfl
@[simp] theorem State.pick_badTier (s : State) : s.pick.2.badTier = s.badTier := rfl
@[simp] theorem State.pick_viewLog (s : State) : s.pick.2.viewLog = s.viewLog := rfl
@[simp] theorem State.pick_viewEmptied (s : State) : s.pick.2.viewEmptied = s.viewEmptied := rfl
@[simp] theorem State.pick_viewClock (s : State) : s.pick.2.viewClock = s.viewClock := rfl
@[simp] theorem State.pick_softHbm (s : State) : s.pick.2.softHbm = s.softHbm := rfl
@[simp] theorem State.pick_badPut (s : State) : s.pick.2.badPut = s.badPut := rfl
@[simp] theorem State.pick_badHost (s : State) : s.pick.2.badHost = s.badHost := rfl
@[simp] theorem State.pick_coaches (s : State) : s.pick.2.coaches = s.coaches := rfl
@[simp] theorem State.pick_hub (s : State) : s.pick.2.hub = s.hub := rfl
@[simp] theorem State.pick_fab (s : State) : s.pick.2.fab = s.fab := rfl
@[simp] theorem State.pick_plat (s : State) : s.pick.2.plat = s.plat := rfl

@[simp] theorem State.choose_now (s : State) (n : Nat) : (s.choose n).2.now = s.now := rfl
@[simp] theorem State.choose_agenda (s : State) (n : Nat) : (s.choose n).2.agenda = s.agenda := rfl
@[simp] theorem State.choose_inputs (s : State) (n : Nat) : (s.choose n).2.inputs = s.inputs := rfl
@[simp] theorem State.choose_timers (s : State) (n : Nat) : (s.choose n).2.timers = s.timers := rfl
@[simp] theorem State.choose_out (s : State) (n : Nat) : (s.choose n).2.out = s.out := rfl
@[simp] theorem State.choose_cur (s : State) (n : Nat) : (s.choose n).2.cur = s.cur := rfl
@[simp] theorem State.choose_hbm (s : State) (n : Nat) : (s.choose n).2.hbm = s.hbm := rfl
@[simp] theorem State.choose_tier (s : State) (n : Nat) : (s.choose n).2.tier = s.tier := rfl
@[simp] theorem State.choose_host (s : State) (n : Nat) : (s.choose n).2.host = s.host := rfl
@[simp] theorem State.choose_badHbm (s : State) (n : Nat) : (s.choose n).2.badHbm = s.badHbm := rfl
@[simp] theorem State.choose_badTier (s : State) (n : Nat) : (s.choose n).2.badTier = s.badTier := rfl
@[simp] theorem State.choose_viewLog (s : State) (n : Nat) : (s.choose n).2.viewLog = s.viewLog := rfl
@[simp] theorem State.choose_viewEmptied (s : State) (n : Nat) : (s.choose n).2.viewEmptied = s.viewEmptied := rfl
@[simp] theorem State.choose_viewClock (s : State) (n : Nat) : (s.choose n).2.viewClock = s.viewClock := rfl
@[simp] theorem State.choose_softHbm (s : State) (n : Nat) : (s.choose n).2.softHbm = s.softHbm := rfl
@[simp] theorem State.choose_badPut (s : State) (n : Nat) : (s.choose n).2.badPut = s.badPut := rfl
@[simp] theorem State.choose_badHost (s : State) (n : Nat) : (s.choose n).2.badHost = s.badHost := rfl
@[simp] theorem State.choose_coaches (s : State) (n : Nat) : (s.choose n).2.coaches = s.coaches := rfl
@[simp] theorem State.choose_hub (s : State) (n : Nat) : (s.choose n).2.hub = s.hub := rfl
@[simp] theorem State.choose_fab (s : State) (n : Nat) : (s.choose n).2.fab = s.fab := rfl
@[simp] theorem State.choose_plat (s : State) (n : Nat) : (s.choose n).2.plat = s.plat := rfl

@[simp] theorem State.tokPost_now (s : State) (m : BitVec 3) (o : TokOp) : (s.tokPost m o).now = s.now := rfl
@[simp] theorem State.tokPost_agenda (s : State) (m : BitVec 3) (o : TokOp) : (s.tokPost m o).agenda = s.agenda := rfl
@[simp] theorem State.tokPost_inputs (s : State) (m : BitVec 3) (o : TokOp) : (s.tokPost m o).inputs = s.inputs := rfl
@[simp] theorem State.tokPost_timers (s : State) (m : BitVec 3) (o : TokOp) : (s.tokPost m o).timers = s.timers := rfl
@[simp] theorem State.tokPost_out (s : State) (m : BitVec 3) (o : TokOp) : (s.tokPost m o).out = s.out := rfl
@[simp] theorem State.tokPost_draw (s : State) (m : BitVec 3) (o : TokOp) : (s.tokPost m o).draw = s.draw := rfl
@[simp] theorem State.tokPost_cur (s : State) (m : BitVec 3) (o : TokOp) : (s.tokPost m o).cur = s.cur := rfl
@[simp] theorem State.tokPost_hbm (s : State) (m : BitVec 3) (o : TokOp) : (s.tokPost m o).hbm = s.hbm := rfl
@[simp] theorem State.tokPost_tier (s : State) (m : BitVec 3) (o : TokOp) : (s.tokPost m o).tier = s.tier := rfl
@[simp] theorem State.tokPost_host (s : State) (m : BitVec 3) (o : TokOp) : (s.tokPost m o).host = s.host := rfl
@[simp] theorem State.tokPost_badHbm (s : State) (m : BitVec 3) (o : TokOp) : (s.tokPost m o).badHbm = s.badHbm := rfl
@[simp] theorem State.tokPost_badTier (s : State) (m : BitVec 3) (o : TokOp) : (s.tokPost m o).badTier = s.badTier := rfl
@[simp] theorem State.tokPost_viewLog (s : State) (m : BitVec 3) (o : TokOp) : (s.tokPost m o).viewLog = s.viewLog := rfl
@[simp] theorem State.tokPost_viewEmptied (s : State) (m : BitVec 3) (o : TokOp) : (s.tokPost m o).viewEmptied = s.viewEmptied := rfl
@[simp] theorem State.tokPost_viewClock (s : State) (m : BitVec 3) (o : TokOp) : (s.tokPost m o).viewClock = s.viewClock := rfl
@[simp] theorem State.tokPost_softHbm (s : State) (m : BitVec 3) (o : TokOp) : (s.tokPost m o).softHbm = s.softHbm := rfl
@[simp] theorem State.tokPost_badPut (s : State) (m : BitVec 3) (o : TokOp) : (s.tokPost m o).badPut = s.badPut := rfl
@[simp] theorem State.tokPost_badHost (s : State) (m : BitVec 3) (o : TokOp) : (s.tokPost m o).badHost = s.badHost := rfl
@[simp] theorem State.tokPost_hub (s : State) (m : BitVec 3) (o : TokOp) : (s.tokPost m o).hub = s.hub := rfl
@[simp] theorem State.tokPost_fab (s : State) (m : BitVec 3) (o : TokOp) : (s.tokPost m o).fab = s.fab := rfl
@[simp] theorem State.tokPost_plat (s : State) (m : BitVec 3) (o : TokOp) : (s.tokPost m o).plat = s.plat := rfl

@[simp] theorem State.onPort_now (s : State) (p : BitVec 3) (f : Port → Port) : (s.onPort p f).now = s.now := rfl
@[simp] theorem State.onPort_agenda (s : State) (p : BitVec 3) (f : Port → Port) : (s.onPort p f).agenda = s.agenda := rfl
@[simp] theorem State.onPort_inputs (s : State) (p : BitVec 3) (f : Port → Port) : (s.onPort p f).inputs = s.inputs := rfl
@[simp] theorem State.onPort_timers (s : State) (p : BitVec 3) (f : Port → Port) : (s.onPort p f).timers = s.timers := rfl
@[simp] theorem State.onPort_out (s : State) (p : BitVec 3) (f : Port → Port) : (s.onPort p f).out = s.out := rfl
@[simp] theorem State.onPort_draw (s : State) (p : BitVec 3) (f : Port → Port) : (s.onPort p f).draw = s.draw := rfl
@[simp] theorem State.onPort_cur (s : State) (p : BitVec 3) (f : Port → Port) : (s.onPort p f).cur = s.cur := rfl
@[simp] theorem State.onPort_hbm (s : State) (p : BitVec 3) (f : Port → Port) : (s.onPort p f).hbm = s.hbm := rfl
@[simp] theorem State.onPort_tier (s : State) (p : BitVec 3) (f : Port → Port) : (s.onPort p f).tier = s.tier := rfl
@[simp] theorem State.onPort_host (s : State) (p : BitVec 3) (f : Port → Port) : (s.onPort p f).host = s.host := rfl
@[simp] theorem State.onPort_badHbm (s : State) (p : BitVec 3) (f : Port → Port) : (s.onPort p f).badHbm = s.badHbm := rfl
@[simp] theorem State.onPort_badTier (s : State) (p : BitVec 3) (f : Port → Port) : (s.onPort p f).badTier = s.badTier := rfl
@[simp] theorem State.onPort_viewLog (s : State) (p : BitVec 3) (f : Port → Port) : (s.onPort p f).viewLog = s.viewLog := rfl
@[simp] theorem State.onPort_viewEmptied (s : State) (p : BitVec 3) (f : Port → Port) : (s.onPort p f).viewEmptied = s.viewEmptied := rfl
@[simp] theorem State.onPort_viewClock (s : State) (p : BitVec 3) (f : Port → Port) : (s.onPort p f).viewClock = s.viewClock := rfl
@[simp] theorem State.onPort_softHbm (s : State) (p : BitVec 3) (f : Port → Port) : (s.onPort p f).softHbm = s.softHbm := rfl
@[simp] theorem State.onPort_badPut (s : State) (p : BitVec 3) (f : Port → Port) : (s.onPort p f).badPut = s.badPut := rfl
@[simp] theorem State.onPort_badHost (s : State) (p : BitVec 3) (f : Port → Port) : (s.onPort p f).badHost = s.badHost := rfl
@[simp] theorem State.onPort_coaches (s : State) (p : BitVec 3) (f : Port → Port) : (s.onPort p f).coaches = s.coaches := rfl
@[simp] theorem State.onPort_hub (s : State) (p : BitVec 3) (f : Port → Port) : (s.onPort p f).hub = s.hub := rfl
@[simp] theorem State.onPort_plat (s : State) (p : BitVec 3) (f : Port → Port) : (s.onPort p f).plat = s.plat := rfl

@[simp] theorem State.onQueue_now (s : State) (q : BitVec 6) (f : QueueRegs → QueueRegs) : (s.onQueue q f).now = s.now := rfl
@[simp] theorem State.onQueue_agenda (s : State) (q : BitVec 6) (f : QueueRegs → QueueRegs) : (s.onQueue q f).agenda = s.agenda := rfl
@[simp] theorem State.onQueue_inputs (s : State) (q : BitVec 6) (f : QueueRegs → QueueRegs) : (s.onQueue q f).inputs = s.inputs := rfl
@[simp] theorem State.onQueue_timers (s : State) (q : BitVec 6) (f : QueueRegs → QueueRegs) : (s.onQueue q f).timers = s.timers := rfl
@[simp] theorem State.onQueue_out (s : State) (q : BitVec 6) (f : QueueRegs → QueueRegs) : (s.onQueue q f).out = s.out := rfl
@[simp] theorem State.onQueue_draw (s : State) (q : BitVec 6) (f : QueueRegs → QueueRegs) : (s.onQueue q f).draw = s.draw := rfl
@[simp] theorem State.onQueue_cur (s : State) (q : BitVec 6) (f : QueueRegs → QueueRegs) : (s.onQueue q f).cur = s.cur := rfl
@[simp] theorem State.onQueue_hbm (s : State) (q : BitVec 6) (f : QueueRegs → QueueRegs) : (s.onQueue q f).hbm = s.hbm := rfl
@[simp] theorem State.onQueue_tier (s : State) (q : BitVec 6) (f : QueueRegs → QueueRegs) : (s.onQueue q f).tier = s.tier := rfl
@[simp] theorem State.onQueue_host (s : State) (q : BitVec 6) (f : QueueRegs → QueueRegs) : (s.onQueue q f).host = s.host := rfl
@[simp] theorem State.onQueue_badHbm (s : State) (q : BitVec 6) (f : QueueRegs → QueueRegs) : (s.onQueue q f).badHbm = s.badHbm := rfl
@[simp] theorem State.onQueue_badTier (s : State) (q : BitVec 6) (f : QueueRegs → QueueRegs) : (s.onQueue q f).badTier = s.badTier := rfl
@[simp] theorem State.onQueue_viewLog (s : State) (q : BitVec 6) (f : QueueRegs → QueueRegs) : (s.onQueue q f).viewLog = s.viewLog := rfl
@[simp] theorem State.onQueue_viewEmptied (s : State) (q : BitVec 6) (f : QueueRegs → QueueRegs) : (s.onQueue q f).viewEmptied = s.viewEmptied := rfl
@[simp] theorem State.onQueue_viewClock (s : State) (q : BitVec 6) (f : QueueRegs → QueueRegs) : (s.onQueue q f).viewClock = s.viewClock := rfl
@[simp] theorem State.onQueue_softHbm (s : State) (q : BitVec 6) (f : QueueRegs → QueueRegs) : (s.onQueue q f).softHbm = s.softHbm := rfl
@[simp] theorem State.onQueue_badPut (s : State) (q : BitVec 6) (f : QueueRegs → QueueRegs) : (s.onQueue q f).badPut = s.badPut := rfl
@[simp] theorem State.onQueue_badHost (s : State) (q : BitVec 6) (f : QueueRegs → QueueRegs) : (s.onQueue q f).badHost = s.badHost := rfl
@[simp] theorem State.onQueue_coaches (s : State) (q : BitVec 6) (f : QueueRegs → QueueRegs) : (s.onQueue q f).coaches = s.coaches := rfl
@[simp] theorem State.onQueue_fab (s : State) (q : BitVec 6) (f : QueueRegs → QueueRegs) : (s.onQueue q f).fab = s.fab := rfl
@[simp] theorem State.onQueue_plat (s : State) (q : BitVec 6) (f : QueueRegs → QueueRegs) : (s.onQueue q f).plat = s.plat := rfl

@[simp] theorem State.onItem_now (s : State) (m : BitVec 3) (id : Nat) (f : Item → Item) : (s.onItem m id f).now = s.now := rfl
@[simp] theorem State.onItem_agenda (s : State) (m : BitVec 3) (id : Nat) (f : Item → Item) : (s.onItem m id f).agenda = s.agenda := rfl
@[simp] theorem State.onItem_inputs (s : State) (m : BitVec 3) (id : Nat) (f : Item → Item) : (s.onItem m id f).inputs = s.inputs := rfl
@[simp] theorem State.onItem_timers (s : State) (m : BitVec 3) (id : Nat) (f : Item → Item) : (s.onItem m id f).timers = s.timers := rfl
@[simp] theorem State.onItem_out (s : State) (m : BitVec 3) (id : Nat) (f : Item → Item) : (s.onItem m id f).out = s.out := rfl
@[simp] theorem State.onItem_draw (s : State) (m : BitVec 3) (id : Nat) (f : Item → Item) : (s.onItem m id f).draw = s.draw := rfl
@[simp] theorem State.onItem_cur (s : State) (m : BitVec 3) (id : Nat) (f : Item → Item) : (s.onItem m id f).cur = s.cur := rfl
@[simp] theorem State.onItem_hbm (s : State) (m : BitVec 3) (id : Nat) (f : Item → Item) : (s.onItem m id f).hbm = s.hbm := rfl
@[simp] theorem State.onItem_tier (s : State) (m : BitVec 3) (id : Nat) (f : Item → Item) : (s.onItem m id f).tier = s.tier := rfl
@[simp] theorem State.onItem_host (s : State) (m : BitVec 3) (id : Nat) (f : Item → Item) : (s.onItem m id f).host = s.host := rfl
@[simp] theorem State.onItem_badHbm (s : State) (m : BitVec 3) (id : Nat) (f : Item → Item) : (s.onItem m id f).badHbm = s.badHbm := rfl
@[simp] theorem State.onItem_badTier (s : State) (m : BitVec 3) (id : Nat) (f : Item → Item) : (s.onItem m id f).badTier = s.badTier := rfl
@[simp] theorem State.onItem_viewLog (s : State) (m : BitVec 3) (id : Nat) (f : Item → Item) : (s.onItem m id f).viewLog = s.viewLog := rfl
@[simp] theorem State.onItem_viewEmptied (s : State) (m : BitVec 3) (id : Nat) (f : Item → Item) : (s.onItem m id f).viewEmptied = s.viewEmptied := rfl
@[simp] theorem State.onItem_viewClock (s : State) (m : BitVec 3) (id : Nat) (f : Item → Item) : (s.onItem m id f).viewClock = s.viewClock := rfl
@[simp] theorem State.onItem_softHbm (s : State) (m : BitVec 3) (id : Nat) (f : Item → Item) : (s.onItem m id f).softHbm = s.softHbm := rfl
@[simp] theorem State.onItem_badPut (s : State) (m : BitVec 3) (id : Nat) (f : Item → Item) : (s.onItem m id f).badPut = s.badPut := rfl
@[simp] theorem State.onItem_badHost (s : State) (m : BitVec 3) (id : Nat) (f : Item → Item) : (s.onItem m id f).badHost = s.badHost := rfl
@[simp] theorem State.onItem_hub (s : State) (m : BitVec 3) (id : Nat) (f : Item → Item) : (s.onItem m id f).hub = s.hub := rfl
@[simp] theorem State.onItem_fab (s : State) (m : BitVec 3) (id : Nat) (f : Item → Item) : (s.onItem m id f).fab = s.fab := rfl
@[simp] theorem State.onItem_plat (s : State) (m : BitVec 3) (id : Nat) (f : Item → Item) : (s.onItem m id f).plat = s.plat := rfl

@[simp] theorem State.timer_timers (s : State) (t : Nat) (c : BitVec 3) (i : Instr) : (s.timer t c i).timers = s.timers ++ [(t, c, i)] := rfl
@[simp] theorem State.send_out (s : State) (o : Output) : (s.send o).out = s.out ++ [o] := rfl
@[simp] theorem State.soon_agenda (s : State) (c : BitVec 3) (i : Instr) : (s.soon c i).agenda = .op (evFrame c) i :: s.agenda := rfl
@[simp] theorem State.later_agenda (s : State) (c : BitVec 3) (i : Instr) : (s.later c i).agenda = s.agenda ++ [.op (evFrame c) i] := rfl
@[simp] theorem State.choose_draw (s : State) (n : Nat) : (s.choose n).2.draw = s.draw + 1 := rfl
@[simp] theorem State.pick_draw (s : State) : s.pick.2.draw = s.draw + 1 := rfl

/-- The coach just put. -/
@[simp] theorem State.coach_setCoach (s : State) (c : BitVec 3) (k : Coach) : (s.setCoach c k).coach c = k := by
  simp [State.coach, State.setCoach]

/-- Another coach than the one put. -/
theorem State.coach_setCoach_ne (s : State) {c d : BitVec 3} (k : Coach) (h : d ≠ c) : (s.setCoach c k).coach d = s.coach d := by
  have hn : c.toNat ≠ d.toNat := fun e => h (BitVec.eq_of_toNat_eq e.symm)
  simp [State.coach, State.setCoach, hn]

@[simp] theorem State.coach_onCoach (s : State) (c : BitVec 3) (f : Coach → Coach) : (s.onCoach c f).coach c = f (s.coach c) :=
  s.coach_setCoach c _

theorem State.coach_onCoach_ne (s : State) {c d : BitVec 3} (f : Coach → Coach) (h : d ≠ c) : (s.onCoach c f).coach d = s.coach d :=
  s.coach_setCoach_ne _ h

@[simp] theorem State.coach_onSq (s : State) (c : BitVec 3) (f : Seq → Seq) :
    (s.onSq c f).coach c = { s.coach c with sq := f (s.coach c).sq } := s.coach_setCoach c _

theorem State.coach_onSq_ne (s : State) {c d : BitVec 3} (f : Seq → Seq) (h : d ≠ c) : (s.onSq c f).coach d = s.coach d :=
  s.coach_setCoach_ne _ h

@[simp] theorem State.coach_onEn (s : State) (c : BitVec 3) (f : Engine → Engine) :
    (s.onEn c f).coach c = { s.coach c with en := f (s.coach c).en } := s.coach_setCoach c _

theorem State.coach_onEn_ne (s : State) {c d : BitVec 3} (f : Engine → Engine) (h : d ≠ c) : (s.onEn c f).coach d = s.coach d :=
  s.coach_setCoach_ne _ h

@[simp] theorem State.coach_timer (s : State) (t : Nat) (c : BitVec 3) (i : Instr) (d : BitVec 3) : (s.timer t c i).coach d = s.coach d := rfl
@[simp] theorem State.coach_send (s : State) (o : Output) (d : BitVec 3) : (s.send o).coach d = s.coach d := rfl
@[simp] theorem State.coach_soon (s : State) (c : BitVec 3) (i : Instr) (d : BitVec 3) : (s.soon c i).coach d = s.coach d := rfl
@[simp] theorem State.coach_later (s : State) (c : BitVec 3) (i : Instr) (d : BitVec 3) : (s.later c i).coach d = s.coach d := rfl
@[simp] theorem State.coach_choose (s : State) (n : Nat) (d : BitVec 3) : (s.choose n).2.coach d = s.coach d := rfl

/-- What a coach reads after an update of the sequencer side of any coach. -/
theorem State.en_onSq (s : State) (c d : BitVec 3) (f : Seq → Seq) : ((s.onSq c f).coach d).en = (s.coach d).en := by
  by_cases h : d = c
  · subst h; simp
  · rw [s.coach_onSq_ne f h]

theorem State.unit_onSq (s : State) (c d : BitVec 3) (f : Seq → Seq) : ((s.onSq c f).coach d).unit = (s.coach d).unit := by
  by_cases h : d = c
  · subst h; simp
  · rw [s.coach_onSq_ne f h]

theorem State.ic_onSq (s : State) (c d : BitVec 3) (f : Seq → Seq) : ((s.onSq c f).coach d).ic = (s.coach d).ic := by
  by_cases h : d = c
  · subst h; simp
  · rw [s.coach_onSq_ne f h]

theorem State.sq_onEn (s : State) (c d : BitVec 3) (f : Engine → Engine) : ((s.onEn c f).coach d).sq = (s.coach d).sq := by
  by_cases h : d = c
  · subst h; simp
  · rw [s.coach_onEn_ne f h]

theorem State.unit_onEn (s : State) (c d : BitVec 3) (f : Engine → Engine) : ((s.onEn c f).coach d).unit = (s.coach d).unit := by
  by_cases h : d = c
  · subst h; simp
  · rw [s.coach_onEn_ne f h]

theorem State.ic_onEn (s : State) (c d : BitVec 3) (f : Engine → Engine) : ((s.onEn c f).coach d).ic = (s.coach d).ic := by
  by_cases h : d = c
  · subst h; simp
  · rw [s.coach_onEn_ne f h]

/-- A result on its way leaves every register of every coach (R160). -/
theorem State.sq_result (s : State) (c d : BitVec 3) (n : Nat) (fl : BitVec 40) (x : Dest) :
    ((s.result c n fl x).coach d).sq = (s.coach d).sq := s.sq_onEn c d _

/-- A port after an update of it, and of another. -/
@[simp] theorem State.port_onPort (s : State) (p : BitVec 3) (f : Port → Port) : (s.onPort p f).port p = f (s.port p) := by
  simp [State.port, State.onPort]

theorem State.port_onPort_ne (s : State) {p q : BitVec 3} (f : Port → Port) (h : q ≠ p) : (s.onPort p f).port q = s.port q := by
  have hn : p.toNat ≠ q.toNat := fun e => h (BitVec.eq_of_toNat_eq e.symm)
  simp [State.port, State.onPort, hn]

end Sys2Proof.Machine
end

