-- ==== Sys2Proof/Laws/Stores.lean ====
section
/-! SUPPORT. Stores: what reading after writing gives, and the canonical form that every operation on a store keeps
(notes/assumptions 2). -/

namespace Sys2Proof.Machine

variable {w : Nat}

/-- A key at or below the bound of a store reads zero. -/
theorem peek_eq_zero_of_le {m : Store w} {b i : Nat} (h : canonAbove b m = true) (hi : i ≤ b) : peek m i = 0 := by
  cases m with
  | nil => rfl
  | cons e t =>
    simp only [canonAbove, Bool.and_eq_true, decide_eq_true_eq, BitVec.ofNat_eq_ofNat] at h
    have h1 : i ≠ e.1 := by omega
    have h2 : i < e.1 := by omega
    simp [peek, h1, h2]

/-- A lower bound may be lowered. -/
theorem canonAbove_mono {m : Store w} {a b : Nat} (hab : a ≤ b) (h : canonAbove b m = true) : canonAbove a m = true := by
  cases m with
  | nil => rfl
  | cons e t =>
    simp only [canonAbove, Bool.and_eq_true, decide_eq_true_eq] at h ⊢
    exact ⟨⟨by omega, h.1.2⟩, h.2⟩

/-- A store above a bound is canonical. -/
theorem canon_of_canonAbove {m : Store w} {b : Nat} (h : canonAbove b m = true) : canon m = true := by
  cases m with
  | nil => rfl
  | cons e t =>
    simp only [canonAbove, Bool.and_eq_true] at h
    simp only [canon, Bool.and_eq_true]
    exact ⟨h.1.2, h.2⟩

/-- poke keeps a store above any bound below its key. -/
theorem canonAbove_poke {m : Store w} {b : Nat} (i : Nat) (v : BitVec w) (h : canonAbove b m = true) (hb : b < i) :
    canonAbove b (poke m i v) = true := by
  induction m generalizing b with
  | nil =>
    by_cases hv : v = 0#w
    · simp [poke, hv, canonAbove]
    · simp [poke, hv, canonAbove, hb]
  | cons e t ih =>
    simp only [canonAbove, Bool.and_eq_true, decide_eq_true_eq, BitVec.ofNat_eq_ofNat] at h
    unfold poke
    by_cases h1 : i < e.1
    · by_cases hv : v = 0#w
      · simp [h1, hv, canonAbove, h]
      · simp [h1, hv, canonAbove, hb, h]
    · by_cases h2 : i = e.1
      · by_cases hv : v = 0#w
        · simp only [h2, hv, BitVec.ofNat_eq_ofNat, if_true, if_false, lt_irrefl]
          exact canonAbove_mono (Nat.le_of_lt h.1.1) h.2
        · simp [h2, hv, canonAbove, h]
      · have h3 : e.1 < i := by omega
        simp only [h1, h2, if_false, canonAbove, Bool.and_eq_true, decide_eq_true_eq]
        exact ⟨h.1, ih h.2 h3⟩

/-- poke keeps the canonical form. -/
theorem canon_poke {m : Store w} (i : Nat) (v : BitVec w) (h : canon m = true) : canon (poke m i v) = true := by
  cases m with
  | nil =>
    by_cases hv : v = 0#w
    · simp [poke, hv, canon]
    · simp [poke, hv, canon, canonAbove]
  | cons e t =>
    simp only [canon, Bool.and_eq_true, decide_eq_true_eq, BitVec.ofNat_eq_ofNat] at h
    unfold poke
    by_cases h1 : i < e.1
    · by_cases hv : v = 0#w
      · simp [h1, hv, canon, h]
      · simp [h1, hv, canon, canonAbove, h]
    · by_cases h2 : i = e.1
      · by_cases hv : v = 0#w
        · simp only [h2, hv, BitVec.ofNat_eq_ofNat, if_true, if_false, lt_irrefl]
          exact canon_of_canonAbove h.2
        · simp [h2, hv, canon, h]
      · have h3 : e.1 < i := by omega
        simp only [h1, h2, if_false, canon, Bool.and_eq_true, decide_eq_true_eq]
        exact ⟨h.1, canonAbove_poke i v h.2 h3⟩

/-- Reading after writing, above a bound. -/
theorem peek_poke_above {m : Store w} {b : Nat} (i j : Nat) (v : BitVec w) (h : canonAbove b m = true) :
    peek (poke m i v) j = if j = i then v else peek m j := by
  induction m generalizing b with
  | nil =>
    by_cases hv : v = 0#w <;> by_cases hj : j = i <;> simp [poke, peek, hv, hj]
  | cons e t ih =>
    simp only [canonAbove, Bool.and_eq_true, decide_eq_true_eq, BitVec.ofNat_eq_ofNat] at h
    unfold poke
    by_cases h1 : i < e.1
    · by_cases hv : v = 0#w
      · subst hv
        by_cases hj : j = i
        · have n1 : j ≠ e.1 := by omega
          have n2 : j < e.1 := by omega
          simp [h1, peek, hj, Nat.ne_of_lt h1]
        · simp [h1, hj]
      · by_cases hj : j = i
        · simp [h1, hv, peek, hj]
        · by_cases hl : j < i
          · have n1 : j ≠ e.1 := by omega
            have n2 : j < e.1 := by omega
            simp [h1, hv, peek, hj, hl, n1, n2]
          · simp [h1, hv, peek, hj, hl]
    · by_cases h2 : i = e.1
      · by_cases hv : v = 0#w
        · subst hv
          simp only [h2, BitVec.ofNat_eq_ofNat, if_true, if_false, lt_irrefl]
          by_cases hj : j = e.1
          · simp only [hj, if_true]
            exact peek_eq_zero_of_le h.2 (Nat.le_refl _)
          · by_cases hl : j < e.1
            · simp only [hj, if_false, peek, hl, if_true]
              exact peek_eq_zero_of_le h.2 (Nat.le_of_lt hl)
            · simp [hj, peek, hl]
        · by_cases hj : j = e.1 <;> simp [h2, hv, peek, hj]
      · simp only [h1, h2, if_false, peek]
        have h3 : e.1 < i := by omega
        by_cases hj : j = e.1
        · have n : j ≠ i := by omega
          simp [hj, Nat.ne_of_lt h3]
        · by_cases hl : j < e.1
          · have n : j ≠ i := by omega
            simp [hj, hl, n]
          · simp only [hj, hl, if_false]
            exact ih h.2

/-- Reading after writing (R1): the written value at its key, the old value elsewhere. -/
theorem peek_poke {m : Store w} (i j : Nat) (v : BitVec w) (h : canon m = true) :
    peek (poke m i v) j = if j = i then v else peek m j := by
  cases m with
  | nil => exact peek_poke_above (b := 0) i j v rfl
  | cons e t =>
    simp only [canon, Bool.and_eq_true, decide_eq_true_eq, BitVec.ofNat_eq_ofNat] at h
    by_cases h0 : e.1 = 0
    · unfold poke
      by_cases h1 : i < e.1
      · omega
      · by_cases h2 : i = e.1
        · by_cases hv : v = 0#w
          · subst hv
            simp only [h2, BitVec.ofNat_eq_ofNat, if_true, if_false, lt_irrefl]
            by_cases hj : j = e.1
            · simp only [hj, if_true]
              exact peek_eq_zero_of_le h.2 (Nat.le_refl _)
            · have hl : ¬ j < e.1 := by omega
              simp [hj, peek, hl]
          · by_cases hj : j = e.1 <;> simp [h2, hv, peek, hj]
        · simp only [h1, h2, if_false, peek]
          by_cases hj : j = e.1
          · have n : j ≠ i := by omega
            have n' : ¬ e.1 = i := by omega
            simp [hj, n']
          · have hl : ¬ j < e.1 := by omega
            simp only [hj, hl, if_false]
            exact peek_poke_above i j v h.2
    · refine peek_poke_above (b := 0) i j v ?_
      simp only [canonAbove, Bool.and_eq_true, decide_eq_true_eq]
      exact ⟨⟨Nat.pos_of_ne_zero h0, h.1⟩, h.2⟩

/-- Reading at the key just written. -/
theorem peek_poke_same {m : Store w} (i : Nat) (v : BitVec w) (h : canon m = true) : peek (poke m i v) i = v := by
  rw [peek_poke i i v h, if_pos rfl]

/-- Reading away from the key just written. -/
theorem peek_poke_ne {m : Store w} {i j : Nat} (v : BitVec w) (h : canon m = true) (hij : j ≠ i) :
    peek (poke m i v) j = peek m j := by
  rw [peek_poke i j v h, if_neg hij]

/-- Filtering a store keeps it above its bound. -/
theorem canonAbove_filter {m : Store w} {b : Nat} (f : Nat × BitVec w → Bool) (h : canonAbove b m = true) :
    canonAbove b (m.filter f) = true := by
  induction m generalizing b with
  | nil => rfl
  | cons e t ih =>
    simp only [canonAbove, Bool.and_eq_true, decide_eq_true_eq, BitVec.ofNat_eq_ofNat] at h
    by_cases hf : f e = true
    · rw [List.filter_cons_of_pos hf]
      simp only [canonAbove, Bool.and_eq_true, decide_eq_true_eq]
      exact ⟨h.1, ih h.2⟩
    · rw [List.filter_cons_of_neg hf]
      exact canonAbove_mono (Nat.le_of_lt h.1.1) (ih h.2)

/-- Filtering a store keeps the canonical form. -/
theorem canon_filter {m : Store w} (f : Nat × BitVec w → Bool) (h : canon m = true) : canon (m.filter f) = true := by
  cases m with
  | nil => rfl
  | cons e t =>
    simp only [canon, Bool.and_eq_true, decide_eq_true_eq, BitVec.ofNat_eq_ofNat] at h
    by_cases hf : f e = true
    · rw [List.filter_cons_of_pos hf]
      simp only [canon, Bool.and_eq_true, decide_eq_true_eq]
      exact ⟨h.1, canonAbove_filter f h.2⟩
    · rw [List.filter_cons_of_neg hf]
      exact canon_of_canonAbove (canonAbove_filter f h.2)

/-- wipe and keep keep the canonical form. -/
theorem canon_wipe {m : Store w} (f : Nat → Bool) (h : canon m = true) : canon (wipe m f) = true := canon_filter _ h

theorem canon_keep {m : Store w} (f : Nat → Bool) (h : canon m = true) : canon (keep m f) = true := canon_filter _ h

/-- Writing bytes keeps the canonical form. -/
theorem canon_pokeBytes {m : Store 8} (a n v : Nat) (h : canon m = true) : canon (pokeBytes m a n v) = true := by
  induction n generalizing m a v with
  | zero => exact h
  | succ n ih => exact ih _ _ (canon_poke _ _ h)

/-- Reading outside the bytes written. -/
theorem peek_pokeBytes_out {m : Store 8} (a n v j : Nat) (h : canon m = true) (hj : j < a ∨ a + n ≤ j) :
    peek (pokeBytes m a n v) j = peek m j := by
  induction n generalizing m a v with
  | zero => rfl
  | succ n ih =>
    have h1 : j ≠ a := by omega
    have h2 : j < a + 1 ∨ a + 1 + n ≤ j := by omega
    rw [pokeBytes, ih (a + 1) (v / 256) (canon_poke _ _ h) h2, peek_poke_ne _ h h1]

/-- Reading a byte among those written. -/
theorem peek_pokeBytes_in {m : Store 8} (a n v i : Nat) (h : canon m = true) (hi : i < n) :
    peek (pokeBytes m a n v) (a + i) = BitVec.ofNat 8 (v / 256 ^ i) := by
  induction n generalizing m a v i with
  | zero => omega
  | succ n ih =>
    cases i with
    | zero =>
      rw [pokeBytes, peek_pokeBytes_out (a + 1) n (v / 256) (a + 0) (canon_poke _ _ h) (by omega)]
      simp [peek_poke_same _ _ h]
    | succ i =>
      have e : a + (i + 1) = a + 1 + i := by omega
      rw [pokeBytes, e, ih (a + 1) (v / 256) i (canon_poke _ _ h) (by omega), Nat.div_div_eq_div_mul, Nat.pow_succ, Nat.mul_comm]

/-- A fold of stores that each step keeps canonical. -/
theorem canon_foldl {α : Type} (f : Store w → α → Store w) (hf : ∀ m a, canon m = true → canon (f m a) = true) (l : List α)
    {m : Store w} (h : canon m = true) : canon (l.foldl f m) = true := by
  induction l generalizing m with
  | nil => exact h
  | cons a t ih => exact ih (hf m a h)

/-- A byte put in front keeps the canonical form. -/
theorem canon_frontByte (e : Nat × BitVec 8) {m : Store 8} (h : canon m = true) : canon (frontByte e m) = true := by
  cases m with
  | nil => simp only [frontByte]; split <;> simp_all [canon, canonAbove]
  | cons f t => simp only [frontByte]; split <;> simp_all [canon, canonAbove]

/-- The bytes of a husk have the canonical form, whatever they are made of. -/
theorem canon_canonOf (l : Store 8) : canon (canonOf l) = true := by
  unfold canonOf
  induction l.mergeSort fun a b => a.1 ≤ b.1 with
  | nil => rfl
  | cons e t ih => exact canon_frontByte e ih

end Sys2Proof.Machine
end

