-- ==== Sys2Proof/Tests/Slice0.lean ====
section
/-! SUPPORT. Tests: words written out from the spec's encodings, ill-formed terms that WellFormed refuses, single steps with values
from the spec's tables or by hand, and for every statement with hypotheses a witness that meets them. -/

namespace Sys2Proof.Tests

open Sys2Proof Sys2Proof.Machine Sys2Proof.Claims

set_option Elab.async false

/-! ### Decoding -/

/-- Header words with TGT and code fields from R162 and the table of R208's examples. -/
theorem test_decode_header :
    decodeSlot .h 0x20000123 = .ok (some (.jump 0 0 0 0 0x123)) ∧ decodeSlot .h 0x30000400 = .ok (some (.call 0 0 0 0 0x400)) ∧
    decodeSlot .h 0x40000000 = .ok (some (.ret 0 0 0 0)) ∧ decodeSlot .h 0x60000021 = .ok (some (.trap 0 0 0 0 0x21)) ∧
    decodeSlot .h 0x70000000 = .ok (some (.yield 0 0 0 0)) ∧ decodeSlot .h 0x80000000 = .ok (some (.exit 0 0 0 0)) ∧
    decodeSlot .h 0x90000000 = .ok (some (.rtt 0 0 0 0)) ∧ decodeSlot .h 0xA0000064 = .ok (some (.bsel 0 0 0 0 3 4)) ∧
    decodeSlot .h 0xB0000007 = .ok (some (.brk 0 0 0 0 7)) ∧ decodeSlot .h 0x10000000 = .ok (some (.tree 0 0 0 0)) := by
  decide +kernel

/-- LOOP with its level, body, register and yield-safe mark, and a wait with a hold, bit by bit (R161, R162). -/
theorem test_decode_loop :
    decodeSlot .h 0b0101_0011_1_0110_00100_010_00111_01001_1 = .ok (some (.loop 3 1 6 4 2 7 9 1)) := by decide +kernel

/-- A network syllable bit by bit (R163): RR 31:23, WR 22:14, RSTEP 13:11, WSTEP 10:8, pad source 7:4. -/
theorem test_decode_network :
    decodeSlot .n 0b000000101_000000011_010_001_0100_00_1_0 = .ok (some (.networkSyllable 5 3 2 1 4 1 0)) := by decide +kernel

/-- Scalar words, fields as R194 and R195 place them. -/
theorem test_decode_scalar :
    decodeSlot .s0 0b000001_00011_00001_00010_00000000000 = .ok (some (.add 3 1 2)) ∧
    decodeSlot .s1 0xACC20000 = .ok (some (.mbw 6 1)) ∧ decodeSlot .s1 0x8C4C0007 = .ok (some (.cmpi 1 6 0 7)) ∧
    decodeSlot .s0 0xC2A73F00 = .ok (some (.mvx 21 0 28 63)) ∧ decodeSlot .s0 0xA462C000 = .ok (some (.st 3 2 3 0)) := by decide +kernel

/-- Vector words from the worked listings of the spec (R197). -/
theorem test_decode_vector :
    decodeSlot .va 0x06F35C00 = .ok (some (.vadd 2 30 13 14 0 0 0)) ∧ decodeSlot .va 0x22088600 = .ok (some (.vfcmp 2 1 2 3 0 0 0)) ∧
    decodeSlot .vb 0x660B1001 = .ok (some (.vicmp 2 1 12 8 0 0 1)) ∧ decodeSlot .va 0xC20F03D0 = .ok (some (.vfma 0 2 1 28 1 29 0 0)) ∧
    decodeSlot .vc 0x92F218C0 = .ok (some (.vsel 2 30 8 12 3)) ∧ decodeSlot .va 0x9AF00000 = .ok (some (.vli 2 30 0 0)) := by decide +kernel

/-- Special-function words (R198, R199). -/
theorem test_decode_special :
    decodeSlot .f 0x0C800000 = .ok (some (.vrcpe 1 0)) ∧ decodeSlot .f 0x14020000 = .ok (some (.vrcps 0 0 1 0)) ∧
    decodeSlot .f 0x48440000 = .ok (some (.pmin 1 1 0)) := by decide +kernel

/-- Matrix words (R201, R202, R280 to R292). -/
theorem test_decode_matrix :
    decodeSlot .mx 0x04140000 = .ok (some (.mfire 5 0)) ∧ decodeSlot .mx 0x05020000 = .ok (some (.mfire 64 1)) ∧
    decodeSlot .mx 0x0CCE0000 = .ok (some (.mfmt 3 3 1)) ∧ decodeSlot .mx 0x0DDC0000 = .ok (some (.mfmt 7 7 0)) ∧
    decodeSlot .mx 0x0EEC0000 = .ok (some (.mfmt 11 11 0)) ∧ decodeSlot .mx 0x10C00000 = .ok (some (.mgeom 6)) ∧
    decodeSlot .mx 0x1400FC00 = .ok (some (.mclr 0 63)) ∧ decodeSlot .mx 0x1700FC00 = .ok (some (.mclr 192 63)) ∧
    decodeSlot .mx 0x1817C000 = .ok (some (.mdrn 5 7 1)) ∧ decodeSlot .mx 0x1C240000 = .ok (some (.mpre 9 0)) ∧
    decodeSlot .mx 0x08E50000 = .ok (some (.mtile 7 2 1)) := by decide +kernel

/-- Command words (R203 to R205, R301 to R320). -/
theorem test_decode_async :
    decodeSlot .ax 0x04C90800 = .ok (some (.dcopyLin 6 4 1 0 1 0)) ∧ decodeSlot .ax 0x04C50803 = .ok (some (.dcopyPad 6 2 1 0 1 0)) ∧
    decodeSlot .ax 0x0862A000 = .ok (some (.put 3 1 0 1 4)) ∧ decodeSlot .ax 0x0D2E0003 = .ok (some (.hgath 9 7 0 0 0 3)) ∧
    decodeSlot .ax 0x10F4A001 = .ok (some (.hredMax 7 10 0 1 4 0 0)) ∧ decodeSlot .ax 0x110C0004 = .ok (some (.hredSum 8 6 0 0 0 0 1)) ∧
    decodeSlot .ax 0x15D40000 = .ok (some (.hcvt 14 10 0 0 0)) ∧ decodeSlot .ax 0x18A4A00B = .ok (some (.hatomMaxFp32 5 2 0 1 4)) ∧
    decodeSlot .ax 0x1C400003 = .ok (some (.probeRw 2 0 0 0 0)) ∧ decodeSlot .ax 0x20002000 = .ok (some (.fence 0 4)) ∧
    decodeSlot .ax 0x24003800 = .ok (some (.fenceSc 0 7)) ∧ decodeSlot .ax 0x2806 = .error .dirtyNop ∧
    decodeSlot .ax 0x28060000 = .ok (some (.vsync 3)) ∧ decodeSlot .ax 0x2D4A0000 = .ok (some (.tadv 10 5)) ∧
    decodeSlot .ax 0x300A0000 = .ok (some (.tsetSet 0 5)) ∧ decodeSlot .ax 0x306A0001 = .ok (some (.tsetSeterr 3 5)) ∧
    decodeSlot .ax 0x300A0002 = .ok (some (.tsetClrerr 0 5)) ∧ decodeSlot .ax 0x3590A000 = .ok (some (.enq 12 8 0 1 4)) ∧
    decodeSlot .ax 0x39B30800 = .ok (some (.cload 13 9 1 0 1)) ∧ decodeSlot .ax 0x3CA60003 = .ok (some (.rsolve 5 3 0 0 0 0 3)) := by
  decide +kernel

/-- M0 and M1 words (R206, R249 to R251). -/
theorem test_decode_memory_slots :
    decodeSlot .m0 0x04308000 = .ok (some (.rd 3 1)) ∧ decodeSlot .m0 0x08718000 = .ok (some (.rdc 7 3)) ∧
    decodeSlot .m0 0x0CC40000 = .ok (some (.rdi 12 8)) ∧ decodeSlot .m0 0x12F00400 = .ok (some (.waitf 47 0 1)) ∧
    decodeSlot .m0 0x142208C0 = .ok (some (.rload 17 0 2 6)) ∧ decodeSlot .m1 0x04510000 = .ok (some (.wr 5 2)) ∧
    decodeSlot .m1 0x08512400 = .ok (some (.wrm 5 2 9)) ∧ decodeSlot .m1 0x0C008800 = .ok (some (.wrf 0 1 2)) ∧
    decodeSlot .m1 0x1007A020 = .ok (some (.rsave 3 1 40 1)) := by decide +kernel

/-- Reserved encodings are refused by name, and an all-zero syllable is no operation. -/
theorem test_decode_reserved :
    decodeSlot .s0 0xFC000000 = .error .noRow ∧ decodeSlot .mx 0xFC000000 = .error .noRow ∧ decodeSlot .s0 0x00000001 = .error .dirtyNop ∧
    decodeSlot .m0 0x07000000 = .error .reservedValue ∧ decodeSlot .va 0 = .ok none := by decide +kernel

/-! ### Ill-formed terms -/

/-- For each check of WellFormed a term that it refuses. -/
theorem test_wf_refuses :
    ([.networkSyllable 0 0 7 0 0 0 0, .networkSyllable 0 0 0 7 0 0 0, .networkSyllable 0 0 0 0 13 0 0, .jump 0 0 1 0 0, .ret 0 0 0 1,
      .loop 0 0 0 0 6 0 0 0, .ld 0 0 3 1 0, .srr 0 0x007, .srw 0 0x005, .srset 0 0x041, .srclr 0 0x042, .mvx 0 3 0 0, .mvx 0 0 30 0,
      .mxv 0 3 0 0, .mxv 0 0 28 0, .mxv 0 0 29 0, .agl 0 6 0 0, .vadd 3 0 0 0 0 0 0, .vadd 0 28 0 0 0 0 0, .vadd 0 29 0 0 0 0 0,
      .vadd 0 0 30 0 0 0 0, .vadd 0 0 0 30 0 0 0, .vadd 0 0 0 0 0 6 0, .viadd 0 0 0 0 0 0 0, .viadd 0 0 0 0 0 0 6, .vicmp 0 0 0 0 0 6 1,
      .vkop 3 0 0 0 0, .vcvt 2 0 0 8 0 0 0 0, .vcvt 2 0 0 0 0 0 0 0, .vcvt 2 0 0 9 0 0 1 0, .vcvt 2 0 0 3 1 0 0 2, .vmxp 2 0 0 0 1 0 0,
      .vmxs 2 0 0 2 0, .vmxu 2 30 0 0 3 0 0 0, .vfma 0 2 0 0 0 30 0 0, .vrcps 0 0 0 5, .vsqrt 0 0 5, .ftbl 0 0 0 3 0, .ftbl 0 0 5 0 0,
      .psum 3 0 0 0, .psum 0 5 0 0, .psums 0 0 0 0 0, .mfmt 0 0 0, .mfmt 1 1 1, .mfmt 7 3 0, .mclr 200 56, .dcopyLin 0 0 0 0 0 3,
      .dcopyLin 0 0 0 0 1 0, .dcopyLin 0 0 1 0 9 0, .dcopyPad 0 0 0 0 0 1, .dcopyView 0 0 0 0 0 2, .hredSum 0 0 0 0 0 5 0,
      .hredSum 0 0 0 0 0 1 9, .hredMax 0 0 0 0 0 1 0, .hredMin 0 0 0 0 0 0 3, .fence 0 9, .rd 48 0, .wrf 48 0 0, .rload 0 0 0 0,
      .rsave 1 0 48 0] : List Instr).all (fun i => !i.wf) = true := by decide +kernel

/-! ### Small machines -/

/-- A machine with reset's values and nothing to do. -/
def quiet : State := { State.reset with agenda := [], timers := [] }

/-- Coach 0 runs a unit that holds everything it can reserve. -/
def busy : State := { quiet.withBundle 0 with agenda := [] }

/-- `busy` with its sequencer changed. -/
def busySq (f : Seq → Seq) : State := busy.onSq 0 f

/-- `busy` with its data side changed. -/
def busyEn (f : Engine → Engine) : State := busy.onEn 0 f

/-- `busy` with x1 = a and x2 = b. -/
def withXs (a b : Word) : State := busySq fun q => { q with x := (q.x.set 1 a).set 2 b }

/-- Whether a step goes on to a state with a property. -/
def nexts (o : Outcome) (p : State → Bool) : Bool :=
  match o with
  | .next t => p t
  | _ => false

/-- The last result that an operation sets out on coach 0: its delay and destination. -/
def sentOut (o : Outcome) : Option (Nat × Dest) :=
  match o with
  | .next t => (t.coach 0).en.inflight.getLast?.map fun r => (r.due - (t.coach 0).ic, r.dest)
  | _ => none

/-- The value that an operation sets out for a scalar register. -/
def xrOf (o : Outcome) : Option (Nat × Word) :=
  match sentOut o with
  | some (n, .xr _ v) => some (n, v)
  | _ => none

/-- The lane `l` of the value that an operation sets out for a vector register. -/
def laneSent (o : Outcome) (l : Nat) : Option Nat :=
  match sentOut o with
  | some (_, .vr _ _ _ v) => some (laneOf v l).toNat
  | some (_, .oport _ _ v) => some (laneOf v l).toNat
  | some (_, .fs _ v) => some (laneOf v l).toNat
  | _ => none

/-! ### Values of single operations, by hand from the rules -/

theorem test_add_wraps : xrOf (exec (.add 3 1 2) (withXs (-1) 2)) = some (1, 1) := by decide +kernel
theorem test_sub : xrOf (exec (.sub 3 1 2) (withXs 2 5)) = some (1, -3) := by decide +kernel
theorem test_shifts : xrOf (exec (.sar 3 1 2) (withXs (-8) 65)) = some (1, -4) ∧ xrOf (exec (.shr 3 1 2) (withXs (-8) 60)) = some (1, 15) ∧
    xrOf (exec (.shl 3 1 2) (withXs 3 63)) = some (1, 0x8000000000000000) := by decide +kernel
theorem test_logic : xrOf (exec (.andn 3 1 2) (withXs 0b1100 0b1010)) = some (1, 0b0100) ∧
    xrOf (exec (.xor 3 1 2) (withXs 0b1100 0b1010)) = some (1, 0b0110) := by decide +kernel
theorem test_minmax : xrOf (exec (.min 3 1 2) (withXs (-1) 1)) = some (1, -1) ∧ xrOf (exec (.minu 3 1 2) (withXs (-1) 1)) = some (1, 1) ∧
    xrOf (exec (.max 3 1 2) (withXs (-1) 1)) = some (1, 1) ∧ xrOf (exec (.maxu 3 1 2) (withXs (-1) 1)) = some (1, -1) := by decide +kernel
theorem test_mul : xrOf (exec (.mul 3 1 2) (withXs (-3) 5)) = some (3, -15) ∧ xrOf (exec (.mulh 3 1 2) (withXs (-3) 5)) = some (3, -1) ∧
    xrOf (exec (.mulhu 3 1 2) (withXs (-3) 5)) = some (3, 4) := by decide +kernel
theorem test_counts : xrOf (exec (.clz 3 1) (withXs 0 0)) = some (1, 64) ∧ xrOf (exec (.clz 3 1) (withXs 1 0)) = some (1, 63) ∧
    xrOf (exec (.popc 3 1) (withXs (-1) 0)) = some (1, 64) := by decide +kernel
theorem test_sel_reads_c0 : xrOf (exec (.sel 3 1 2 0) (withXs 7 9)) = some (1, 7) ∧ xrOf (exec (.sel 3 1 2 5) (withXs 7 9)) = some (1, 9) := by
  decide +kernel
theorem test_immediates : xrOf (exec (.addi 3 1 0xFFFF) (withXs 3 0)) = some (1, 2) ∧ xrOf (exec (.andi 3 1 0xFFFF) (withXs (-1) 0)) = some (1, 0xFFFF) := by
  decide +kernel
theorem test_liw_extends : xrOf (exec (.liw 3 1) { busy with cur := { busy.cur with ext := 0x80000000#128 <<< 32 } }) =
    some (1, 0xFFFFFFFF80000000) := by decide +kernel
theorem test_compare : (sentOut (exec (.cmp 4 1 2 2) (withXs (-1) 1))).map (·.2) = some (.cr 4 true) ∧
    (sentOut (exec (.cmp 4 1 4 2) (withXs (-1) 1))).map (·.2) = some (.cr 4 false) := by decide +kernel

/-- The machine of an operation's outcome with the last result it set out landed. -/
def landed (s : State) (o : Outcome) : State :=
  match sentOut o with
  | some (_, d) => s.onCoach 0 fun k => k.landDest d
  | none => s

/-- ST then LD: low byte first, the address aligned down, SGN extends. -/
theorem test_store_load :
    (let s := withXs 0x1003 0x80FE
     let t := landed s (exec (.st 2 1 1 0) s)
     xrOf (exec (.ld 3 1 0 1 0) t) = some (3, 0xFFFFFFFFFFFFFF80) ∧ xrOf (exec (.ld 3 1 1 0 0) t) = some (3, 0x80FE) ∧
       xrOf (exec (.ld 3 1 0 0 0x1FFF) t) = some (3, 0xFE)) := by decide +kernel

/-- A machine with two vector registers of cluster A set in every lane. -/
def withVs (a b : Lane) : State :=
  busyEn fun e => { e with va := { e.va with v := (e.va.v.set 1 (ofLanes fun _ => a)).set 2 (ofLanes fun _ => b) } }

/-- BF16 1.0 + 1.0 = 2.0 and 1.0 · -2.0 = -2.0 in both elements; 2.0 · 2.5 + 2.0 = 7.0 in FP32 (R96, R256). -/
theorem test_vector_float :
    laneSent (exec (.vadd 2 3 1 2 0 0 1) (withVs 0x3F803F80 0x3F803F80)) 63 = some 0x40004000 ∧
    laneSent (exec (.vmul 2 3 1 2 0 0 1) (withVs 0x3F803F80 0xC000C000)) 0 = some 0xC000C000 ∧
    laneSent (exec (.vfma 0 2 3 1 2 1 0 0) (withVs 0x40000000 0x40200000)) 0 = some 0x40E00000 := by decide +kernel

/-- Signed and unsigned maximum of the bits, absolute value and negation (R257). -/
theorem test_vector_sign :
    laneSent (exec (.vabs 2 3 1 0 0) (withVs 0xBF800000 0)) 0 = some 0x3F800000 ∧
    laneSent (exec (.vneg 2 3 1 0 0) (withVs 0x3F800000 0)) 0 = some 0xBF800000 ∧
    laneSent (exec (.vmax 2 3 1 2 0 0) (withVs 0xBF800000 0x3F800000)) 0 = some 0x3F800000 := by decide +kernel

/-- INT8 100 + 100 wraps to -56, and is 127 when it saturates; INT32 arithmetic wraps (R259). -/
theorem test_vector_integer :
    laneSent (exec (.viadd 2 3 1 2 0 0 3) (withVs 0x64646464 0x64646464)) 0 = some 0xC8C8C8C8 ∧
    laneSent (exec (.viadd 2 3 1 2 0 1 3) (withVs 0x64646464 0x64646464)) 0 = some 0x7F7F7F7F ∧
    laneSent (exec (.visub 2 3 1 2 0 0 1) (withVs 0 1)) 0 = some 0xFFFFFFFF := by decide +kernel

/-- Bitwise operations of whole lanes (R262). -/
theorem test_vector_bits :
    laneSent (exec (.vandn 2 3 1 2 0) (withVs 0b1100 0b1010)) 5 = some 0b0100 ∧
    laneSent (exec (.vxor 2 3 1 2 0) (withVs 0b1100 0b1010)) 5 = some 0b0110 := by decide +kernel

/-- FP32 to BF16: 1.0 becomes 0x3F80 (R266). -/
theorem test_convert_narrows :
    (laneSent (exec (.vcvt 2 3 1 1 0 0 0 0) (withVs 0x3F800000 0)) 0).map (· % 65536) = some 0x3F80 := by decide +kernel

/-- The square root of 4.0 is 2.0 (R98). -/
theorem test_sqrt :
    laneSent (exec (.vsqrt 1 0 0) (busyEn fun e => { e with rin := poke e.rin 40 (ofLanes fun _ => 0x40800000) })) 0 = some 0x40000000 := by
  decide +kernel

/-! ### Witnesses: states and operands that meet the hypotheses of the statements -/

/-- A machine with a byte of HBM whose next step fetches ADD x3, x1, x2. -/
def fetching : State := { quiet with hbm := [(3, 7)] }.withFetchWord 32 0x04611000

/-- The fetch has been taken from the agenda. -/
def fetched : State := { fetching with agenda := [], cur := evFrame 0 }

theorem wit_StepKeepsMemoryInvariant : MemoryInv fetching ∧ nexts (step fetching) (fun _ => true) = true := by
  exact ⟨⟨by decide +kernel, by decide +kernel, by decide +kernel⟩, by decide +kernel⟩

/-- The stores of each coach, of the husks (none) and of the tables. -/
theorem wit_StepKeepsStoresInvariant : StoresInv fetching ∧ (fetching.coach 0).sq.code ≠ [] ∧
    nexts (step fetching) (fun _ => true) = true := by
  refine ⟨⟨?_, ?_, ?_⟩, by decide +kernel, by decide +kernel⟩
  · unfold Coach.storesWf
    decide +kernel
  · have h : fetching.hub.husks = [] := rfl
    rw [h]
    exact fun _ h => absurd h (List.not_mem_nil)
  · decide +kernel

theorem wit_StepStopsOnlyWithoutPower :
    (match step { quiet with plat := { quiet.plat with powered := false } } with
     | .fault _ => true
     | _ => false) = true := by decide +kernel

theorem wit_StepRunsAgendaOperation : ({ busy with agenda := [.op (evFrame 0) (.add 3 1 2)] } : State).agenda =
    .op (evFrame 0) (.add 3 1 2) :: [] := rfl

theorem wit_FetchRunsDecodedInstruction : fetching.agenda = [.fetch 0] ∧
    (match judge fetched 0 with
     | .issue b l path =>
       (match (State.issueBundle fetched 0 b l path).takeOps 0 with
        | ((_, i) :: _, _) => decide (i = .add 3 1 2)
        | _ => false)
     | _ => false) = true := by decide +kernel

theorem wit_BundleIssues :
    (match judge fetched 0 with
     | .issue b l path => decide ((Slot.s0, Instr.add 3 1 2) ∈ l) && decide (gangSlot .s0 = none) &&
         onPath (headOp l) (syllable b 14) path .s0 && decide (headOp l = none)
     | _ => false) = true := by decide +kernel

theorem wit_DecodeOfEncode : (Instr.add 31 31 31).cls = some .scalar ∧ (Instr.add 31 31 31).wf = true ∧ Slot.s1 ∈ slotsOf .scalar ∧
    encode (.add 31 31 31) ≠ 0 := by decide +kernel

theorem wit_EncodeOfDecode : decodeSlot .s1 0x04611000 = .ok (some (.add 3 1 2)) := by decide +kernel

/-- Two results for x5 land in one ic: the later bundle's stays (R160). -/
theorem wit_ResultsSetOutAndLand :
    (let s := (busySq fun q => { q with x := q.x.set 5 1 })
     let s1 := { s with cur := { s.cur with seq := 9 } }.result 0 0 0 (.xr 5 70)
     let s2 := { s1 with cur := { s1.cur with seq := 4 } }.result 0 0 0 (.xr 5 60)
     nexts (exec .resultLanding s2) (fun t => decide (xread (t.coach 0).sq 5 = 70) && decide (xread (t.coach 0).sq 31 = 0))) = true ∧
    (5 : BitVec 5) ≠ 0 ∧ (31 : BitVec 5) ≠ 0 ∧ (15 : BitVec 4) ≠ 0 ∧ (7 : BitVec 3) ≠ busy.cur.coach := by decide +kernel

theorem wit_MultiplyHalves : ∀ i ∈ [Instr.mul 31 1 2, .mulh 31 1 2, .mulhu 31 1 2], (encode i).extractLsb' 21 5 = 31 := by decide +kernel

/-- CSET of c1 = 1 and c2 = 0 under every named LOP, in the order of the statement (R229). -/
theorem wit_ConditionTruthTable :
    [0x0, 0xF, 0x1, 0x4, 0xD, 0x6, 0x7, 0x8, 0x9, 0xA, 0x3, 0xC, 0xE].map (fun l : BitVec 4 =>
      (sentOut (exec (.cset 15 1 2 l) (busySq fun q => { q with c := 0b10 }))).map (·.2)) =
    [false, true, false, true, true, true, true, false, false, false, false, true, true].map fun v => some (Dest.cr 15 v) := by
  decide +kernel

theorem wit_ScalarResults :
    [Instr.add 31 1 2, .sub 0 1 2, .and 3 1 2, .or 3 1 2, .xor 3 1 2, .andn 3 1 2, .shl 3 1 2, .shr 3 1 2, .sar 3 1 2, .min 3 1 2,
      .max 3 1 2, .minu 3 1 2, .maxu 3 1 2, .clz 3 1, .popc 3 1, .sel 3 1 2 0, .addi 3 1 0x8000, .andi 3 1 0xFFFF, .ori 3 1 1,
      .xori 3 1 1, .shli 3 1 63, .shri 3 1 63, .sari 3 1 63, .liw 3 3, .lid 3 1, .mbr 3 15].all
      (fun i => (scalarSpec (withXs (-1) 64) i).isSome) = true ∧
    scalarSpec (withXs (-1) 64) (.sar 3 1 2) = some (3, 1, -1) := by decide +kernel

theorem wit_ConditionResults : (List.range 8).map (fun k => condSpec (withXs (-1) 1) (.cmp 15 1 (BitVec.ofNat 3 k) 2)) =
    [false, true, true, false, false, true, true, false].map (fun v => some (15, v)) ∧
    condSpec (withXs (-1) 1) (.cmpi 0 1 0 0xFFFF) = some (0, true) ∧ condSpec busy (.cset 1 0 2 0x4) = some (1, true) := by
  decide +kernel

/-- A coach with two bytes in its scalar store. -/
def stored : Coach := { busy.coach 0 with sq := { (busy.coach 0).sq with ss := [(0, 1), (262143, 2)] } }

/-- The effective address wraps at 2^18 and is aligned down; bytes on either side stay (R230). -/
theorem wit_LoadsAndStores : canon stored.sq.ss = true ∧ eaSpec (withXs 0x40000 5 |> fun s => xv s 1) 0x1FFF 8 = 262136 ∧
    262135 < 262136 ∧ 262136 + 8 ≤ 262144 ∧ 7 < 8 ∧
    peek (stored.landDest (.ss 262136 8 0xAA00000000000000)).sq.ss 262143 = 0xAA ∧
    peek (stored.landDest (.ss 262136 8 0xAA00000000000000)).sq.ss 0 = 1 := by decide +kernel

theorem wit_MailboxAndLaneMoves : 5#4 ∈ ((busySq fun q => { q with mbOut := [5] }).coach 0).sq.mbOut ∧ 5#4 ∉ (busy.coach 0).sq.mbOut ∧ (2#2).toNat ≤ 2 ∧ (27#5).toNat < 28 ∧ laneSent (exec (.mxv 1 2 30 63) (withXs 7 0)) 63 = some 7 ∧
    xrOf (exec (.mvx 3 0 1 63) (withVs 0x80000000 0)) = some (3, 0x80000000) ∧ xrOf (exec (.mvx 3 2 31 0) busy) = some (3, 0) := by
  decide +kernel

/-- A machine with a full return stack. -/
def nested : State := busySq fun q => { q with rstk := [16384, 2, 3, 4] }

theorem wit_SystemRegisterReads : (nested.coach nested.cur.master).sq.rstk.length ≤ 4 ∧
    [0x000, 0x001, 0x002, 0x003, 0x004, 0x005, 0x006, 0x010, 0x011, 0x018, 0x019, 0x01A, 0x01B, 0x020, 0x021, 0x022, 0x023, 0x024, 0x025, 0x026,
      0x028, 0x029, 0x02A, 0x02B, 0x030, 0x031, 0x043, 0x040, 0x041, 0x042].all (fun n => (sysSpec nested n).isSome) = true ∧ sysSpec nested 0x004 = some 0x24000 := by decide +kernel

theorem wit_SystemRegisterWrites :
    ((Instr.srset 1 0x025, sysRead (withXs 1 0) 0x025 ||| xv (withXs 1 0) 1) : Instr × Word) ∈
      [(Instr.srw 1 0x025, xv (withXs 1 0) 1), (.srset 1 0x025, sysRead (withXs 1 0) 0x025 ||| xv (withXs 1 0) 1),
       (.srclr 1 0x025, sysRead (withXs 1 0) 0x025 &&& ~~~xv (withXs 1 0) 1)] ∧
    0x043#12 ∈ [0x025#12, 0x026#12, 0x028#12, 0x029#12, 0x02A#12, 0x02B#12, 0x040#12, 0x043#12] ∧
    0x020#12 ∈ [0x020#12, 0x021#12, 0x022#12, 0x023#12] ∧ (quiet.coach 7).unit = none ∧
    (busy.coach 0).unit = some wholeUnit ∧ (0x023#12).toNat = 0x021 + Cl.c.group ∧ gangOk wholeUnit.gsize 0xF00000000 0 = true ∧
    (busy.coach 0).sq.gang = [] ∧ ((busy.coach 0).landDest (.sy 0x026 0x7F0000)).sq.padr = 0x400000 := by decide +kernel

theorem wit_AddressGenerators :
    ((Instr.agl 63 5 1 2, AgPart.level 5 ((xv busy 1).extractLsb' 0 16) ((xv busy 2).extractLsb' 0 14)) : Instr × AgPart) ∈
      [(Instr.agb 63 1, AgPart.base ((xv busy 1).extractLsb' 0 14)),
       (.agl 63 5 1 2, .level 5 ((xv busy 1).extractLsb' 0 16) ((xv busy 2).extractLsb' 0 14)),
       (.agp 63 1, .pad ((xv busy 1).extractLsb' 0 28)), (.agr 63, .zero)] ∧ (4 : Fin 6) < 5 ∧ (0 : Fin 6) ≠ 5 ∧
    (((AddrGen.reset.setup (.level 0 2 16383)).setup (.base 3)).step 0).line = 2 := by decide +kernel

theorem wit_JumpsCallsReturns : busy.cur.index ≤ 16383 ∧ (nested.coach nested.cur.master).sq.rstk = 16384 :: [2, 3, 4] ∧
    (busy.coach busy.cur.master).sq.rstk = [] ∧ (busy.coach busy.cur.master).sq.rstk.length < 4 ∧
    (busy.coach busy.cur.master).sq.loops = [] ∧ (busy.coach busy.cur.master).sq.inh = false ∧ (nested.coach nested.cur.master).sq.loops = [] ∧
    (nested.coach nested.cur.master).sq.inh = false ∧ ({ busy with cur := { busy.cur with index := 16384 } } : State).cur.index ≤ 16384 ∧
    nexts (exec (.ret 0 0 0 0) nested) (fun t => decide ((t.coach 0).sq.pc = 16384)) = true := by decide +kernel

/-- A TREE bundle at index 8 whose extension syllables give offsets and tests (R168). -/
def treed (ext : BitVec 128) : State := { busy with cur := { busy.cur with index := 8, ext := ext } }

/-- A chain whose first test holds, one whose last holds, one without; a fork both ways (R168, R169). -/
theorem wit_TreeTakesItsPath :
    (let chain := treed (0x00300000#128 <<< 96 ||| 0xFFFE)
     treeTestSpec chain 0 = true ∧ (8 : Int) + ((chain.cur.ext.extractLsb' 0 16).toInt) = (6 : Nat)) ∧
    (let last := treed (0x00304210#128 <<< 96)
     (last.cur.ext.extractLsb' 96 32).extractLsb' 20 2 = 3 ∧ treeTestSpec last 3 = true ∧ ∀ j < 3, treeTestSpec last j = false) ∧
    (let none := treed (0x00384210#128 <<< 96)
     (none.cur.ext.extractLsb' 96 32).extractLsb' 22 2 = 0 ∧ ∀ j ≤ 3, treeTestSpec none j = false) ∧
    (let fork := treed (0x00400000#128 <<< 96)
     ((fork.cur.ext.extractLsb' 96 32).extractLsb' 22 2) = 1 ∧ treeTestSpec fork 0 = true) ∧
    (let fork := treed (0x00400010#128 <<< 96)
     ((fork.cur.ext.extractLsb' 96 32).extractLsb' 22 2) = 1 ∧ treeTestSpec fork 0 = false) := by decide +kernel

/-- A machine inside two loops that end at bundle 9. -/
def looped (left : Nat) : State :=
  busySq fun q => { q with loops := [{ first := 7, last := 9, left := left, ys := true }, { first := 2, last := 9, left := 5, ys := false }],
                           preempt := some { hard := false, cancel := false, stamp := 0 } }

theorem wit_LoopsAndSequentialFlow :
    ((xv (withXs 1 0) 1).extractLsb' 0 32).toNat ≠ 0 ∧ ((xv (withXs 0x100000000 0) 1).extractLsb' 0 32).toNat = 0 ∧
    ((looped 2).coach 0).sq.loops.head?.map (·.last) = some (8 + 1 + 0) ∧
    (nexts (.next ((looped 2).goNext 9 0)) (fun t => decide ((t.coach 0).sq.pc = 7) && decide ((t.coach 0).sq.phase = .draining false))) = true ∧
    (nexts (.next ((looped 1).goNext 9 0)) (fun t => decide ((t.coach 0).sq.pc = 2) && decide ((t.coach 0).sq.loops.length = 1))) = true ∧
    (nexts (.next ((looped 2).goNext 8 0)) (fun t => decide ((t.coach 0).sq.pc = 9) && decide ((t.coach 0).sq.loops.length = 2))) = true := by
  decide +kernel

theorem wit_TrapBreakYieldExit : ((busySq fun q => { q with brk := true }).coach 0).sq.brk = true ∧ (busy.coach 0).sq.brk = false ∧
    (busy.coach 0).sq.preempt = none ∧ ((looped 2).coach 0).sq.preempt ≠ none ∧ ((looped 2).coach 0).sq.inh = false ∧
    ((busySq fun q => { q with inh := true }).coach 0).sq.inh = true := by decide +kernel

/-- A BSEL table at 0 with sizes 10 and 1000 (R219). -/
def bucketed (d : Word) : State :=
  busySq fun q => { q with x := q.x.set 4 d, ss := [(0, 10), (4, 0x20), (8, 0xE8), (9, 3), (12, 0x30)] }

theorem wit_BucketSelection :
    (∀ i < 2, (ssWord ((bucketed 10).coach 0).sq.ss (8 * i)).extractLsb' 0 32 = if i = 0 then 10#32 else 1000#32) ∧
    nexts (exec (.bsel 0 0 0 0 1 4) (bucketed 10)) (fun t => decide ((t.coach 0).sq.pc = 0x20)) = true ∧
    nexts (exec (.bsel 0 0 0 0 1 4) (bucketed 11)) (fun t => decide ((t.coach 0).sq.pc = 0x30)) = true ∧
    nexts (exec (.bsel 0 0 0 0 1 4) (bucketed 1001)) (fun t => decide ((t.coach 0).sq.pc = 1)) = true := by decide +kernel

theorem wit_VectorElementResults :
    [Instr.vadd 2 3 1 2 0 4 1, .vsub 2 3 1 2 0 0 0, .vmul 0 3 1 2 7 0 2, .vmax 2 3 1 2 0 0, .vmin 2 3 1 2 0 0, .vabs 2 3 1 0 0, .vneg 2 30 1 0 0,
      .viadd 2 3 1 2 0 1 1, .visub 2 3 1 2 0 0 1, .vimul 2 3 1 2 0 0 3, .vimulh 2 3 1 2 0 4, .vimax 2 3 1 2 0 1, .vimin 2 3 1 2 0 1,
      .viabs 2 3 1 0 1 1, .vshl 2 3 1 2 0 1 1, .vshr 2 3 1 2 0 1, .vsar 2 3 1 2 0 1, .vpopc 2 3 1 0 1, .vclz 2 3 1 0 1,
      .vfma 0 2 3 1 2 1 0 0].all (fun i => i.wf && (elementSpec (withVs 1 2) i).isSome) = true ∧
    (modified busy.cen busy.cl 2 0).getLsbD 63 = true ∧ fmtElems 1 = 2 := by decide +kernel

theorem wit_VectorLaneAndMaskResults :
    [Instr.vand 2 3 1 2 0, .vor 2 3 1 2 0, .vxor 2 3 1 2 0, .vandn 2 3 1 2 0, .vsel 2 3 1 2 7, .vmov 2 31 1 0, .vli 0 3 0 3, .vlcnt 2 3 0].all
      (fun i => (laneSpec (withVs 1 2) i).isSome) = true ∧
    [Instr.vfcmp 2 1 1 2 0 5 0, .vicmp 2 7 1 2 0 5 1, .vkop 2 1 0 7 8].all (fun i => (maskSpec (withVs 1 2) i).isSome) = true := by decide +kernel

theorem wit_VectorResultsLand : (27#5).toNat < 28 ∧ (0#5) ≠ 27#5 ∧ (7#3) ≠ 0#3 ∧
    (laneOf (vrd ((busy.coach 0).landDest (.vr .a 27 (laneMask 2) (ofLanes fun _ => 9))).en.va.v 27 0) 1).toNat = 9 ∧
    (laneOf (vrd ((busy.coach 0).landDest (.vr .a 27 (laneMask 2) (ofLanes fun _ => 9))).en.va.v 27 0) 0).toNat = 0 := by decide +kernel

theorem wit_ConversionResults :
    [Instr.vcvt 2 3 1 1 0 4 0 1, .vcvt 0 3 1 0 2 0 0 0, .vmxp 2 3 1 3 0 0 0, .vmxu 2 3 1 0 3 0 0 3].all
      (fun i => i.wf && (convertSpec (withVs 1 2) i).isSome) = true ∧ (Instr.vmxs 2 3 1 3 0).wf = true := by decide +kernel

theorem wit_SpecialFunctionResults :
    [Instr.vexp2 1 0, .vlog2 1 7, .vrcpe 1 0, .vrsqe 0 0, .vrcps 1 0 2 4, .vrsqs 1 0 2 0, .vsqrt 1 0 0, .fmov 7 0].all
      (fun i => (sfSpec busy i).isSome) = true ∧ canon (busy.coach 0).en.tables = true ∧ (Instr.ftbl 1 0 4 2 63).wf = true ∧
    tableHead busy.cen 63 = none := by decide +kernel

theorem wit_ScanResults :
    [Instr.psum 1 4 1 0, .pmax 0 0 1, .pmin 2 1 7, .psums 9 0 0 1 1, .pmaxs 10 1 7 0, .pmins 1 0 3 2].all
      (fun i => i.wf && (scanSpec i).isSome) = true ∧
    (let s := busyEn fun e => { e with rin := poke e.rin 41 (ofLanes fun l => if l = 5 ∨ l = 63 then 1 else 0) }
     ((List.range 64).filter fun l => laneOf (peek s.cen.rin 41) l ≠ 0) = [5, 63]) := by decide +kernel

/-- A machine whose A and B ports hold ones. -/
def firing : State :=
  busyEn fun e => { e with rin := poke (poke e.rin 0 1) 33 1, acc := [(0, 1)] }

theorem wit_MfireResults :
    (busy.coach 0).hasBlock 255 = true ∧ (quiet.coach 0).hasBlock 0 = false ∧
    (let lt := latchFor busy.cen 0
     (lt.extractLsb' 0 4).toNat ≠ 8 ∧ (lt.extractLsb' 4 4).toNat ≠ 8) ∧
    (walkFire busy.cen.mgeom 7).1 = 7 ∧ firing.forwards 0 0 = [] ∧ firing.cen.badAcc = [] ∧ firing.cen.softAcc = [] ∧ peek firing.cen.rin 33 ≠ 0 ∧ 33 < 34 := by
  decide +kernel

theorem wit_MatrixSetups :
    (let s := { (busyEn fun e => { e with latchQ := [(3, 1, 0x011), (5, 2, 0x022)] }) with cur := { busy.cur with bno := 2, seq := 3 } }
     s.cen.latchQ.Pairwise (fun p q => p.1 ≤ q.1) ∧ (∀ p ∈ s.cen.latchQ, p.1 < s.cur.bno + 4 ∧ p.2.1 < s.cur.seq) ∧
     nexts (exec (.mfmt 2 2 1) s) (fun t => decide (latchFor t.cen 5 = 0x022) && decide (latchFor t.cen 6 = 0x122))) ∧
    busy.cen.mgeom.getLsbD 10 = false ∧ (0 : Nat) ≤ (0#8).toNat := by decide +kernel

theorem wit_DrainReadsEightRows : busy.cen.mgeom.getLsbD 9 = false ∧ busy.blockAwaited 0 255 = false ∧ busy.cen.badAcc = [] ∧ busy.cen.softAcc = [] := by
  decide +kernel

/-- A machine with a tile descriptor of M = N = K = 64 and one route in its list (R290). -/
def tiled (first : BitVec 8) : State :=
  busySq fun q => { q with ss := [(1, first), (2, 1), (4, 4), (5, 0x40), (8, 1)] }

theorem wit_MtileIssuesItsTile :
    (∀ o ∈ (tiled 64).msq.items, o.id < (tiled 64).msq.nextItem) ∧
    checkTile 511 (descWords (tiled 64).msq.ss 0 3) = [] ∧ ((tiled 64).msq.items.filter fun i => i.coach = 0).length < 256 ∧
    checkTile 511 (descWords (busySq fun q => { q with ss := [(7, 1)] }).msq.ss 0 3) ≠ [] := by decide +kernel

theorem wit_NetworkStepsGenerators : (6#3).toNat ≤ 6 ∧ (0#3).toNat ≤ 6 ∧ (511#9) ≠ 0 := by decide +kernel

/-- A coach with read entry 1 delivering bank 0 to ports 0 and 53, and write entry 2 taking VOA into bank 47. -/
def routed : State :=
  busyEn fun e => { e with
    routesR := poke (poke (poke e.routesR 97 0x80) 98 1) 99 (1 <<< (64 * 21 + 63)),
    routesW := poke (poke e.routesW 75 (0x80 <<< (8 * 47))) 77 (1 <<< (64 * 15 + 63)) }

theorem wit_RoutesMoveLanes :
    (let k := routed.coach 0
     let img := k.en.routeLine false 1
     let iw := k.en.routeLine true 2
     (enableBits img false 0).getLsbD 0 = true ∧ readSource img 0 / 64 = 0 ∧ (enableBits img false 53).getLsbD 63 = true ∧
     readSource img (64 * 53 + 63) / 64 = 0 ∧ readPort k k.en.ovR img 0 = some (0, some (k.en.gen 0)) ∧ k.en.engq = [] ∧ k.en.badBank = [] ∧
     writePort k k.en.ovW iw 47 = some (0, BitVec.allOnes 64) ∧ (BitVec.allOnes 64).getLsbD 63 = true ∧
     (enableBits iw true 47).getLsbD 63 = true ∧ canon k.en.banks = true ∧ k.hasBank 47 = true ∧ (quiet.coach 0).hasBank 0 = false ∧
     bankKey 0 1 ≠ bankKey 0 0) := by decide +kernel

theorem wit_MemorySlotOperations : (busy.coach 0).en.badBank = [] ∧ (busy.coach 0).en.softBank = [] ∧ busy.cur.audit = false ∧ canon (busy.coach 0).en.full = true ∧
    (busy.coach 0).hasBank 47 = true ∧ (0#6) ≠ 47#6 ∧
    ((busy.coach 0).landDest (.full 47 16383 2)).fullBit 47 0 = true ∧ ((busy.coach 0).landDest (.full 47 16383 2)).fullBit 47 1 = false := by
  decide +kernel

/-- A route entry that switches now. -/
def switching : RouteSwitch := { due := 0, seq := 0, write := false, route := 511, img := [1, 2], item := none, cb := 0, oob := false }

theorem wit_RouteLoaderQueuesAndSwitches : busy.cur.audit = false ∧
    ((busyEn fun e => { e with switches := [switching] }).coach 0).en.switches = [switching] ∧ switching.item = none ∧
    switching.due ≤ busy.icNow ∧ switching.route ≠ 0 ∧ switching.write = false ∧ canon (busy.coach 0).en.routesR = true ∧
    (510#9) ≠ switching.route ∧ 49 < 50 := by decide +kernel

theorem wit_CommandsIssueItems :
    [Instr.dcopyLin 1 15 1 1 8 0, .dcopyStr 1 0 0 0 0 0, .dcopyNest 1 0 0 0 0 0, .dcopyPad 1 0 0 0 0 0, .dcopyView 1 0 0 0 0 0,
      .dcopyRem 1 0 0 0 0 0, .dcopyHost 1 0 0 0 0 0, .put 1 0 0 0 0, .hgath 1 0 0 0 0 3, .hredSum 1 0 0 0 0 0 0, .hredMax 1 0 0 0 0 0 0,
      .hredMin 1 0 0 0 0 0 0, .hcvt 1 0 0 0 0, .hatomAdd 1 0 0 0 0 0, .hatomMax 1 0 0 0 0 0, .hatomMin 1 0 0 0 0 0, .hatomXchg 1 0 0 0 0 0,
      .hatomCas 1 0 0 0 0 0, .hatomAddFp32 1 0 0 0 0, .hatomMaxFp32 1 0 0 0 0, .hatomMinFp32 1 0 0 0 0, .probeUnpin 1 0 0 0 0,
      .probeR 1 0 0 0 0, .probeW 1 0 0 0 0, .probeRw 1 0 0 0 0, .fence 0 0, .fenceSc 0 7, .vsync 0, .enq 1 0 0 0 0, .cload 1 0 0 0 0,
      .rsolve 1 0 0 0 0 0 3].all (fun i => (commandSpec i).isSome && decide (i ≠ .mtile 1 0 0)) = true ∧ 7 < 8 := by decide +kernel

theorem wit_TokensCountPosts :
    (let q := { (busy.coach 0).sq with tokOps := [.add 5 0xFFFFFF false, .set 5 (some 2) true, .add 5 1 false] }
     (q.takePosts.tok[5].count = 2 ∧ q.takePosts.tok[5].err = true)) ∧ (syllable (Sys2Proof.Machine.bundleOf .h 0x00800000) 0).getLsbD 23 = true := by
  decide +kernel

/-! ### Witnesses: traps, contexts, launches -/

/-- A unit in a handler that has set one result aside, discarding or not; one operation is still to execute. -/
def handling (disc : Bool) : State :=
  let r : Result := { due := 3, seq := 2, syl := 1, flags := 0, again := false, tile := false, dest := .xr 5 7 }
  let h : Held := { queue := [(0, r)], skew := [], hitch := [], loader := [], switches := [], loops := [], loopBuf := [], latch := [], bno := 0, gang := [], audit := [] }
  let s := busySq fun q => { q with inh := true, held := some h, disc := disc, epc := 16384 }
  s.onEn 0 fun e => { e with skew := [{ due := 20, path := 0, frame := evFrame 0, op := .fmov 1 0 }] }

/-- The same machine at the ic of its return. -/
def returning (disc : Bool) : State :=
  let s := (handling disc).onSq 0 fun q => { q with back := some 21 }
  (s.onEn 0 fun e => { e with skew := [] }).onCoach 0 fun k => { k with ic := 21 }

theorem wit_TrapEntrySavesState : (busy.coach 0).unit = some wholeUnit ∧
    nexts (exec (.trapEntry 0 0x02 0 7) busy) (fun t => decide ((t.coach 0).sq.earg = 7)) = true := by decide +kernel

theorem wit_ReturnFromTrapRestores :
    nexts (exec (.rtt 0 0 0 0) (handling false)) (fun t => decide ((t.coach 0).sq.earliest = 21) && decide ((t.coach 0).sq.back = some 21)) = true ∧
    ((returning false).coach 0).sq.held.isSome = true ∧ ((returning false).coach 0).sq.back = some 21 ∧ ((returning false).coach 0).sq.inh = true ∧
    ((returning false).coach 0).sq.disc = false ∧ ((returning true).coach 0).sq.disc = true ∧ (0 : BitVec 3) ∈ (returning false).members 0 ∧
    21 ≤ ((returning false).coach 0).ic ∧ (let t := (returning false).comeBack 0
      (t.coach 0).sq.pc = 16384 ∧ (t.coach 0).sq.inh = false ∧ (t.coach 0).en.inflight.map (·.due) = [24]) := by decide +kernel

theorem wit_FatalCausesEndContexts : (Instr.stallWatchdogExpiry = .stallWatchdogExpiry ∧ (0 : BitVec 3) = busy.cur.coach) ∧
    (busy.coach 0).unit = some wholeUnit ∧ (busy.coach 0).sq.phase = .running ∧ busy.plat.events.length < 256 ∧
    ((busySq fun q => { q with phase := .dead 0x21 }).coach 0).sq.phase = .dead 0x21 ∧
    (busy.coach 0).hasBank (BitVec.ofNat 6 (786431 / 16384)) = true := by decide +kernel

/-- A unit under a request that is cancelled. -/
def asked (cancel : Bool) (ph : Phase) : State :=
  busySq fun q => { q with phase := ph, preempt := some { hard := false, cancel := cancel, stamp := 0 } }

theorem wit_PreemptionRequests : (busy.coach 0).unit = some wholeUnit ∧ (busy.coach 0).sq.preempt = none ∧
    (busy.coach 0).sq.phase ≠ .exited ∧ ((asked true .exited).coach 0).sq.phase = .exited ∧
    ((asked true (.pinning true)).coach 0).sq.phase = .pinning true ∧ ((asked false .running).coach 0).sq.preempt.isSome = true ∧
    ((asked false (.draining true)).coach 0).sq.phase = .draining true ∧ busy.cur.coach = 0 := by decide +kernel

/-- Page tables of job 0 at 0x1000: DVA 0 leads to HBM at 0x40000000 (1 GB), 0x40000000 to the second tier at 0x20000 and
0x40010000 to HBM at 0x30000 (64 KB each). -/
def paged (s : State) : State :=
  let s := { s with hub := { s.hub with jobs := [(0, { hb := 0, hl := 0, ho := 0, root := 0x1000 })] } }
  ([(0x1000, 0x2001), (0x2000, 0x3001), (0x3000, 0x4000000F), (0x3008, 0x4001), (0x4000, 0x5001), (0x5000, 0x2001F), (0x5008, 0x3000F)] :
    List (Nat × Nat)).foldl (fun s p => s.hbmPut p.1 8 p.2) s

/-- What a husk of coach 0 holds. -/
def aHusk : Husk := { unit := wholeUnit, hard := true, bad := false, order := 0, saved := [busy.coach 0], image := [] }

/-- A machine with a husk whose code image stands in HBM. -/
def husked : State := let s := paged quiet
  { s with hub := { s.hub with husks := [aHusk] } }

theorem wit_HusksSaveAndResume : (busy.coach busy.cur.coach).unit = some wholeUnit ∧ (busy.coach 0).sq.preempt = none ∧
    (busy.coach 0).en.banks = [] ∧ (busy.members 0)[0]? = some 0 ∧ ((asked true .running).coach 0).sq.preempt.isSome = true ∧
    husked.hub.husks.find? (fun h => h.unit.ctx = 0 && h.unit.master = 0) = some aHusk ∧ aHusk.bad = false ∧ aHusk.saved.length = 1 ∧
    husked.badHbm = [] ∧ husked.softHbm = [] ∧
    ∀ i < 16 * (wholeUnit.klen + 1), inHbm (husked.hubPlace 0 ((wholeUnit.kaddr.toNat + 4 * i) % 2 ^ 56) true false) = true := by decide +kernel

/-- A launch of queue 0, slot 0, of one unit. -/
def aLaunch : Launch :=
  { queue := 0, slot := 0, gid := 0, job := 0, words := BitVec.ofNat 512 (2 ^ 112), ranges := [], began := false, next := 0, gone := 0,
    exited := 0, failed := 0, cancelledN := 0, first := 0, refused := false, uncounted := false, cancelled := false, complete := false }

/-- A machine with a launch, its level entries, queue 0 enabled with one ticket, coach 0's islands on and dispatch started;
the record of slot 0 names PLACE 1, that of slot 1 is all zero. -/
def queued (l : Launch) : State :=
  let s := paged quiet
  let r : QueueRegs := { s.hub.queues[0] with ctl := BitVec.ofNat 26 (4 + 2 ^ 5 + 2 ^ 25) }
  let h := { s.hub with
    levels := poke s.hub.levels (graphKey 0) (BitVec.ofNat 128 (2 ^ 76)), queues := s.hub.queues.set 0 r, launches := [l], run := true }
  let p := { s.plat with islands := (s.plat.islands.set 0 2).set 8 2 }
  ({ s with hub := h, plat := p } : State).hbmPut (0x40000000 + 14) 1 1

/-- A unit of that launch runs on coach 0. -/
def launched (l : Launch) : State := (queued l).onCoach 0 fun k => { k with unit := some wholeUnit }

/-- With a status area at DVA 0x1000. -/
def withStatus (l : Launch) : Launch := { l with words := l.words ||| BitVec.ofNat 512 (0x1000 * 2 ^ 448) }

theorem wit_LaunchesRetire : ((launched aLaunch).coach 0).unit = some wholeUnit ∧ (launched aLaunch).hub.launch 0 0 = some aLaunch ∧
    aLaunch.fld 448 56 = 0 ∧ (withStatus aLaunch).fld 448 56 ≠ 0 ∧ (launched (withStatus aLaunch)).hub.launch 0 0 = some (withStatus aLaunch) := by
  decide +kernel

/-- The record of a slot, as the hub reads it. -/
def recordOf (s : State) (slot : BitVec 32) : Option (List Lane) := (s.hubRead 0 ((s.hub.queue 0).slotAddr slot) 16).1

theorem wit_LaunchesBegin : aLaunch.began = false ∧ aLaunch.complete = false ∧
    (match recordOf (queued aLaunch) 0 with
     | some w => (let l1 : Launch := { aLaunch with began := true, words := BitVec.ofNat 512 (natOfLanes w) }
        decide (l1.fld 320 56 = 0) && !l1.bad (queued aLaunch).hub)
     | none => false) = true ∧
    (match recordOf (queued { aLaunch with slot := 1 }) 1 with
     | some w => (let l1 : Launch := { aLaunch with slot := 1, began := true, words := BitVec.ofNat 512 (natOfLanes w) }
        decide (l1.fld 320 56 = 0) && l1.bad (queued aLaunch).hub)
     | none => false) = true := by decide +kernel

/-- Where the record of slot 0 stands. -/
def recordAt : Nat := (queued aLaunch).hub.queue 0 |>.slotAddr 0

theorem record_in_hbm :
    ((List.range 16).all fun i => inHbm ((queued aLaunch).hubPlace 0 ((recordAt + 4 * i) % 2 ^ 56) true false)) = true ∧ recordAt < 2 ^ 56 := by
  decide +kernel

theorem queued_is_clean : (queued aLaunch).clean := ⟨by decide +kernel, by decide +kernel, by decide +kernel, by decide +kernel, by decide +kernel⟩

theorem wit_LaunchesRecordReadAlone : (queued aLaunch).hubRead 0 recordAt 16 = (recordOf (queued aLaunch) 0, queued aLaunch) := by
  have h := (queued aLaunch).hubWords_of_hbm 0 16 recordAt record_in_hbm.2
    fun i hi => List.all_eq_true.mp record_in_hbm.1 i (List.mem_range.mpr hi)
  have h2 : ((queued aLaunch).hubRead 0 recordAt 16).2 = queued aLaunch := by
    unfold State.hubRead
    rw [State.countWalks_of_clean queued_is_clean]
    split
    · next e =>
      rw [e] at h
      simp only at h
      subst h
      rw [State.readOk_of_clean queued_is_clean]
    · next e => rw [e] at h; exact h
  exact Prod.ext (by unfold recordOf recordAt; exact Eq.refl _) h2

/-- A launch whose one unit has retired. -/
def spent : Launch := { aLaunch with began := true, next := 1, gone := 1, exited := 1 }

theorem wit_LaunchesComplete : (queued spent).hub.launch 0 0 = some spent ∧ spent.spent = true ∧ spent.complete = false ∧
    (queued spent).viewLog = [] ∧ spent.fld 448 56 = 0 ∧ ((queued spent).completion spent).1 = true ∧
    ((queued spent).hub.launches.find? fun o => o.queue = 0) = some spent ∧
    (let l := withStatus spent
     let w := (queued l).hubWriteBytes 0 (l.fld 448 56) 32 1
     w.1 = true ∧ (w.2.completion l).1 = true ∧ (w.2.completion l).2.hub = (queued l).hub) := by decide +kernel

theorem wit_LaunchesCompletionLeaves : ((queued spent).completion spent).2 = queued spent := by
  unfold State.completion
  rw [if_neg (by decide +kernel), if_neg (by decide +kernel)]

/-- The same launch taken for dispatch, without and with a husk of it. -/
def drawing (hs : List Husk) : State :=
  let s := queued { aLaunch with began := true }
  { s with hub := { s.hub with husks := hs } }

theorem wit_LaunchesDraw :
    (match (drawing []).drawPlace with
     | some (0, 0, [(0, _, .unit 0)]) => true
     | _ => false) = true ∧
    (match (drawing [aHusk]).drawPlace with
     | some (0, 0, [(0, _, .husk 0)]) => true
     | _ => false) = true ∧
    ((drawing [aHusk]).hub.queue 0).deficit.toNat < 1024 ∧ 0 < ((drawing []).hub.queue 0).tickets := by decide +kernel

theorem wit_SchedulerWrites :
    (let r := (queued aLaunch).hub.queue 0
     4 ≤ r.lsize ∧ r.lsize ≤ 16 ∧ ((16 : BitVec 32) - r.head).toNat ≤ 2 ^ r.lsize ∧ ((16 : BitVec 32) - r.tail).toNat ≤ 2 ^ r.lsize) ∧
    ¬ (4 ≤ (quiet.hub.queue 0).lsize) ∧ quiet.hub.cancelBusy = false ∧ (0x3 : Word).extractLsb' 52 12 = 0 ∧
    aLaunch.complete = false ∧ jobKey 0 ∈ (queued aLaunch).hub.chain aLaunch.gid.toNat ∧
    (0x1 : Word).getLsbD 6 = false ∧ (0x1 : Word).extractLsb' 0 2 ≠ quiet.hub.mode ∧ (0x0 : Word).extractLsb' 0 2 = quiet.hub.mode ∧
    (0x3 : Word).extractLsb' 0 2 = 3 ∧ quiet.hub.modeBusy = false ∧ quiet.contexts = [] ∧ quiet.dispatchIdle = true ∧
    (queued aLaunch).hub.run = true := by decide +kernel

/-- A parked PROBE of coach 0 and the fault record of its page. -/
def anItem : Item :=
  { id := 3, major := 1, sub := 1, tok := 63, acq := false, rel := false, scope := 0, desc := [0, 0], coach := 0, member := 0, targets := [0],
    hnd := false, phase := .fault, parked := false, acqDone := false, relDone := false, begun := false, todo := [], out := [], pieces := 0,
    wrote := false, status := 0, lasting := false, subc := 0, addr := 0, flags := 0, oob := false, allow := none, aux := [], stamp := 0 }

/-- A machine with one item on coach 0. -/
def holding (it : Item) : State := busySq fun q => { q with items := [it] }

/-- The fault record of that item's page, denied or not. -/
def faulted (denied : Bool) : State :=
  let s := holding anItem
  { s with hub := { s.hub with fbrecs := [{ idx := 0, page := 0, ctx := 0, acc := probeAcc anItem, gen := 0, cause := 1, denied := denied }] } }

theorem wit_PagesFaultBuffer : (1 : Word).getLsbD 0 = true ∧ (0 : Word).getLsbD 0 = false ∧ ((faulted true).coach 0).unit = some wholeUnit ∧
    ((faulted true).coach 0).sq.phase = .running ∧ ((faulted true).coach 0).sq.items[0]? = some anItem ∧ anItem.phase = .fault ∧
    (faulted true).hub.deniedFor anItem.faultPage wholeUnit.ctx (probeAcc anItem) = some 1 ∧
    (faulted false).hub.deniedFor anItem.faultPage wholeUnit.ctx (probeAcc anItem) = none := by decide +kernel

/-- Pages on the move: one out of the tier in expansion, one of each kind in migration. -/
def movingPages : State :=
  let s := paged quiet
  { s with hub := { s.hub with
    expanding := [{ page := 0x40000000, job := 0, dest := 0x50000, size := 16, part := none }],
    moving := [{ page := 0x40000000, job := 0, dest := 0x50000, size := 16, part := none }, { page := 0x40010000, job := 0, dest := 0x60000, size := 16, part := none }],
    compressed := [{ page := 0x70000, hurt := false }] } }

/-- Kind and size of the leaf that a walk finds. -/
def leafAt (s : State) (a : Nat) : Option (Nat × Nat × Nat) :=
  match s.walk (s.hub.job 0).root.toNat a with
  | .ok l => some (l.kind, l.size, l.tgt)
  | .error _ => none

theorem wit_PagesMove : (movingPages.hub.expanding.find? fun m => m.page = 0x40000000).isSome = true ∧
    leafAt movingPages 0x40000000 = some (1, 16, 0x20000) ∧ leafAt movingPages 0x40010000 = some (0, 16, 0x30000) ∧
    (movingPages.hub.moving.find? fun m => m.page = 0x40010000).isSome = true ∧
    (movingPages.hub.moving.find? fun m => m.page = 0x40000000).isSome = true ∧
    movingPages.hub.hurtAt 0x20000 = false ∧
    ({ movingPages.hub with compressed := [{ page := 0x20000, hurt := true }] } : Hub).hurtAt 0x20000 = true ∧ movingPages.hub.compressedAt 0x7FFFC = some { page := 0x70000, hurt := false } ∧ movingPages.hub.compressedAt 0x6FFFC = none ∧
    Memory.wf movingPages.tier = true := by decide +kernel

/-- A machine whose stack 0 the engine owns. -/
def owned (rel : Bool) (beats : Nat) : State :=
  { quiet with hub := { quiet.hub with stkref := quiet.hub.stkref.set 0 { owner := true, takes := 1, rel := rel, beats := beats, missed := 0 } } }

/-- A machine at a time far after the last pod beat, sourcing beats or not. -/
def late (src : Bool) : State := { quiet with now := 100000 * 9, fab := { quiet.fab with bsrc := src } }

theorem wit_RefreshAndBeats : (quiet.hub.stk 0).owner = false ∧ ((owned true 3).hub.stk 0).owner = true ∧ ((owned false 3).hub.stk 0).rel = false ∧
    ((owned true 3).hub.stk 0).beats < 4 ∧ 4 ≤ ((owned false 4).hub.stk 0).beats ∧ (512 : Nat) / 512 ≠ 511 / 512 ∧ (0x10000 : Word).getLsbD 16 = true ∧ quiet.plat.events.length < 256 ∧
    ((owned true 3).hub.stk 1).missed = 0 ∧
    18432 ≤ (late true).lastPackageBeat - (late true).fab.lastBeat ∧ (late false).fab.blost = false ∧
    73728 ≤ (late false).lastPackageBeat - (late false).fab.lastBeat ∧ quiet.fab.evF.length < 256 ∧
    (quiet.hub.dbeat.extractLsb' 16 48 ++ (1 : BitVec 16)).toNat > quiet.hub.dbeat.toNat ∧
    ((quiet.fab.ports[0].armed = false ∧ ({ quiet.fab.ports[0] with armed := true } : Port).csw.toNat ≤ 1)) := by decide +kernel

/-! ### Witnesses: hosts, items, the fabric, the platform -/

/-- A request of queue pair 3 of port 0 under key 5. -/
def aReq (va : Word) : RdmaReq := { port := 0, qp := 3, ecn := true, rkey := 5, va := va }

/-- A key for job 0 that permits everything, registers among it (R360). -/
def aKey : BitVec 45 := BitVec.ofNat 45 (5 + 2 ^ 40 + 2 ^ 41 + 2 ^ 42 + 2 ^ 43 + 2 ^ 44)

/-- A machine with that key, page tables, port 0 up and a unit of job 0 on coach 0. -/
def served : State :=
  let s := paged busy
  { s with fab := { s.fab with keys := s.fab.keys.set 63 aKey }, plat := { s.plat with ethUp := 1 } }

/-- Whether a word is reached in HBM. -/
def reached (a : Nat) (rd wr : Bool) : Bool :=
  match served.reach (keyJob aKey) a rd wr with
  | .here (.hbm _) => true
  | _ => false

theorem wit_HostRequests : served.plat.ethUp.getLsbD (aReq 0).port.toNat = true ∧ quiet.plat.ethUp.getLsbD 3 = false ∧
    served.pairBusy (aReq 0) = false ∧ ({ served with timers := [(9, 0, Instr.rdmaReadRegister (aReq 0) 8)] } : State).pairBusy (aReq 0) = true ∧
    (served.badHbm = [] ∧ served.softHbm = [] ∧ served.badTier = [] ∧ served.badPut = [] ∧ served.badHost = []) ∧ served.mayPost 0 3 = true ∧
    ({ served with fab := { served.fab with rates := [(0, 3, 100, 9)] } } : State).mayPost 0 3 = false ∧ 0 < served.fab.rate 0 3 ∧
    ({ served.fab with rates := [(0, 3, 0, 0)] } : Fabric).rate 0 3 = 0 ∧ served.fab.keyFor 5 = some aKey ∧ served.fab.keyFor 6 = none ∧ keyWr aKey = true ∧ keyRd aKey = true ∧ keyAtom aKey = true ∧ keyReg aKey = true ∧
    ((wordsOver 0x3FFFFFFE 2).all fun w => reached w false true) = true ∧ ((wordsOver 0x3FFFFFFF 1).all fun w => reached w true false) = true ∧
    wordsOver 0x3FFFFFFE 2 = [0x3FFFFFFC] ∧ reached 8 true true = true ∧ reached 12 true true = true ∧
    (let va : Word := 0x0100000000000000 ||| BitVec.ofNat 64 (47 * 2 ^ 22 + 16383 * 2 ^ 8 + 255)
     (va.extractLsb' 56 8).toNat = 1 ∧ va.extractLsb' 31 25 = 0 ∧ served.accepts (va.extractLsb' 28 3) (va.extractLsb' 22 6) (keyJob aKey) = true) ∧
    (let va : Word := 0x0200000000000078
     (va.extractLsb' 56 8).toNat = 2 ∧ va.extractLsb' 10 46 = 0 ∧ va.extractLsb' 0 3 = 0 ∧ (served.coach (va.extractLsb' 7 3)).unit = some wholeUnit ∧
       wholeUnit.job = keyJob aKey) ∧
    (let va : Word := 0x030000000000F018
     (va.extractLsb' 56 8).toNat = 3 ∧ va.extractLsb' 20 36 = 0 ∧ (va.extractLsb' 0 20).toNat % 8 = 0) := by decide +kernel

/-- A machine whose coach 0 has one route entry to switch for that item. -/
def solving (oob : Bool) : State :=
  (holding anItem).onEn 0 fun e => { e with
    switches := [{ due := 0, seq := 0, write := true, route := 511, img := [1], item := some (8 * anItem.id + 0), cb := 15, oob := oob }] }

theorem wit_ItemsEnd : (holding anItem).item 0 3 = some anItem ∧ canon ((holding anItem).coach 0).sq.ss = true ∧ anItem.status = 0 ∧
    anItem.flags = 0 ∧ (holding { anItem with status := 10 }).item 0 3 = some { anItem with status := 10 } ∧
    0x3F800 + 32 * anItem.tok.toNat + 32 = 2 ^ 18 ∧
    ((solving true).coach 0).en.switches.length = 1 ∧ (∀ e : BitVec 3, e ≠ 0 → ((solving true).coach e).en.switches = []) ∧
    canon ((solving true).coach 0).en.routesR = true ∧ canon ((solving true).coach 0).en.routesW = true ∧ (511 : BitVec 9) ≠ 0 ∧
    (solving false).item 0 3 = some anItem ∧
    (let it := { anItem with phase := .running, out := [0, 1] }
     (holding it).item 0 3 = some it ∧ it.out.contains 0 = true ∧ it.out.contains 2 = false ∧ it.phase ≠ .failed) ∧
    (holding anItem).solverFree 0 = true ∧ ((holding anItem).onEn 0 fun e => { e with solverAt := some 0 }).solverFree 0 = false ∧
    (let it := { anItem with phase := .drained 0, scope := 5, begun := true }
     (holding it).item 0 3 = some it ∧ ¬ (it.scope.toNat ≤ 4) ∧ it.phase = .drained 0) ∧
    (let it := { anItem with phase := .holding }
     (holding it).item 0 3 = some it ∧ it.phase = .holding) ∧ (holding anItem).fab.evF.length < 256 := by decide +kernel

/-- A PUT line of this package's own for bank 47 of a coach. -/
def aLine (c : BitVec 3) : PutLine :=
  { spkg := 0, scoach := 0, item := 3, key := 0, job := 0, here := true, coach := c, bank := 47, line := 16383, data := 1 }

/-- An engine write that sets its full bit. -/
def aWrite : EngWrite := { bank := 47, line := 16383, mask := 1, v := 1, port := 19, full := true, item := none, key := 0, n := 0, put := none, early := 0 }

/-- A peer's request for two words at a DVA. -/
def aPeer (dva : BitVec 56) (write : Bool) : RemoteReq :=
  { spkg := 9, scoach := 0, item := 3, key := 0, job := 0, write := write, short := false, dva := dva, words := 2, data := [1, 2] }

/-- A tile of one firing, before its route and after its last firing. -/
def aTile (next : Nat) : Tile :=
  { item := 3, seq := 0, blk0 := 0, m := 1, n := 1, k := 1, ord := false, padsrc := 0, list := [], clr := false, latch := 0x033, base := 0,
    next := next, fired := [], stopped := false }

/-- A machine with that tile and its item, at the ic in which a finished tile posts when it has no firings left. -/
def tiling (next ic : Nat) : State :=
  ((holding { anItem with phase := .running }).onEn 0 fun e => { e with tiles := [aTile next] }).onCoach 0 fun k => { k with ic := ic }

theorem wit_DataArrive : served.accepts 0 47 0 = true ∧ served.accepts 7 47 0 = false ∧ (aLine 7).spkg = served.fab.pkgid ∧
    ((busyEn fun e => { e with engq := [aWrite] }).coach 0).en.engq = [aWrite] ∧ (busy.coach 0).en.inflight = [] ∧ aWrite.item = none ∧
    (aPeer 0 true).spkg ≠ served.fab.pkgid ∧ (match served.peerPlaces 0 0x80000000 true 2 with
     | .error (.fail 7 0, a) => decide (a = 0x80000000)
     | _ => false) = true ∧
    (match ({ served with hub := { served.hub with expanding := [{ page := 0, job := 0, dest := 0, size := 16, part := none }] } } : State).peerPlaces 0 0 true 2 with
     | .error (.wait, a) => decide (a = 0)
     | _ => false) = true ∧
    (match served.peerPlaces 0 0x3FFFFFF8 true 2 with
     | .ok ps => ps.all fun p => match p.1 with
       | .hbm _ => true
       | _ => false
     | .error _ => false) = true ∧ served.badHbm = [] ∧ served.softHbm = [] ∧
    ((busyEn fun e => { e with hitch := [{ due := 0, seq := 0, port := 3, mask := 1, v := 1 }] }).coach 0).en.hitch.length = 1 ∧
    canon (busy.coach 0).en.oport = true ∧
    ((tiling 0 0).coach 0).en.tiles = [aTile 0] ∧ (aTile 0).next < (aTile 0).total ∧ ((tiling 0 0).coach ((tiling 0 0).masterOf 0)).sq.stopping = false ∧
    (aTile 0).base + (aTile 0).next = ((tiling 0 0).coach 0).ic ∧
    (aTile 1).next = (aTile 1).total ∧ ((tiling 1 14).coach 0).ic = (aTile 1).postAt ∧
    (tiling 1 14).item 0 (aTile 1).item = some { anItem with phase := .running } := by decide +kernel

/-- A flit of no content, SEQ 1 and ACK 0. -/
def idleFlit : Line := BitVec.ofNat 2048 (natOf (flitBytes 0 0 1 0))

set_option maxRecDepth 1000000 in
theorem wit_FlitGood : (match flitOpen idleFlit with
    | some (h, _, seq, ack, diff) => decide (h.extractLsb' 0 4 = 0) && decide (seq = 1) && decide (ack = 0) && diff.isEmpty
    | none => false) = true := by decide +kernel

set_option maxRecDepth 1000000 in
theorem wit_FlitBad : (flitOpen (BitVec.ofNat 2048 (2 ^ 200 - 1))).isNone = true := by decide +kernel

/-- An identity message kept for a repetition, with the number of NAKs it has met. -/
def sentFlit (naks : Nat) : SentFlit := { seq := 7, head := 0, wait := 0, msg := .idle, naks := naks, src := 8 }

/-- A machine whose port 7 stands in a state, laneset 0 up with a flit sent. -/
def linked (st : BitVec 3) (naks : Nat) (up : Bool) (relock : Option Nat) : State :=
  quiet.onPort 7 fun o => { o with st := st }.onLane 0 fun k => { k with up := up, sent := [sentFlit naks], relock := relock }

theorem wit_LanesetsReceive : quiet.plat.powered = true ∧ ((linked 2 0 true none).port 7).st = 2 ∧
    (((linked 2 0 true none).port 7).lane 0).nakking = false ∧ (((linked 2 0 true none).port 7).lane 0).rxseq = 0 ∧
    (((linked 2 0 true none).port 7).lane 0).switches = [] ∧
    (((linked 2 2 true none).port 7).lane 0).sent.find? (fun f => f.seq = 7) = some (sentFlit 2) ∧ (sentFlit 2).naks < 3 ∧
    (((linked 2 3 true none).port 7).lane 0).sent.find? (fun f => f.seq = 7) = some (sentFlit 3) ∧ 3 ≤ (sentFlit 3).naks ∧
    (let o := ((linked 2 3 true none).onPort 7 fun o => o.onLane 1 fun k => { k with up := true }).port 7
     (o.lane 0).up = true ∧ (o.lane 1).up = true ∧ (1 : BitVec 3) ≠ 0) ∧
    (∀ j : BitVec 3, j ≠ 0 → (((linked 2 3 true none).port 7).lane j).up = false) ∧
    (((linked 2 0 false (some 4)).port 7).lane 0).relock = some 4 ∧ (((linked 2 0 true none).port 7).lane 0).relock ≠ some 4 ∧
    ((((linked 2 0 false (some 4)).port 7).lane 0).sent.filter fun f => isPiece f.msg) = [] ∧
    ((linked 2 0 false (some 4)).port 7).ups = [] ∧ ((linked 2 0 true (some 4)).port 7).ups ≠ [] ∧
    (((linked 2 0 true none).port 7).lane 0).carrier 63 ≠ 67 ∧ ((linked 1 0 false none).port 7).st = 1 ∧
    ((linked 1 0 false none).port 7).peerPkg = 0 ∧ ((linked 1 0 false none).port 7).peerPort ≠ 7 ∧ ((linked 6 0 false none).port 7).st = 6 ∧
    quiet.fab.evF.length < 256 := by decide +kernel

/-- Whether a port of a machine is in the state that a control bit needs. -/
theorem wit_PortsAndCalendars : ([0, 1, 2, 3, 4, 6].all fun st => decide (((linked st 0 true none).port 7).st = st)) = true ∧
    (quiet.port 7).nsm = 0 ∧ ({ quiet.port 7 with acal := 0x3F } : Port).nsm ≠ 0 ∧ ({ quiet.port 7 with armed := true } : Port).armed = true ∧
    (quiet.port 7).armed = false ∧ ((quiet.port 7).lane 7).carried 63 = some 63 ∧ ((quiet.port 7).lane 7).spare = some 64 ∧
    ((quiet.port 7).lane 7).switches = [] ∧ canon quiet.fab.routes = true ∧ (67#7).toNat < 68 ∧ quiet.fab.evF.length < 255 := by decide +kernel

/-- A machine that is ready, with a key set, no floor fused and a first event of each kind queued. -/
def managed : State :=
  { quiet with plat := { quiet.plat with step := 0xFF, mkey := 7, minsvn := 0, events := [(1, 2, 3, 4)] },
               fab := { quiet.fab with evF := [5], evM := [6] } }

/-- A datagram of an OP, sealed with that key. -/
def sealed (op : BitVec 8) (off : Word) (n : Nat) : Datagram :=
  let m : Datagram := { seq := 1, op := op, offset := off, payload := List.replicate n 1, tag := 0 }
  { m with tag := Config.kmac256 7 (datagramBytes m) }

theorem sealed_is_heard (op : BitVec 8) (off : Word) (n : Nat) : managed.plat.drops { sealed op off n with op := op } = false := by
  have h : managed.plat.lastSeq = none := rfl
  have h2 : managed.plat.mkey = 7 := rfl
  simp [Platform.drops, sealed, datagramBytes, h, h2]

theorem wit_RegistersAndManagement : (0xFFFFF : BitVec 20).toNat % 8 ≠ 0 ∧ managed.fab.evF = [5] ∧ managed.fab.evM = [6] ∧ quiet.fab.evF = [] ∧
    managed.plat.events = [(1, 2, 3, 4)] ∧ canon managed.plat.errors = true ∧ managed.plat.step = 0xFF ∧ managed.plat.mkey ≠ 0 ∧
    0xFFFF8 < 2 ^ 20 ∧ 0xFFFF8 % 8 = 0 ∧ canon managed.plat.flash = true ∧ managed.plat.minsvn.toNat ≤ 1 ∧ (0 = 0 ∨ 8 < (0 : Nat)) ∧
    8 < (9#8).toNat := by decide +kernel

theorem wit_RequestsAreHeard : (∀ op ∈ [1#8, 2, 3, 4, 5, 6, 7, 8, 0, 9], managed.plat.drops { sealed op 8 8 with op := op } = false) ∧
    (sealed 8 8 32).payload.length = 32 ∧ (sealed 7 8 4).payload.length = 4 ∧ (sealed 9 8 8).op = 9 :=
  ⟨fun op _ => sealed_is_heard op 8 8, by simp [sealed], by simp [sealed], rfl⟩

/-- A machine with a hot die, and one whose power is capped. -/
def warmed : State := { quiet with plat := { quiet.plat with hot := [25], capped := true } }

theorem wit_PowerAndResets : (25 : BitVec 5) ∉ quiet.plat.hot ∧ (25 : BitVec 5) ∈ warmed.plat.hot ∧ quiet.plat.events.length < 256 ∧
    quiet.plat.pcap.toNat < (2601#12).toNat ∧ (2600#12).toNat ≤ quiet.plat.pcap.toNat ∧ quiet.plat.gated = [] ∧ quiet.plat.capped = false ∧
    warmed.plat.capped = true ∧ (2550#12).toNat + 50 ≤ warmed.plat.pcap.toNat ∧ 16 ≤ (25 : Fin 26).val ∧
    ((busy.coach (BitVec.ofNat 3 (8 : Fin 26).val)).unit ≠ none) ∧ (busy.coach (BitVec.ofNat 3 (15 : Fin 26).val)).unit = none ∧
    quiet.viewLog = [] ∧ Instr.srstatClrWrite ∈ [Instr.warmReset, .srstatWarmWrite, .srstatClrWrite] ∧ canon quiet.plat.ring = true := by
  decide +kernel

/-! ### Witnesses: the pieces of items -/

/-- An item of coach 0 under way: its opcode, descriptor and what it still has to do. -/
def doing (maj : BitVec 6) (sub : BitVec 11) (d : List Word) (todo : List Nat) : Item :=
  { anItem with major := maj, sub := sub, desc := d, phase := .running, todo := todo }

/-- A machine with that item, page tables, and a window over the first GiB; bank 47 and a word of HBM hold values. -/
def working (it : Item) : State :=
  let s := (paged busy).onSq 0 fun q => { q with items := [it], hb := 0, hl := 0x40000000, ho := 0 }
  (s.onEn 0 fun e => { e with banks := poke e.banks (bankKey 47 16383) 5 }).hbmPut 0x100 4 7

/-- Where an item reaches the word of a DVA in HBM. -/
def spotFor (s : State) (it : Item) (wr : Bool) (a : Nat) : Option Spot :=
  match s.itemPlace (s.coach 0).sq it.coach (s.ctxOf 0) a wr with
  | .ok (.hbm h) => spot s (.hbm h)
  | _ => none

theorem reachable_of_spotFor {s : State} {it : Item} {wr : Bool} {a : Nat} {x : Spot} (h : spotFor s it wr a = some x) :
    reachable s 0 it wr a x := by
  unfold spotFor at h
  split at h
  · next k e => exact ⟨.hbm k, e, rfl, h, fun _ _ h' => nomatch h'⟩
  · cases h

/-- A position of levels that count one each, whose run has `w` words. -/
theorem pos_of_run {form : Nat} {d : List Word} {n : Nat × Nat × Nat × Nat} {w : Nat} (h : isPos form d n)
    (hl : (levelSpec form d 1).1 = 1 ∧ (levelSpec form d 2).1 = 1 ∧ (levelSpec form d 3).1 = 1)
    (hw : ((dword d 2).extractLsb' 0 32).toNat = 4 * w) : ∃ k < w, n = (0, 0, 0, k) := by
  obtain ⟨a, b, c, k⟩ := n
  obtain ⟨h1, h2, h3, h4⟩ := h
  simp only [hl.1, hl.2.1, hl.2.2, hw] at h1 h2 h3 h4
  exact ⟨k, by omega, by simp; omega⟩

theorem working_is_calm (it : Item) : Calm (working it) := by
  have h : MemoryInv (working anItem) := ⟨by decide +kernel, by decide +kernel, by decide +kernel⟩
  exact ⟨rfl, rfl, rfl, rfl, rfl, rfl, h⟩

/-- The four bytes of HBM from an address on. -/
def lowWord (a : Nat) : Spot := (0, (List.range 4).map fun i => a + i)

/-- In the first 4 KiB every word is reached, in HBM at its own address. -/
theorem reach_low {it : Item} {wr : Bool} {a : Nat} (ha : a < 4093) (hc : it.coach = 0) :
    reachable (working it) 0 it wr a (lowWord a) := by
  refine reachable_of_spotFor ?_
  have h1 : (((working it).coach 0).sq.hb.toNat ≤ a && a < ((working it).coach 0).sq.hl.toNat) = true := by
    rw [show ((working it).coach 0).sq.hb.toNat = 0 from rfl, show ((working it).coach 0).sq.hl.toNat = 0x40000000 from rfl]
    simp; omega
  have h2 : ((working it).coach 0).sq.ho.toNat = 0 := rfl
  have h3 : (working it).hub.mode = 0 := rfl
  have h5 : ∀ i < 4, hbmKey (0#2) (a + i) = a + i := fun i hi => by
    simp [hbmKey, Nat.div_eq_of_lt (show a + i < 4096 by omega), Nat.div_eq_of_lt (show a + i < 32768 by omega),
      Nat.mod_eq_of_lt (show a + i < 4096 by omega)]
  simp only [spotFor, State.itemPlace, hc, h1, h2, if_true, Nat.add_zero, Nat.mod_eq_of_lt (show a < 2 ^ 56 by omega),
    if_neg (show ¬ 2 ^ 39 < a + 4 by omega), spot, lowWord, h3]
  simpa [List.range_succ] using ⟨h5 0 (by omega), h5 1 (by omega), h5 2 (by omega), h5 3 (by omega)⟩

/-- DCOPY lin of two words from 0x100 to bank 47, from the last lane of its last line on: in, out; to memory with its second word
a pad position that is filled. -/
def aCopy (dir : Nat) : Item :=
  if dir = 2 then doing 1 19 [0x100, 0x204, BitVec.ofNat 64 (8 + 4 * 2 ^ 32), 0, 0, 0, BitVec.ofNat 64 (9 + 2 ^ 32), 0] [2]
  else doing 1 (BitVec.ofNat 11 (8 * dir)) [0x100, BitVec.ofNat 64 (47 + 16383 * 2 ^ 8 + 63 * 2 ^ 22), 8] [16383, 0]

theorem wit_CopiesMoveWords_step : ({ working (aCopy 0) with agenda := [.service 0] } : State).agenda = [.service 0] ∧
    ((working (aCopy 0)).coach 0).sq.items = [aCopy 0] ∧ (aCopy 0).parked = false ∧ (aCopy 0).phase = .running ∧ (aCopy 0).sub ≠ subTile ∧
    (working (aCopy 0)).farTarget (aCopy 0) = none ∧ ((working (aCopy 0)).coach 0).sq.phase = .running ∧ (aCopy 0).todo ≠ [] := by decide +kernel

/-- In: the first word falls on lane 63 of line 16383, the second on lane 0 of line 0. -/
theorem wit_CopiesMoveWords_in : Calm (working (aCopy 0)) ∧ (aCopy 0).major = 1 ∧ (aCopy 0).sub = BitVec.ofNat 11 0 ∧
    (working (aCopy 0)).item 0 (aCopy 0).id = some (aCopy 0) ∧ posBank 0 (aCopy 0).desc (0, 0, 0, 0) = 64 * 16383 + 63 ∧
    posBank 0 (aCopy 0).desc (0, 0, 0, 1) = 0 ∧
    (∀ n, isPos 0 (aCopy 0).desc n → posBank 0 (aCopy 0).desc n / 64 = 16383 → posValid 0 (aCopy 0).desc n →
      ∃ x, posSpot (working (aCopy 0)) 0 (aCopy 0) 0 false n x) := by
  refine ⟨working_is_calm _, by decide, by decide, by decide +kernel, by decide +kernel, by decide +kernel, fun n h _ _ => ?_⟩
  obtain ⟨k, hk, rfl⟩ := pos_of_run (w := 2) h (by decide +kernel) (by decide +kernel)
  interval_cases k
  · exact ⟨_, by decide +kernel, reach_low (by decide +kernel) rfl⟩
  · exact ⟨_, by decide +kernel, reach_low (by decide +kernel) rfl⟩

theorem wit_CopiesMoveWords_out : Calm (working (aCopy 1)) ∧ (aCopy 1).major = 1 ∧ (aCopy 1).sub = BitVec.ofNat 11 (0 + 8) ∧
    (working (aCopy 1)).item 0 (aCopy 1).id = some (aCopy 1) ∧ quietBank ((working (aCopy 1)).coach 0) 47 ∧
    (∀ n, isPos 0 (aCopy 1).desc n → posBank 0 (aCopy 1).desc n / 64 = 16383 → ∃ x, posSpot (working (aCopy 1)) 0 (aCopy 1) 0 true n x) := by
  refine ⟨working_is_calm _, by decide, by decide, by decide +kernel, ?_, fun n h _ => ?_⟩
  · unfold quietBank
    decide +kernel
  obtain ⟨k, hk, rfl⟩ := pos_of_run (w := 2) h (by decide +kernel) (by decide +kernel)
  interval_cases k
  · exact ⟨_, by decide +kernel, reach_low (by decide +kernel) rfl⟩
  · exact ⟨_, by decide +kernel, reach_low (by decide +kernel) rfl⟩

theorem wit_CopiesMoveWords_mem : Calm (working (aCopy 2)) ∧ (aCopy 2).major = 1 ∧ (aCopy 2).sub = BitVec.ofNat 11 (3 + 16) ∧
    (working (aCopy 2)).item 0 (aCopy 2).id = some (aCopy 2) ∧ padFills (aCopy 2).desc ∧ isPos 3 (aCopy 2).desc (0, 0, 0, 1) ∧
    posValid 3 (aCopy 2).desc (0, 0, 0, 0) ∧ ¬ posValid 3 (aCopy 2).desc (0, 0, 0, 1) ∧ posDest 3 (aCopy 2).desc (0, 0, 0, 0) = 256 * 2 + 4 ∧
    (∀ n, isPos 3 (aCopy 2).desc n → (∃ x, posSpot (working (aCopy 2)) 0 (aCopy 2) 3 false n x) ∧
      ∃ x, reachable (working (aCopy 2)) 0 (aCopy 2) true (posDest 3 (aCopy 2).desc n).toNat x) := by
  refine ⟨working_is_calm _, by decide, by decide, by decide +kernel, by unfold padFills; decide +kernel, by unfold isPos; decide +kernel,
    by unfold posValid; decide +kernel, by unfold posValid; decide +kernel, by decide +kernel, fun n h => ?_⟩
  obtain ⟨k, hk, rfl⟩ := pos_of_run (w := 2) h (by decide +kernel) (by decide +kernel)
  interval_cases k
  · exact ⟨⟨_, by decide +kernel, reach_low (by decide +kernel) rfl⟩, _, reach_low (by decide +kernel) rfl⟩
  · exact ⟨⟨_, by decide +kernel, reach_low (by decide +kernel) rfl⟩, _, reach_low (by decide +kernel) rfl⟩

/-- A view copy of two FP32 elements through entry 0 of job 0, which covers 64 by 64 elements, or through entry 255, which is empty. -/
def aView (sub : BitVec 11) (v : Nat) : Item := doing 1 sub [BitVec.ofNat 64 v, 47, 0, BitVec.ofNat 64 (1 + 2 * 2 ^ 32)] [0]
def viewing (it : Item) : State := let s := working it
  { s with hub := { s.hub with views := poke s.hub.views 0 (BitVec.ofNat 64 (2 ^ 39 + 3 * 2 ^ 40)) } }

theorem wit_CopiesMoveWords_view : ((viewing (aView 4 0)).badHbm = [] ∧ (viewing (aView 4 0)).viewLog = []) ∧
    (viewing (aView 4 0)).item 0 (aView 4 0).id = some (aView 4 0) ∧ (viewing (aView 12 0)).item 0 (aView 12 0).id = some (aView 12 0) ∧
    viewCodes ((viewing (aView 4 0)).hub.viewEntry 0 0) (aView 4 0).desc = [] ∧
    viewCodes ((viewing (aView 4 255)).hub.viewEntry 0 255) (aView 4 255).desc = [4] ∧ vL ((viewing (aView 4 0)).hub.viewEntry 0 0) = 32 ∧
    ((viewing (aView 12 0)).coach 0).en.engq = [] ∧ 47#6 ∉ ((viewing (aView 12 0)).coach 0).en.readIc := by decide +kernel

/-- A run of two words at lanes 62 and 63 of a line, and one that comes back in two parts. -/
def aRun (sub : BitVec 11) : Item :=
  { doing 1 sub [0x100, BitVec.ofNat 64 (47 + 5 * 2 ^ 8 + 62 * 2 ^ 22), 8, 9] [0] with out := [0] }

theorem wit_CopiesMoveWords_rem : (working (aRun 13)).item 0 (aRun 13).id = some (aRun 13) ∧
    (64 * ((dword (aRun 13).desc 1).extractLsb' 8 14).toNat + ((dword (aRun 13).desc 1).extractLsb' 22 6).toNat + 32 * 0) % 1048576 % 64 + 2 ≤ 64 ∧
    (aRun 13).aux = [] ∧ ((working (aRun 13)).coach 0).en.engq = [] ∧ 0 ∈ (aRun 5).out ∧ [1#32, 2].length ≤ 32 ∧
    (dword (aRun 5).desc 3).extractLsb' 0 10 ≠ (working (aRun 5)).fab.pkgid := by decide +kernel

theorem wit_CopiesMoveWords_put : (let it := doing 2 0 [BitVec.ofNat 64 (2 ^ 10), 47] [0]
    (working it).item 0 it.id = some it ∧ (dword it.desc 0).getLsbD 10 = true ∧ quietBank ((working it).coach 0) 47) ∧
    (let it := doing 2 0 [9, 47] [0]
     (dword it.desc 0).getLsbD 10 = false ∧ (dword it.desc 0).extractLsb' 0 10 ≠ (working it).fab.pkgid) := by
  unfold quietBank
  decide +kernel

/-- HRED max of FP32 over two regions; HCVT of FP32 to BF16 and to scaled FP8; HATOM add of 64 bits; HGATH of two rows of one word. -/
def aReduce : Item := doing 4 1 [0x200, 0x100, BitVec.ofNat 64 (1 + 2 ^ 32), 0x10] [0]
def aConvert (mx : Bool) : Item :=
  doing 5 0 [0x200, 0x100, BitVec.ofNat 64 (32 + (if mx then 3 else 1) * 2 ^ 32 + mx.toNat * 2 ^ 44 + 127 * 2 ^ 46), 0x303] [0]
def anAtom : Item := doing 6 1 [0x100, 5, 0, BitVec.ofNat 64 (2 ^ 18 + 8)] [0]
def aGather : Item := { doing 3 3 [0x100, 47, BitVec.ofNat 64 (4 + 8 * 2 ^ 32), BitVec.ofNat 64 (47 + 2 ^ 20 + 2 * 2 ^ 36), 9] [0, 1, 4096] with
  aux := List.replicate 64 1 }

theorem wit_EnginesOnMemory_reduce : Calm (working aReduce) ∧ (working aReduce).item 0 aReduce.id = some aReduce ∧
    (aReduce.sub.extractLsb' 2 4).toNat ∈ [0, 1, 2, 9, 10, 11] ∧ (aReduce.sub.extractLsb' 0 2).toNat < 3 ∧
    (∀ k ≤ 1, reachable (working aReduce) 0 aReduce false (0x100 + k * 0x10 + 4 * 0) (lowWord (0x100 + k * 0x10 + 4 * 0))) ∧
    reachable (working aReduce) 0 aReduce true 0x200 (lowWord 0x200) :=
  ⟨working_is_calm _, by decide +kernel, by decide, by decide, fun k hk => reach_low (by omega) rfl, reach_low (a := 0x200) (by decide) rfl⟩

theorem wit_EnginesOnMemory_convert (mx : Bool) : Calm (working (aConvert mx)) ∧
    (working (aConvert mx)).item 0 (aConvert mx).id = some (aConvert mx) ∧ checkConvert (aConvert mx).desc = [] ∧
    (working (aConvert mx)).checkScales 0 0 (aConvert mx).desc = [] ∧
    (∀ a < 4093, ∀ wr, reachable (working (aConvert mx)) 0 (aConvert mx) wr a (lowWord a)) := by
  refine ⟨working_is_calm _, ?_, ?_, ?_, fun a ha wr => reach_low ha rfl⟩ <;> cases mx <;> decide +kernel

theorem wit_EnginesOnMemory_atom : Calm (working anAtom) ∧ (working anAtom).item 0 anAtom.id = some anAtom ∧
    canon ((working anAtom).coach 0).sq.ss = true ∧ anAtom.sub.toNat < 13 ∧
    (∀ k < 2, ∀ wr, reachable (working anAtom) 0 anAtom wr (0x100 + 4 * k) (lowWord (0x100 + 4 * k))) ∧ (0 : Nat) < 2 ∧
    (∀ j < 2, ∀ k < 2, j ≠ k → (lowWord (0x100 + 4 * j)).2.all (fun b => !(lowWord (0x100 + 4 * k)).2.contains b) = true) :=
  ⟨working_is_calm _, by decide +kernel, by decide +kernel, by decide, fun k hk wr => reach_low (by omega) rfl, by decide, by decide +kernel⟩

theorem wit_EnginesOnMemory_gather : Calm (working aGather) ∧ (working aGather).item 0 aGather.id = some aGather ∧
    64 * 0 + 64 ≤ aGather.aux.length ∧ quietBank ((working aGather).coach 0) 47 ∧ 1 ∈ aGather.todo ∧ 0 ∈ aGather.todo ∧
    rowSpec 3 ((aGather.aux.getD 1 0).extractLsb' 0 32).toInt 2 = some 1 ∧ rowSpec 3 2 2 = none ∧
    reachable (working aGather) 0 aGather false (0x100 + 1 * 8 + 4 * 0) (lowWord (0x100 + 1 * 8 + 4 * 0)) := by
  refine ⟨working_is_calm _, by decide +kernel, by decide +kernel, ?_, by decide, by decide, by decide +kernel, by decide, reach_low (by omega) rfl⟩
  unfold quietBank
  decide +kernel

/-- A PROBE for reading that stands at a DVA, and machines in which its walk finds a page, finds none, meets an error, or finds every
pin taken. -/
def aProbe (a : Nat) : Item := { doing 7 1 [BitVec.ofNat 64 a, 0x1000] [0] with aux := [BitVec.ofNat 64 a] }
def ringed (s : State) : State := { s with hub := { s.hub with fbctl := 0x14, fbbase := 0x100000 } }

theorem wit_ProbesEnqueuesCodeLoads_probe :
    (let it := aProbe 0
     let s := working it
     s.item 0 it.id = some it ∧ it.sub.extractLsb' 0 2 ≠ 0 ∧ ((s.walkFor (s.hub.job 0).root.toNat 0 true false).toOption.map fun l => (l.kind, l.size)) =
       some (0, 30) ∧ (s.coach 0).en.tlb.length < 4096 ∧ it.targets.Nodup ∧
     4096 ≤ (List.replicate 4096 (⟨1, 0, 16, true, true, 0, 0⟩ : Pin)).length ∧
     (∀ p ∈ List.replicate 4096 (⟨1, 0, 16, true, true, 0, 0⟩ : Pin), ¬ (p.ctx = 0 ∧ p.page = 0))) ∧
    (let it := aProbe 0x80000000
     let s := ringed (working it)
     s.item 0 it.id = some it ∧ s.walkFor (s.hub.job 0).root.toNat 0x80000000 true false = .error 1 ∧ s.hub.fbrecs = [] ∧
       s.hub.fbctl.getLsbD 4 = true ∧ (s.hub.fbctl.extractLsb' 0 4).toNat = 4 ∧ (s.hub.fbtail - s.hub.fbhead).toNat ≠ 2 ^ 4) ∧
    (let it := aProbe 0
     let s : State := { working it with badHbm := [(hbmKey 0 0x1000 / 4, true)] }
     s.walkFor (s.hub.job 0).root.toNat 0 true false = .error 5) := by
  refine ⟨⟨by decide +kernel, by decide, by decide +kernel, by decide +kernel, by decide, by rw [List.length_replicate], fun p hp => ?_⟩, ?_, by decide +kernel⟩
  · rw [List.eq_of_mem_replicate hp]
    decide
  · decide +kernel

/-- ENQ into queue 0 of job 0, and CLOAD of one bundle. -/
def anEnq : Item := { doing 13 0 [0, 0] [0] with aux := List.replicate 16 7 }
def enqueuing : State := let s := working anEnq
  { s with hub := { s.hub with queues := s.hub.queues.set 0 { s.hub.queues[0] with ctl := BitVec.ofNat 26 (4 + 2 ^ 25) } } }

theorem wit_ProbesEnqueuesCodeLoads_enqueue :
    (let r := enqueuing.hub.queue 0
     enqueuing.item 0 anEnq.id = some anEnq ∧ anEnq.aux.length = 16 ∧ r.job = enqueuing.jobOf 0 ∧ r.tailOk (r.tail + 1) = true ∧ r.en = true ∧
       r.slotAddr r.tail % 4 = 0 ∧ enqueuing.enqueueHeld 0 0 = false ∧ enqueuing.hub.compressed = [] ∧
       ((working anEnq).hub.queue 0).tailOk 1 = false) ∧
    Claims.inHbm enqueuing 0 0 128 true (fun i => 0x40000000 + 4 * i) := by
  refine ⟨by decide +kernel, fun i hi => ⟨0, ?_⟩⟩
  have h : ∀ i < 32, enqueuing.hubPlace 0 (4 * i) (!true) true = .ok (.hbm (0x40000000 + 4 * i), 0) := by decide +kernel
  have e := h i hi
  rwa [show (0 / 4 * 4 + 4 * i) % 2 ^ 56 = 4 * i by omega]

theorem wit_ProbesEnqueuesCodeLoads_load : (let it := doing 14 0 [0x100, 16383] [0]
    Calm (working it) ∧ (working it).item 0 it.id = some it ∧ canon ((working it).coach 0).sq.code = true ∧
    ∀ k < 16, reachable (working it) 0 it false (0x100 + 64 * 0 + 4 * k) (lowWord (0x100 + 64 * 0 + 4 * k))) :=
  ⟨working_is_calm _, by decide +kernel, by decide +kernel, fun k hk => reach_low (by omega) rfl⟩

/-- RSOLVE of two listed terminals at 4094, indices −1 and 0, over the one indexed terminal 4095, by template 1 into entry 2. -/
def aSolve (write : Bool) (mode : Nat) : Item :=
  { doing 15 (BitVec.ofNat 11 (mode + 4 * write.toNat)) [BitVec.ofNat 64 (2 + 2 ^ 9 + 47 * 2 ^ 18 + 4094 * 2 ^ 38 + 2 * 2 ^ 50), BitVec.ofNat 64 (4095 + 2 ^ 12)] [0] with
    aux := 0xFFFF :: List.replicate 63 0 }

theorem wit_SolverImages : checkSolve 511 (aSolve true 3).desc = [] ∧ (aSolve true 3).sub.getLsbD 2 = true ∧ (aSolve false 3).sub.getLsbD 2 = false ∧
    (working (aSolve true 3)).item 0 (aSolve true 3).id = some (aSolve true 3) ∧ 64 * 0 + 64 ≤ (aSolve true 3).aux.length ∧
    quietBank ((working (aSolve true 3)).coach 0) 47 ∧ (working (aSolve true 3)).solverFree 0 = true ∧ solveIndex (aSolve true 3) 0 = -1 ∧
    solveTarget (aSolve true 3) (-1) = none ∧ solveTarget (aSolve true 1) (-1) = some 4095 ∧ solveTarget (aSolve true 2) (-1) = some 4095 ∧
    solveOut (aSolve true 3) (-1) := by
  unfold quietBank solveOut
  decide +kernel

/-- In mode clamp both entries name terminal 4095: the second's source stands. -/
theorem wit_SolverRoutes : checkSolve 511 (aSolve true 1).desc = [] ∧ (aSolve true 1).sub.getLsbD 2 = true ∧ solveKeeps (aSolve true 1) 4095 1 := by
  refine ⟨by decide +kernel, by decide, by decide +kernel, by decide +kernel, fun o h h' => ?_⟩
  rw [show solveFcnt (aSolve true 1) = 2 by decide +kernel] at h
  omega

/-! ### Witnesses: numbers, completions, and what else the statements suppose -/

/-- One and a half spacings above zero lie halfway; a number between −0 and +0; a scale's range; an integer format's end. -/
theorem wit_RoundingRules : fpSpec 3 = (4, 3, -6, 448, 0x7F) ∧ decodeNum 3 0x7F = .nan ∧ decodeNum 0 0xFF800000 = .inf true ∧
    stepSpec 0 false (3 / 2) 0 = 2 ∧ stepSpec 4 true (5 / 2) 0 = 3 ∧ numLess (.fin true 0 0) (.fin false 0 5) ∧ ¬ numLess (.fin false 0 0) (.fin true 0 0) ∧
    numQ (.fin true 3 (-1)) = -3 / 2 ∧ ((2 : ℚ) ^ (0 : ℤ) ≤ |numQ (.fin true 3 (-1))| ∧ |numQ (.fin true 3 (-1))| < (2 : ℚ) ^ ((0 : ℤ) + 1)) ∧
    intSpec 13 = (-8, 7) := by
  refine ⟨rfl, by decide, by decide +kernel, by norm_num [stepSpec], by norm_num [stepSpec], ?_, ?_, by norm_num [numQ], ?_, rfl⟩ <;>
    norm_num [numLess, numQ]

/-- A firing that consumed three ics ago: its result to block 5 is on its way. -/
def forwarding : State :=
  let rows : List (BitVec 6 × Line × Line) := (List.range 64).map fun i => (BitVec.ofNat 6 i, BitVec.allOnes 2048, BitVec.ofNat 2048 i)
  (busyEn fun e => { e with inflight := [{ due := 12, seq := 1, syl := 8, flags := 0, again := false, tile := false, dest := .acc 5 rows (some 4) }] }).onCoach 0
    fun k => { k with ic := 7 }

/-- The three bases: +0.0 with ZA, what a block holds when nothing is on its way to it, and what the latest firing computed. -/
theorem wit_MfireResults_base : baseSpec busy 1 0 (fun _ _ => 0) ∧
    baseSpec busy 0 255 (fun i j => (laneOf (peek busy.cen.acc (64 * 255 + i)) j).toNat) ∧
    baseSpec forwarding 0 5 (fun i j => (laneOf (BitVec.ofNat 2048 i) j).toNat) := by
  refine ⟨.inl ⟨rfl, fun _ _ _ _ => rfl⟩, .inr (.inl ⟨rfl, ?_, rfl, rfl, fun _ _ _ _ => rfl⟩), .inr (.inr ⟨rfl, ?_⟩)⟩
  · rintro r rows t ⟨h | ⟨h, h1, _⟩, _⟩
    · rw [show (busy.coach busy.cur.coach).en.inflight = [] from rfl] at h
      cases h
    · rw [show (busy.coach (busy.masterOf busy.cur.coach)).sq.held = none from rfl] at h1
      cases h1
  · have hr : ∀ r rows t, firedSpec forwarding 5 r rows t → r ∈ (forwarding.coach 0).en.inflight ∧ t = 4 := by
      rintro r rows t ⟨h | ⟨h, h1, _⟩, h2, _⟩
      · refine ⟨h, ?_⟩
        have h' := List.mem_singleton.mp h
        subst h'
        exact ((by simpa using h2 : _ ∧ 4 = t).2).symm
      · rw [show (forwarding.coach (forwarding.masterOf forwarding.cur.coach)).sq.held = none from rfl] at h1
        cases h1
    refine ⟨_, _, 4, fun i => BitVec.ofNat 2048 i, ⟨.inl (List.mem_singleton.mpr rfl), rfl, by decide, by decide⟩, ?_, ?_, fun _ _ _ _ => rfl⟩
    · decide +kernel
    · intro r' rows' t' h
      exact .inl (List.mem_singleton.mp (hr r' rows' t' h).1)

/-- A table of two pieces over 0 to 2, with nodes 0, 1, 4 (R272). -/
def tabled : State :=
  busyEn fun e => { e with tables := poke e.tables (16 * 63) (ofLanes fun l =>
    if l = 1 then 0x3F800000 else if l = 2 then 2 else if l = 5 then 0x3F800000 else if l = 6 then 0x40800000 else 0) }

theorem wit_SpecialFunctionResults_table : tableSpec tabled.cen 63 ∧ ¬ tableSpec busy.cen 63 := by
  have h0 : decodeNum 0 (tword tabled.cen 63 0).toNat = .fin false 0 (-149) := by decide +kernel
  have h1 : decodeNum 0 (tword tabled.cen 63 1).toNat = .fin false 8388608 (-23) := by decide +kernel
  have h2 : (tword tabled.cen 63 2).toInt = 2 := by decide +kernel
  refine ⟨⟨⟨_, _, _, h0⟩, ⟨_, _, _, h1⟩, ?_, by omega, by omega⟩, fun h => ?_⟩
  · rw [h1]
    norm_num [numQ]
  · have h3 : (tword busy.cen 63 2).toInt = 0 := by decide +kernel
    have h4 := h.2.2.2.1
    omega

/-- The base of a pending cause that the handler met. -/
theorem wit_ReturnFromTrapRestores_cause :
    (let p : Pending := { cause := 0x04, member := 0, arg := 0, since := 20, hnd := true }
     let s := (returning false).onSq 0 fun q => { q with pending := [p] }
     (s.coach 0).sq.inh = true ∧ p ∈ (s.coach 0).sq.pending ∧ p.hnd = true ∧ (s.comeBack 0).coaches = s.coaches) ∧
    (∀ p ∈ ((returning false).coach 0).sq.pending, p.hnd = false) ∧ ((handling false).coach 0).ic < 21 ∧
    (((handling false).onSq 0 fun q => { q with back := some 21 }).coach 0).sq.back = some 21 := by decide +kernel

/-- An Ethernet window at DVA 0x80000000 whose queue pair a CNP has slowed. -/
def slowed (s : State) : State :=
  let s := s.hbmPut 0x3010 8 0x2F
  { s with fab := { s.fab with windows := poke (poke s.fab.windows 1 0x10000000000) 2 (BitVec.ofNat 64 (3 * 2 ^ 32 + 2 ^ 58)), rates := [(0, 3, 100, 9)] },
           plat := { s.plat with ethUp := 1 } }

/-- The status area, the completion target and the code of a unit behind that window, and free of it. -/
theorem wit_LaunchesRun_waits :
    (let l : Launch := { aLaunch with words := BitVec.ofNat 512 (0x80000000 * 2 ^ 448 + 2 ^ 440 + 0x80000000) }
     let s := slowed (launched { l with began := true, gone := 1 })
     s.statusHeld l 0 1 = true ∧ s.completionHeld l = true ∧ (slowed (drawing [])).statusHeld aLaunch 0 1 = false ∧
       s.dispatchHeld 0 (.unit 0) = true) ∧
    (launched aLaunch).statusHeld aLaunch 0 1 = false ∧ (queued spent).completionHeld spent = false ∧
    (drawing [aHusk]).dispatchHeld 0 (.husk 0) = false ∧ (drawing []).dispatchHeld 0 (.unit 0) = false ∧
    (queued aLaunch).hubHeld ((queued aLaunch).hub.queue 0).job (((queued aLaunch).hub.queue 0).slotAddr 0) 64 false = false ∧
    ((queued spent).hub.launches.filter fun o => o.queue = 0) = spent :: ([] ++ []) := by decide +kernel

/-- A launch whose action adds to a cell in HBM, and one whose action reads the one record that its list names. -/
def acting (kind : Nat) : Launch := { aLaunch with words := BitVec.ofNat 512 (kind * 2 ^ 440 + 2 ^ 442 + 0x100 * 2 ^ 384) }

theorem wit_CompletionsCountAndAct : canon (queued aLaunch).hub.levels = true ∧ passedTo (queued aLaunch).hub [0, 4096] (fun o => doneBy o = true) 0 ∧
    (peek (queued aLaunch).hub.levels 0).getLsbD 76 = true ∧
    (queued aLaunch).badHbm = [] ∧ (queued aLaunch).softHbm = [] ∧ (queued aLaunch).viewLog = [] ∧ Memory.wf (queued aLaunch).hbm = true ∧
    (acting 1).fld 440 2 = 1 ∧ (acting 2).fld 440 2 = 2 ∧ (acting 2).fld 442 6 = 1 ∧ (acting 1).fld 384 56 = 0x100 ∧
    (∀ wr : Bool, Claims.inHbm (queued aLaunch) 0 0x100 8 wr (fun i => 0x40000100 + 4 * i)) ∧
    (∀ wr : Bool, Claims.inHbm (queued aLaunch) 0 36 4 wr (fun _ => 0x40000024)) ∧
    (let s := (queued aLaunch).hbmPut 0x40000024 4 0x600
     cellOf s (fun _ => 0x40000024) 36 4 / 2 ^ 9 % 65536 = 3) := by
  refine ⟨by decide +kernel, ⟨0, rfl, fun j hj => absurd hj (Nat.not_lt_zero j)⟩, by decide +kernel, by decide +kernel, by decide +kernel,
    by decide +kernel, by decide +kernel, by decide +kernel, by decide +kernel, by decide +kernel, by decide +kernel, fun wr i hi => ⟨0, ?_⟩,
    fun wr i hi => ⟨0, ?_⟩, by decide +kernel⟩
  · have h : ∀ wr : Bool, ∀ i < 2, (queued aLaunch).hubPlace 0 (0x100 + 4 * i) (!wr) wr = .ok (.hbm (0x40000100 + 4 * i), 0) := by decide +kernel
    have e := h wr i (by omega)
    rwa [show (0x100 / 4 * 4 + 4 * i) % 2 ^ 56 = 0x100 + 4 * i by omega]
  · have h : ∀ wr : Bool, (queued aLaunch).hubPlace 0 36 (!wr) wr = .ok (.hbm 0x40000024, 0) := by decide +kernel
    rw [show (36 / 4 * 4 + 4 * i) % 2 ^ 56 = 36 by omega]
    exact h wr

/-- The moves of a machine whose page tables start at 0, where a job without a record has them. -/
def movingAlone : State :=
  { movingPages.hbmPut 0 8 0x2001 with hub := { movingPages.hub with jobs := [], moving := movingPages.hub.moving.drop 1 } }

/-- Whether the place kept for a move is free once the move is off the list, and whether its page may move. -/
def placeFree (s : State) (page : Nat) : Bool :=
  ({ s with hub := { s.hub with expanding := s.hub.expanding.filter fun e => e.page ≠ page, moving := s.hub.moving.filter fun e => e.page ≠ page } } : State).hpaFree
    (match (s.hub.expanding ++ s.hub.moving).find? fun e => e.page = page with | some m => m.dest | none => 0) 65536
def mayMove (s : State) (page : Nat) : Bool :=
  match s.walk (s.hub.job 0).root.toNat page with
  | .ok l => !s.pinnedLeaf l && !s.anchored l
  | .error _ => false

/-- The places kept for moves are free, and a page that a pin holds is not moved. -/
theorem wit_PagesAndFaultBuffer_moves :
    (placeFree movingAlone 0x40000000 && placeFree movingAlone 0x40010000 && mayMove movingAlone 0x40010000 && mayMove movingAlone 0x40000000 &&
      !mayMove (movingAlone.onEn 0 fun e => { e with tlb := [⟨0, 0x40010000, 16, true, true, 0, 0x30000⟩] }) 0x40010000) = true := by decide +kernel

/-- A DCOPY's waiting line, and a run behind an earlier one of the same coach and lane. -/
theorem wit_DataArrive_items :
    (let w : EngWrite := { aWrite with item := some (0, 3), key := 16383, n := 1 }
     let s := (working (aCopy 0)).onEn 0 fun e => { e with engq := [w] }
     (s.coach s.cur.coach).en.engq = [w] ∧ s.item 0 3 = some (aCopy 0) ∧ (aCopy 0).sub ≠ subTile ∧ (aCopy 0).major = majDcopy ∧ (aCopy 0).form ≠ 5) ∧
    (let s : State := { served with timers := [(9, 0, .remoteDcopyRequest (aPeer 0x100 false))] }
     s.behindRun { aPeer 0x104 true with item := 4 } = true ∧ s.behindRun { aPeer 0x2100 true with item := 4, scoach := 1 } = false) := by
  decide +kernel

/-- A machine whose lost laneset had not delivered one piece, of a source; laneset 1 is up. -/
def losing (src : Nat) (m : LinkMsg) : State :=
  ((holding { anItem with phase := .running, out := [0] }).onPort 7 fun o => o.onLane 0 fun k =>
    { k with relock := some 4, sent := [{ sentFlit 0 with msg := m, src := src }] }).onPort 7 fun o => o.onLane 1 fun k => { k with up := true }

theorem wit_LanesetsReceive_pieces :
    (let s := losing 8 (.remote (aPeer 0x100 true))
     ((s.port 7).lane 0).relock = some 4 ∧ (s.port 7).ups = [1] ∧ (((s.port 7).lane 0).sent.filter fun f => isPiece f.msg).map (·.src) = [8]) ∧
    (let s := losing 9 (.remote (aPeer 0x100 true))
     (((s.port 7).lane 0).sent.filter fun f => isPiece f.msg).map (fun f => (f.src, pieceItem f.msg)) = [(9, some (0, 3))] ∧
       (s.item 0 3).isSome = true ∧
       nexts (exec (.lanesetRelockTimeout 7 0 4) s) (fun t => decide (((t.item 0 3).map fun it => it.status) = some 7)) = true) ∧
    (let s := losing 9 (.ack 0 0 3 0 0 0)
     (((s.port 7).lane 0).sent.filter fun f => isPiece f.msg).map (fun f => pieceItem f.msg) = [none]) := by decide +kernel

/-- A step that MTILE's routes give takes effect only from its ic on. -/
theorem wit_NetworkStepsGenerators_pending : (∀ z ∈ busy.cen.inflight, ∀ g k, z.dest = .ag g (.step k) → busy.icNow < z.due) ∧
    (let s := busyEn fun e => { e with inflight := [{ due := 0, seq := 0, syl := 1, flags := 0, again := false, tile := true, dest := .ag 63 (.step 0) }] }
     nexts (exec (.networkSyllable 0 0 0 0 0 0 0) s) (fun t => decide ((t.coach 0).en.inflight = [])) = true) := by
  refine ⟨fun z h => ?_, by decide +kernel⟩
  rw [show busy.cen.inflight = [] from rfl] at h
  cases h

/-! ### Witnesses: clauses of gang slots, route sources, the route loader, draws, waits and caps -/

/-- Coach 0 is to issue FMOV, bound to member 0. -/
def ganging : State := { quiet.withBundle (Sys2Proof.Machine.bundleOf .f (encode (.fmov 1 0)).toNat) with agenda := [], cur := evFrame 0 }

theorem wit_BundleIssues_gang :
    (match judge ganging 0 with
     | .issue b l path => decide ((Slot.f, Instr.fmov 1 0) ∈ l) && decide (gangSlot .f = some 4) &&
         onPath (headOp l) (syllable b 14) path .f && !onMaster (.fmov 1 0)
     | _ => false) = true ∧ (ganging.members 0)[((ganging.coach 0).sq.gbind.extractLsb' 16 4).toNat]? = some 0 ∧
    (ganging.coach 0).sq.gang = [] := by decide +kernel

/-- Zeros are equal and not below one another; a NaN is unordered; numbers of both signs are ordered. -/
theorem wit_VectorResults_order : decodeNum 0 0x80000000 = .fin true 0 (-149) ∧ decodeNum 0 0 = .fin false 0 (-149) ∧
    decodeNum 0 0x7FC00000 = .nan ∧ decodeNum 0 0xFF800000 = .inf true ∧ fpRel 0 0 0x80000000 0 = true ∧ fpRel 0 2 0x80000000 0 = false ∧
    fpRel 0 2 0xFF800000 0xBF800000 = true ∧ orderSpec 2 (-1) 0 = true := by decide +kernel

/-- Port 0 of read entry 1 takes lane 5 of SB, which is the upper half of x2 (R24, R383). -/
theorem wit_RoutesMoveLanes_other :
    (let s := (withXs 7 (9 * 2 ^ 32)).onEn 0 fun e => { e with routesR := poke (poke e.routesR 73 3909) 98 1 }
     let img := (s.coach 0).en.routeLine false 1
     (enableBits img false 0).getLsbD 0 = true ∧ readSource img 0 = 64 * 61 + 5 ∧ presents s 0 (readSource img 0) = 9 ∧
       readSource img 1 = 0 ∧
       nexts (exec (.networkSyllable 1 0 0 0 0 0 0) s) (fun t => (t.coach 0).en.inflight.any fun z =>
         match z.dest with | .rin p m v => decide (p = 0 ∧ z.due = 4 ∧ laneOf m 0 = 0xFFFFFFFF ∧ laneOf v 0 = 9) | _ => false)) = true := by
  decide +kernel

/-- A write entry, and entry 0. -/
def switchingTo (r : BitVec 9) : RouteSwitch := { switching with write := true, route := r, img := List.replicate 26 (BitVec.allOnes 2048) }

/-- The loader under way: in its `i`-th line of a load or a save. -/
def loading (load write : Bool) (i : Nat) : State :=
  busyEn fun e => { e with loader := [({ load := load, write := write, route := 5, bank := 47, line := 16383, exec := 0, start := none, i := i, img := [], seq := 0 } : LoadOp)] }

theorem wit_RouteLoader_turns :
    ({ busy with agenda := [.loader 3] } : State).agenda = .loader 3 :: [] ∧ (busy.coach 3).en.loader = [] ∧
    ((switchingTo 0).due ≤ busy.icNow ∧ (switchingTo 0).item = none ∧ canon (busy.coach 0).en.routesW = true) ∧
    nexts (exec .routeLoadSwitch (busyEn fun e => { e with switches := [switchingTo 0] })) (fun t => (t.coach 0).en.routesW.isEmpty) = true ∧
    nexts (exec .routeLoadSwitch (busyEn fun e => { e with switches := [switchingTo 511] })) (fun t =>
      ((t.coach 0).en.routeLine true 511 23).extractLsb' 0 16 = 0xBFBF ∧ ((t.coach 0).en.routeLine true 511 23).extractLsb' 384 8 = 0) = true ∧
    (let t := (loading true false 49).loaderTurn 0
     (t.coach 0).en.loader = [] ∧ (t.coach 0).en.switches.map (fun w => (w.due, w.route)) = [(52, 5)]) ∧
    (let t := (loading true true 24).loaderTurn 0
     (t.coach 0).en.loader.map (fun o => (o.i, o.start)) = [(25, some 0)] ∧ (t.coach 0).en.switches = []) ∧
    (let t := (loading false true 0).loaderTurn 0
     (t.coach 0).en.loader.map (·.i) = [1] ∧ (t.coach 0).en.inflight.map (·.due) = [3]) ∧
    (let t := (loading false false 49).loaderTurn 0
     (t.coach 0).en.loader = [] ∧ (t.coach 0).en.inflight.map (·.due) = [3]) := by decide +kernel

/-- A FENCE, whose rule has no checks, and an HCVT whose descriptor fails two. -/
theorem wit_CommandsIssueItems_checks : checksSpec busy 8 0 [] = [] ∧ checksSpec busy 7 0 (List.replicate 8 0) = [] ∧
    (let codes := checksSpec busy 4 0 (List.replicate 8 (BitVec.allOnes 64))
     codes ≠ []) ∧ ((busy.coach 0).sq.items.filter fun o => o.coach = 0).length < 256 := by decide +kernel

/-- A queue whose deficit forces the draw, and one that leaves it to LSEED. -/
theorem wit_LaunchesRun_forced :
    (let s := drawing []
     let f : State := { s with hub := { s.hub with queues := s.hub.queues.set 0 { s.hub.queues[0] with deficit := 1024 } } }
     f.drawPlace = s.drawPlace ∧ f.drawPlace.isSome = true ∧ seedAfter f.hub 0 = f.hub.lseed ∧ seedAfter s.hub 0 ≠ s.hub.lseed ∧
       f.dispatchHeld 0 (.unit 0) = false ∧
       nexts (exec .lotteryDraw f) (fun t => decide (t.hub.lseed = f.hub.lseed ∧ (t.hub.queue 0).deficit = 0)) = true) := by decide +kernel

/-- Words of a moved page that could not be read, for good. -/
theorem wit_PagesAndFaultBuffer_lost :
    (let s : State := { movingPages with badTier := [(0x20000, true)], badHbm := [(0x30000, true)] }
     (∀ b ∈ s.badTier, b.2 = true) ∧ (∀ b ∈ s.badHbm, b.2 = true) ∧ Memory.wf s.hbm = true ∧ Memory.wf s.tier = true ∧ 0x50000 + 65536 ≤ 2 ^ 39) := by
  decide +kernel

/-- An ENQ whose slot's page is on the move waits, and so does one whose slot lies behind a slowed window. -/
theorem wit_ProbesEnqueuesCodeLoads_wait :
    (let s := { enqueuing with hub := { enqueuing.hub with moving := [{ page := 0, job := 0, dest := 0x80000000, size := 30, part := none }] } }
     s.enqueueHeld 0 0 = true ∧ s.item 0 anEnq.id = some anEnq) ∧
    (let s := slowed enqueuing
     let s := { s with hub := { s.hub with queues := s.hub.queues.set 0 { s.hub.queues[0] with base := 0x80000000 } } }
     s.enqueueHeld 0 0 = true) := by decide +kernel

/-- A cap below the power that stands, one 50 W above it, and one between. -/
theorem wit_PowerAndResets_cap :
    (let s : State := { quiet with plat := { quiet.plat with pmeas := 900 } }
     s.plat.gated = [] ∧ s.plat.capped = false ∧ s.plat.events.length < 256 ∧
       nexts (exec (.pcapWrite 899) s) (fun t => t.plat.capped) = true ∧ nexts (exec (.pcapWrite 900) s) (fun t => !t.plat.capped) = true) ∧
    (let s : State := { warmed with plat := { warmed.plat with pmeas := 900 } }
     s.plat.capped = true ∧ nexts (exec (.pcapWrite 950) s) (fun t => !t.plat.capped) = true ∧
       nexts (exec (.pcapWrite 949) s) (fun t => t.plat.capped) = true) := by decide +kernel

end Sys2Proof.Tests
end

/-! SUPPORT. The scalar selections, products, bit counts and truth tables of spec/14_control_scalar.md (R224 to R226, R229), and the
statements about them. -/

namespace Sys2Proof.Claims

open Sys2Proof Sys2Proof.Machine

/-! ### What a scalar operation reads and sets out -/

/-- The model's read of a scalar register is the one the statements speak of. -/
theorem xr_eq_xv (s : State) (r : BitVec 5) : s.xr r = xv s r := by
  unfold State.xr xread vrd xv
  rw [Vector.getElem?_eq_getElem r.isLt]
  rfl

/-- The model's read of a condition bit is the one the statements speak of. -/
theorem cread_eq_cv (s : State) (r : BitVec 4) : cread s.msq r = cv s r := by
  unfold cread cv
  by_cases h : r = 0
  · simp [h]
  · simp only [h, State.msq, if_false, decide_false, Bool.false_or]

/-- A condition bit reads one when it is c0 or stands at one. -/
theorem cv_eq_true_iff (s : State) (r : BitVec 4) :
    cv s r = true ↔ r = 0 ∨ (s.coach s.cur.master).sq.c.getLsbD r.toNat = true := by
  simp [cv]

theorem exec_sel (d a b : BitVec 5) (c : BitVec 4) (s : State) :
    exec (.sel d a b c) s = .next (s.resultX 1 d (if cv s c then xv s a else xv s b)) := by
  rw [← cread_eq_cv, ← xr_eq_xv, ← xr_eq_xv]
  rfl

theorem exec_mul (d a b : BitVec 5) (s : State) :
    exec (.mul d a b) s = .next (s.resultX 3 d (xv s a * xv s b)) := by
  rw [← xr_eq_xv, ← xr_eq_xv]
  rfl

theorem exec_mulh (d a b : BitVec 5) (s : State) :
    exec (.mulh d a b) s = .next (s.resultX 3 d (BitVec.ofInt 64 ((xv s a).toInt * (xv s b).toInt / 2 ^ 64))) := by
  rw [← xr_eq_xv, ← xr_eq_xv]
  rfl

theorem exec_mulhu (d a b : BitVec 5) (s : State) :
    exec (.mulhu d a b) s = .next (s.resultX 3 d (BitVec.ofNat 64 ((xv s a).toNat * (xv s b).toNat / 2 ^ 64))) := by
  rw [← xr_eq_xv, ← xr_eq_xv]
  rfl

theorem exec_clz (d a : BitVec 5) (s : State) :
    exec (.clz d a) s = .next (s.resultX 1 d (BitVec.ofNat 64 (clzWord (xv s a)))) := by
  rw [← xr_eq_xv]
  rfl

theorem exec_popc (d a : BitVec 5) (s : State) :
    exec (.popc d a) s = .next (s.resultX 1 d (BitVec.ofNat 64 (popWord (xv s a)))) := by
  rw [← xr_eq_xv]
  rfl

theorem exec_cset (d a b l : BitVec 4) (s : State) :
    exec (.cset d a b l) s = .next (s.resultC d (lopBit l (cv s a) (cv s b))) := by
  rw [← cread_eq_cv, ← cread_eq_cv]
  rfl

/-! ### The fields of the SR form (R194) -/

/-- XD, XA, XB and FN stand at bits 25:21, 20:16, 15:11 and 10:0. -/
theorem srForm_fields (op : BitVec 6) (d a b : BitVec 5) (fn : BitVec 11) :
    (op ++ d ++ a ++ b ++ fn : BitVec 32).extractLsb' 21 5 = d ∧
    (op ++ d ++ a ++ b ++ fn : BitVec 32).extractLsb' 16 5 = a ∧
    (op ++ d ++ a ++ b ++ fn : BitVec 32).extractLsb' 11 5 = b := by
  refine ⟨?_, ?_, ?_⟩ <;> simp [Laws.extract_hi, Laws.extract_lo]

/-- CLZ is of the SR form with XB and FN zero. -/
theorem encode_clz (d a : BitVec 5) : encode (.clz d a) = (14#6 ++ d ++ a ++ 0#5 ++ 0#11 : BitVec 32) :=
  (BitVec.append_assoc (x₁ := 14#6 ++ d ++ a) (x₂ := 0#5) (x₃ := 0#11)).symm

/-- POPC is of the SR form with XB and FN zero. -/
theorem encode_popc (d a : BitVec 5) : encode (.popc d a) = (15#6 ++ d ++ a ++ 0#5 ++ 0#11 : BitVec 32) :=
  (BitVec.append_assoc (x₁ := 15#6 ++ d ++ a) (x₂ := 0#5) (x₃ := 0#11)).symm

/-- SEL's CS is FN[10:7]. -/
theorem encode_sel_cs (d a b : BitVec 5) (c : BitVec 4) : (encode (.sel d a b c)).extractLsb' 7 4 = c := by
  change (19#6 ++ d ++ a ++ b ++ c ++ 0#7 : BitVec 32).extractLsb' 7 4 = c
  rw [Laws.extract_hi _ _ le_rfl, Laws.extract_lo _ _ le_rfl, BitVec.extractLsb'_eq_self]

/-! ### SEL (R226) -/

/-- Settles O12: SEL's result with the read of its condition bit spelt out. -/
theorem selectReadsCondition : Obligations.SelectReadsCondition := by
  intro d a b c s
  refine ⟨encode_sel_cs d a b c, ?_⟩
  simp only [exec_sel, State.resultX, cv_eq_true_iff]

/-! ### Halves of a product (R225) -/

/-- A field of an integer taken modulo 2^w, where the field lies below w: the integer shifted down to it. -/
theorem extractLsb'_ofInt {w lo n : Nat} (h : lo + n ≤ w) (z : Int) :
    (BitVec.ofInt w z).extractLsb' lo n = BitVec.ofInt n (z / 2 ^ lo) := by
  obtain ⟨k, rfl⟩ := Nat.exists_eq_add_of_le h
  have hsplit : z % 2 ^ (lo + n + k) = z + 2 ^ lo * (2 ^ n * (2 ^ k * -(z / 2 ^ (lo + n + k)))) := by
    rw [Int.emod_def]; ring
  have hfield : z % 2 ^ (lo + n + k) / 2 ^ lo % 2 ^ n = z / 2 ^ lo % 2 ^ n := by
    rw [hsplit, Int.add_mul_ediv_left _ _ (by positivity), Int.add_mul_emod_self_left]
  have hpos : 0 ≤ z % 2 ^ (lo + n + k) := Int.emod_nonneg _ (by positivity)
  apply BitVec.eq_of_toNat_eq
  rw [BitVec.extractLsb'_toNat, BitVec.toNat_ofInt, BitVec.toNat_ofInt, Nat.shiftRight_eq_div_pow]
  zify
  rw [← hfield, Int.toNat_of_nonneg hpos, Int.toNat_of_nonneg (Int.emod_nonneg _ (by positivity))]

/-- A field of a natural number taken modulo 2^w, where the field lies below w: the number shifted down to it. -/
theorem extractLsb'_ofNat {w lo n : Nat} (h : lo + n ≤ w) (x : Nat) :
    (BitVec.ofNat w x).extractLsb' lo n = BitVec.ofNat n (x / 2 ^ lo) := by
  have hz := extractLsb'_ofInt h x
  rwa [BitVec.ofInt_natCast, show ((x : Int) / 2 ^ lo) = ((x / 2 ^ lo : Nat) : Int) by push_cast; rfl, BitVec.ofInt_natCast] at hz

/-- The low half of the signed product is the product of the words. -/
theorem lowHalf_signed (x y : Word) : (BitVec.ofInt 128 (x.toInt * y.toInt)).extractLsb' 0 64 = x * y := by
  rw [extractLsb'_ofInt (by decide), pow_zero, Int.ediv_one, BitVec.ofInt_mul, BitVec.ofInt_toInt, BitVec.ofInt_toInt]

/-- The low half of the unsigned product is the product of the words. -/
theorem lowHalf_unsigned (x y : Word) : (BitVec.ofNat 128 (x.toNat * y.toNat)).extractLsb' 0 64 = x * y := by
  rw [extractLsb'_ofNat (by decide), pow_zero, Nat.div_one, BitVec.ofNat_mul, BitVec.ofNat_toNat, BitVec.ofNat_toNat,
    BitVec.setWidth_eq, BitVec.setWidth_eq]

/-- Settles O13: each half of the 128-bit product is the model's product or its quotient by 2^64. -/
theorem multiplyHalves : Obligations.MultiplyHalves := by
  intro d a b s
  refine ⟨?fields, ?mul, ?agree, ?mulh, ?mulhu⟩
  case fields =>
    simp only [List.forall_mem_cons]
    exact ⟨srForm_fields 16 d a b 0, srForm_fields 17 d a b 0, srForm_fields 18 d a b 0, List.forall_mem_nil _⟩
  case mul => rw [exec_mul, lowHalf_signed, State.resultX]
  case agree => rw [lowHalf_signed, lowHalf_unsigned]
  case mulh => rw [exec_mulh, extractLsb'_ofInt (by decide), State.resultX]
  case mulhu => rw [exec_mulhu, extractLsb'_ofNat (by decide), State.resultX]

/-! ### Leading zeros and ones (R224) -/

/-- The highest one bit of a word other than zero stands below bit 64. -/
theorem log2_lt_of_ne_zero {x : Word} (h : x ≠ 0) : x.toNat.log2 < 64 :=
  (Nat.log2_lt (BitVec.toNat_ne_iff_ne.mpr h)).mpr x.isLt

theorem clzWord_le (x : Word) : clzWord x ≤ 64 := by
  unfold clzWord
  split <;> omega

/-- Every bit above the highest one bit is zero. -/
theorem getLsbD_of_lt_clzWord {x : Word} {j : Nat} (hj : j < clzWord x) : x.getLsbD (63 - j) = false := by
  by_cases h : x = 0
  · simp [h]
  · rw [clzWord, if_neg h] at hj
    rw [← BitVec.testBit_toNat]
    apply Nat.testBit_lt_two_pow
    calc x.toNat < 2 ^ (x.toNat.log2 + 1) := Nat.lt_log2_self
      _ ≤ 2 ^ (63 - j) := Nat.pow_le_pow_right (by decide) (by omega)

/-- The bit after the leading zeros is the highest one bit. -/
theorem getLsbD_clzWord {x : Word} (hx : clzWord x < 64) : x.getLsbD (63 - clzWord x) = true := by
  have h : x ≠ 0 := by
    rintro rfl
    exact absurd hx (by decide)
  have hlog := log2_lt_of_ne_zero h
  rw [clzWord, if_neg h, show 63 - (63 - x.toNat.log2) = x.toNat.log2 by omega, ← BitVec.testBit_toNat]
  exact Nat.testBit_log2 (BitVec.toNat_ne_iff_ne.mpr h)

theorem popWord_le (x : Word) : popWord x ≤ 64 :=
  (List.length_filter_le _ _).trans List.length_range.le

/-- Settles O14: the counts are the model's, of which the lemmas above say what they count. -/
theorem leadingZerosAndOnes : Obligations.LeadingZerosAndOnes := by
  intro d a s
  refine ⟨?_, clzWord (xv s a), popWord (xv s a), clzWord_le _, popWord_le _, fun _ => getLsbD_of_lt_clzWord,
    getLsbD_clzWord, rfl, ?_, ?_⟩
  · simp only [List.forall_mem_cons, encode_clz, encode_popc]
    exact ⟨srForm_fields 14 d a 0 0, srForm_fields 15 d a 0 0, List.forall_mem_nil _⟩
  · rw [exec_clz, State.resultX]
  · rw [exec_popc, State.resultX]

/-! ### Truth tables (R229) -/

/-- The model's entry of a truth table stands at the index that the rule gives. -/
theorem lopBit_eq (l : BitVec 4) (x y : Bool) : lopBit l x y = l.getLsbD (2 * x.toNat + y.toNat) := by
  cases x <;> cases y <;> rfl

/-- The thirteen named truth tables, at each of their four entries. -/
theorem lopBit_named : ∀ x y : Bool,
    lopBit 0x0 x y = false ∧ lopBit 0xF x y = true ∧ lopBit 0x1 x y = !(x || y) ∧ lopBit 0x4 x y = (x && !y) ∧
    lopBit 0xD x y = (x || !y) ∧ lopBit 0x6 x y = (x ^^ y) ∧ lopBit 0x7 x y = !(x && y) ∧ lopBit 0x8 x y = (x && y) ∧
    lopBit 0x9 x y = !(x ^^ y) ∧ lopBit 0xA x y = y ∧ lopBit 0x3 x y = !x ∧ lopBit 0xC x y = x ∧ lopBit 0xE x y = (x || y) := by
  decide

/-- Settles O15: CSET sets out its table's entry, and each named table is the operation of its name. -/
theorem conditionTruthTable : Obligations.ConditionTruthTable := by
  intro d a b l s
  simp only [← lopBit_eq]
  refine ⟨by rw [exec_cset, State.resultC], ?_⟩
  obtain ⟨zero, one, nor, andn, orn, xor, nand, and, xnor, snd, nfst, fst, or⟩ := lopBit_named (cv s a) (cv s b)
  refine ⟨?_, ?_, ?_, ?_, ?_, ?_, ?_, ?_, ?_, ?_, ?_, ?_, ?_⟩ <;> rintro rfl <;> assumption

end Sys2Proof.Claims
